-- ==== Sys2Proof/Word.lean ====
section
/-! DEFINITION. The word types of the Adeis block (ZA-4260, stepping C) and nothing else: bit-field helpers stand in
Machine/Ops.lean. Bit 0 is the least significant bit and wide values are little-endian (R10). -/

namespace Sys2Proof

/-- One byte of memory, of the Cellar or of the NVM device. -/
abbrev Byte := BitVec 8
/-- A 16-bit field. -/
abbrev W16 := BitVec 16
/-- A 32-bit word: an FP32 pattern, a counter, an element index. -/
abbrev W32 := BitVec 32
/-- A 64-bit word: a Lath register, an argument word, a chain word. -/
abbrev W64 := BitVec 64
/-- One SI or SO transfer: a header, a beat of 256 elements, or a token (R228, R241). -/
abbrev Beat := BitVec 8192

namespace Machine

/-- A number as the lanes compute with it, exactly: a NaN (there is one, R45), an infinity with its sign, or the value
`(-1)^neg * m * 2^e`; zero keeps its sign (R41). -/
inductive Num where
  | nan
  | inf (neg : Bool)
  | fin (neg : Bool) (m : Nat) (e : Int)
deriving DecidableEq, Repr

end Machine
end Sys2Proof
end

