-- ==== Sys2Proof/Syntax.lean ====
section
/-! DEFINITION. The commands of the block: one constructor of `Instr` for each row of spec/opcode_table.json, in the
table's order, with the operands that the environment or the port supplies. A row that executes a Lath request names
the port only: the request is the one at the head of that port's queue (R257). -/

namespace Sys2Proof

/-- The two control ports of equal rights (R255). -/
inductive Port where
  | a | b
deriving DecidableEq, Repr

/-- A Lath request as the port's signals carry it (R255). -/
structure LathReq where
  /-- _REQ_WRITE -/
  write : Bool
  /-- _REQ_TAG[5:0] -/
  tag : BitVec 6
  /-- _REQ_ADDR[31:0] -/
  addr : W32
  /-- _REQ_GEN[31:0] -/
  gen : W32
  /-- _REQ_DATA[63:0] -/
  data : W64
deriving DecidableEq, Repr

/-- A frame on XP (R209, R210): the header fields, and the payload words in order. `XpFrame.header` is its header beat. -/
structure XpFrame where
  kind : BitVec 4
  len : BitVec 24
  shard : BitVec 20
  roundId : W32
  addr : BitVec 64
  wcount : BitVec 13
  /-- The reserved header bits: [7:4], [63:52] and [511:173], the lowest first; zero in a frame that the block sends. -/
  reserved : BitVec 355
  /-- The payload beats that arrived, 16 words of 32 bits each, first word first. -/
  words : List W32
deriving DecidableEq, Repr

/-- What a memory read returns (R154, R231, R151, R138). -/
inductive ReadTarget where
  /-- The argument set of the tile in this header slot. -/
  | argSet (bay : Fin 32) (slot : BitVec 6)
  /-- The next memory-input beat of that tile (INSRC = 1). -/
  | inputBeat (bay : Fin 32) (slot : BitVec 6)
  /-- The second input of that tile for its next beat (SECEN = 1). -/
  | second (bay : Fin 32) (slot : BitVec 6)
  /-- A spilled bond-store entry. -/
  | spill (g : BitVec 8) (ctx : BitVec 18) (level : BitVec 5) (node : BitVec 24)
deriving DecidableEq, Repr

/-- A unit of the spare inventory (R330): KIND, UNIT and INDEX as the finding entry has them. -/
structure UnitId where
  kind : BitVec 4
  unit : BitVec 6
  index : BitVec 11
deriving DecidableEq, Repr

/-- What the surroundings and the silicon answer during a start (R285 to R293): data no rule of the block decides. -/
structure StartEnv where
  /-- Lifecycle state read from the Gatehouse before step 2 (R351). -/
  lifecycle : BitVec 2
  /-- Step 2: the device answers (R286). -/
  nvmAlive : Bool
  /-- Step 3 ended without failure. -/
  logOk : Bool
  /-- Step 4: bit l is 1 when the golden header read at level l matches (R288). -/
  levelOk : BitVec 3
  /-- How many sections fail their CRC once and pass at the next lower level (R288), while step 5 reads copy A, B, golden
  and while step 7 and step 8 read. -/
  crcDrops : List Nat
  /-- The same five readings: bit i is 1 when a section of reading i, after those, fails at every level tried. -/
  crcFail : BitVec 5
  /-- The Gatehouse's reason code for copies A, B and golden; 0 is ACCEPT (R290, R353). -/
  verdicts : List (BitVec 8)
  /-- Findings of the start tests, each with the step that made it (R291). -/
  findings : List (Nat × UnitId)
  /-- Optional steps that fail, with their reason (R287, R292). -/
  failures : List (Nat × BitVec 7)
  /-- Margins that step 15 found, by physical bay (R322). -/
  margins : List (Nat × BitVec 6)
  /-- Step 14's write of the spare-map record succeeded. -/
  mapWriteOk : Bool
  /-- The wing loaders' streams arrived as read: East, West (R293). -/
  digestOk : Bool × Bool
  /-- A wing that loads again what the other wing runs loads it (R302). -/
  reloadOk : Bool
  /-- Steps whose outcome cannot be programmed into the start record; 17 stands for part 4, 18 for SPEED_USED and 19 for part 2
  (R296, R304). -/
  recordFails : List Nat
  /-- A selection entry that the command writes can be programmed (R297, R304). -/
  selectionOk : Bool
  /-- Steps that do not end by themselves: each ends at START_STEP_TIMEOUT (R287). Step 4 has a limit per level (R286): 4 stands
  for the first level that it tries, 17 for the second and 18 for the third. -/
  hang : List Nat
  /-- Bytes that the NVM device returns and that are not as the block last read or wrote them: what the factory or the
  integrator put there (R278, R279). -/
  device : List (Nat × Byte)
deriving DecidableEq, Repr

/-- A patrol event (R335, R337): what an activity found, if anything. -/
inductive PatrolEvt where
  /-- The activity (1 to 8) has covered a unit without a finding: a physical bay for activities 1, 3, 5 and 8, bank b of half
  h as 17 h + b for activity 4 (half 2 is the bond store), a Mortar unit for 6, a core for 7. -/
  | clean (activity : BitVec 4) (unit : BitVec 6)
  /-- Activity 4 corrected another entry of a bank: half 0 or 1, or 2 for the bond store. -/
  | bankCorrected (half : BitVec 2) (bank : BitVec 5)
  /-- A finding of R337 on the unit, with its SOURCE of R348 (1 vector, 4 ECC: a table row that was corrected, or a bank in which an
  entry that holds nothing could not be). -/
  | finding (u : UnitId) (source : BitVec 8)
deriving DecidableEq, Repr

/-- What the confirmation of a shadow sample meets in the silicon (R74, R336): the two check units, the bits by which each one's
FP64 result differs from the reference (zero in a sound unit), the pattern that the lane gave, and the patterns of its replays.
A result of two values, which ROT alone gives (R85), has the first in [63:0] and the second in [127:64]. -/
structure Confirm where
  u1 : BitVec 4
  u2 : BitVec 4
  fault1 : BitVec 128
  fault2 : BitVec 128
  got : BitVec 128
  replays : List (BitVec 128)
deriving DecidableEq, Repr

/-- Where a read met an error that ECC cannot correct (R338). -/
inductive EccSite where
  /-- A Scaffold entry; `prefetch` says that the prefetch of a tile is the read. -/
  | scaffold (ctx : BitVec 18) (prefetch : Bool)
  | bondEntry (g : BitVec 8) (ctx : BitVec 18) (level : BitVec 5) (node : BitVec 24)
  | total (index : BitVec 14)
  | tableRow (bay : Fin 34) (row : BitVec 11)
  | coreSram (core : Fin 10)
deriving DecidableEq, Repr

/-- A row of a group's bond trees: the group and the row's context (R134, R137). -/
structure TreeRow where
  bgrp : BitVec 8
  ctx : BitVec 18
deriving DecidableEq, Repr

/-- A command of a port that programs a selection entry, and whether the NVM takes the entry (R299, R304). -/
structure SelCmd where
  port : Port
  written : Bool
deriving DecidableEq, Repr

/-- How the NVM took a PROGRAM operation: the pages compare as written (R300), and the selection entry is programmed (R304). -/
structure FlashEnd where
  verified : Bool
  selected : Bool
deriving DecidableEq, Repr

/-- The commands of the block, one constructor for each row of the table. -/
inductive Instr where
  | siHeader (bay : Fin 32) (hdr : Beat)
  | siBeat (bay : Fin 32) (tag : BitVec 6) (data : Beat)
  | siLast (bay : Fin 32) (tag : BitVec 6) (ovf : Bool) (data : Beat)
  | siReservedKind (bay : Fin 32) (tag : BitVec 6)
  | beatCreditGrant (bay : Fin 32) (tag : BitVec 6) (n : BitVec 6)
  | tileAcceptance (bay : Fin 32) (slot : BitVec 6)
  | argumentRead (bay : Fin 32) (slot : BitVec 6)
  | tileAdmission (bay : Fin 32)
  | issueGroup (bay : Fin 32)
  | mortarRunAdd (unit : Fin 16)
  | tileRetirement (bay : Fin 32)
  | contextWriteBack (bay : Fin 32)
  | soTransfer (bay : Fin 32)
  | memoryWriteAck (port : Fin 4)
  | memoryReadResponse (port : Fin 4) (target : ReadTarget) (data : List (Nat × Byte))
  | bondTreeMerge (g : BitVec 8) (ctx : BitVec 18) (level : BitVec 5) (node : BitVec 24)
  | bondStoreSpill (row : TreeRow) (level : BitVec 5) (node : BitVec 24) (slot : W32)
  | spillReturn (row : TreeRow) (level : BitVec 5) (node : BitVec 24)
  | topkMerge (g : BitVec 8) (ctx : BitVec 18)
  | droopStretch (bay : Fin 32)
  | lateriskWindow (bay : Fin 32)
  | lathRequestTransfer (port : Port) (req : LathReq)
  | lathResponseTransfer (port : Port)
  | registerWrite (port : Port)
  | lathPortReset (port : Port)
  | semQuery (port : Port)
  | semAcquire (port : Port)
  | semRelease (port : Port)
  | semTake (port : Port)
  | errLogPop (port : Port)
  | errLogClrovf (port : Port)
  | errorLogEntryTransfer
  | etClear (port : Port)
  | etLoad (port : Port)
  | etCmdNop (port : Port)
  | ctxAlloc (port : Port)
  | ctxFree (port : Port)
  | scaffoldWindowWrite (port : Port)
  | bgrpArm (port : Port)
  | bgrpDisarm (port : Port)
  | routeGo (port : Port)
  | routingPassDone
  | stxGo (port : Port)
  | stxPassDone
  | gnStart (port : Port)
  | gnAbort (port : Port)
  | gnSummedFrame (frame : XpFrame)
  | xpLeafFrame (frame : XpFrame)
  | xpFoldFrame (frame : XpFrame)
  | xpStoreFrame (frame : XpFrame)
  | xpFrameInvalid (frame : XpFrame) (complete : Bool)
  | xpFoldArm (port : Port)
  | xpFoldDisarm (port : Port)
  | restartWing (port : Port) (env : StartEnv)
  | commit (cmd : SelCmd)
  | program (port : Port)
  | programDone (verdict : BitVec 8) (flash : FlashEnd)
  | retest (cmd : SelCmd)
  | respeed (cmd : SelCmd)
  | imgCmdNone (port : Port)
  | coldStart (trimOk : Bool) (lifecycle : BitVec 2)
  | startStepTimeout (step : Fin 17)
  | ready
  | pwrStop (port : Port)
  | pwrWarmreset (port : Port)
  | pwrCmdNone (port : Port)
  | pwrBayoff (port : Port)
  | bayGate (bay : Fin 32)
  | stopEntrySave
  | stopCommitWindow
  | stopDomainsOff
  | stopLowPower
  | wakeEvent (millivolts : Nat)
  | rstNAssert
  | vauxPowerOnTrip
  | vauxPowerOnRelease
  | aoBrownout
  | coreBrownout
  | drainEnd
  | powerupDomainOn (domain : Fin 38)
  | isolationRelease
  | cellarRestore
  | stoppedFall (env : StartEnv)
  | patrolVector (evt : PatrolEvt)
  | patrolConfirm (bay : Fin 32) (lane : BitVec 9) (row : BitVec 8) (stage : BitVec 4) (element : W32) (outcome : Confirm)
  | spareMapping (bay : Fin 32)
  | bankCopyDone
  | spareBayPrepared (west : Bool) (passed : Bool)
  | spareMapNvmWrite (ok : Bool)
  | spareCmdRetire (port : Port)
  | spareCmdNone (port : Port)
  | eccloss (site : EccSite)
  | dbgNone (port : Port)
  | setlevel (port : Port)
  | challenge (port : Port)
  | respond (port : Port)
  | advance (port : Port)
  | cancel (port : Port)
  | gatehouseChallenge (nonce : BitVec 256)
  | gatehouseAnswer (grant : Bool) (reason : BitVec 8) (fuseOk : Bool)
  | gatehouseTimeout
  | tapTestLogicReset
  | tapUpdateIr (opcode : BitVec 8)
  | regacc (addr : W32) (write : Bool) (data : W64) (env : StartEnv)
  | logread (index : BitVec 8)
  | coretrace (core : BitVec 4)
  | coredbgStatus (core : BitVec 4)
  | coredbgHalt (core : BitVec 4)
  | coredbgStep (core : BitVec 4)
  | coredbgResume (core : BitVec 4)
  | coredbgRead (core : BitVec 4) (word : BitVec 14)
  | coredbgWrite (core : BitVec 4) (word : BitVec 14) (data : W32)
  | lathRead (port : Port)
  | lathPortResetRelease (port : Port)
  | rstNRelease
  | coreBrownoutRelease
  | bayPowerRestored (bay : Fin 32)
deriving DecidableEq, Repr

end Sys2Proof
end

