-- ==== Sys2Proof/Config.lean ====
section
/-! DEFINITION. What the manual leaves to an implementation, and the free values: constants with no body, so that
nothing can be proved of them but what holds whatever they are. Notes/assumptions 3 to 6, 122 and
165 name each of them. -/

namespace Sys2Proof.Config

/-- A value that the manual leaves open each time it arises: the step reads and advances the counter `State.free` and
takes this constant of it (notes/assumptions/3). -/
opaque freeValue : Nat → Nat

/-- Byte offset, within the row of a SEG stage's record array, of the record of the `k`-th run that an operation
writes for that row: R145 and R146 give the record's content and its base only (notes/assumptions/4). -/
opaque segRecordOffset : Nat → Nat

/-- A word of a bay's table store that holds no loaded table: R330 gives the store 1,296 rows of 512 bytes, and no rule
says what the rest of them holds. Arguments: image generation, row, 64-bit word of the row (notes/assumptions/5). -/
opaque tableStoreWord : Nat → Nat → Nat → W64

/-- Where a word of a table store comes from: TABLE_ID and the word of its body. Arguments: the loaded tables as
(TABLE_ID, words), row, 64-bit word of the row (notes/assumptions/5). -/
opaque tablePlace : List (Nat × Nat) → Nat → Nat → Nat × Nat

/-- The manufacturer code in [11:1] of IDCODE, from the host's fuses (R354, notes/assumptions/122). -/
opaque manufacturer : BitVec 11

/-- How many cells the wrapper boundary register has: its length and cell order are those of a description that another party
supplies (R354, notes/assumptions/165). -/
opaque boundaryCells : Nat

/-- The factory trim of the droop comparator of a physical bay (R322, notes/assumptions/122). -/
opaque droopTrim : Nat → BitVec 6

/-- What a function gives whose table the wing's image does not carry, as an FP64 pattern: Iapor rejects such an image,
and no rule says what the block does with one (notes/assumptions/6). Argument: TABLE_ID. -/
opaque absentFunction : Nat → W64

/-- A polynomial over a reference table that is not loaded, as a count of 2^-62 (notes/assumptions/6). Arguments:
TABLE_ID and segment. -/
opaque absentPoly : Nat → Nat → W64

/-- A rotary frequency beyond its table (R94, notes/assumptions/6). Arguments: table and index. -/
opaque absentFrequency : Nat → Nat → W64

end Sys2Proof.Config
end

