-- ==== Sys2Proof/Machine/State.lean ====
section
/-! DEFINITION. The state of the block as plain data: every register, store, queue, mode and pin that spec/ gives it, and
the queue of waiting commands. Each field's comment names the rule that gives it and its reset value (the Cold value);
"Control" marks what lies in the switched domains and "AO" what lies in the always-on domain (R26, R329). Sparse stores
are lists of (key, value) pairs with keys strictly rising and no entry equal to the store's default, which each field's
comment states. -/

namespace Sys2Proof.Machine

/-- Why the block stops: raised by a meaning whose command names a unit that the inventory of R330 does not hold, so the
event cannot take place on any part; safe, because the model stops where the hardware has no such event. -/
inductive Fault where
  /-- Raised by PATROL_VECTOR, PATROL_CONFIRM and ECCLOSS on a unit outside R330 or R21; safe. -/
  | noSuchUnit
deriving DecidableEq, Repr

/-- Why the model refuses a command. -/
inductive Refusal where
  /-- Raised by an arm of `exec` that has no meaning yet (none is left); safe. -/
  | notModelled (mnemonic : String)
deriving DecidableEq, Repr

/-- A row context (R120), the 256-bit Scaffold entry by field. -/
structure RowCtx where
  /-- [23:0], signed; 0x80_0000 is KNONE. -/
  pivot : BitVec 24
  /-- [24] -/
  nanSeen : Bool
  /-- [25] -/
  infSeen : Bool
  /-- [63:32] FP32 -/
  psum : W32
  /-- [95:64] FP32 -/
  sum : W32
  /-- [127:96] FP32 -/
  sumsq : W32
  /-- [159:128] FP32 -/
  maxv : W32
  /-- [191:160] FP32 -/
  minv : W32
  /-- [207:192] (R66) -/
  blockloss : W16
  /-- [219:208] -/
  etx : BitVec 12
  /-- [220] -/
  etv : Bool
  /-- [255:224] -/
  count : W32
deriving DecidableEq, Repr

/-- The all-zero context: what a bank reads after a reset that clears the Scaffold (R121). -/
def RowCtx.zero : RowCtx :=
  ⟨0, false, false, 0, 0, 0, 0, 0, 0, 0, false, 0⟩

/-- One term of a group of a summing stage: the value and, for PSUM, the element's pivot k_i (R104, R119). -/
structure Term where
  value : Num
  k : BitVec 24
deriving DecidableEq, Repr

/-- What a lane keeps for one SUM, TALLY or SEG stage between groups (R102 to R107). -/
structure SumSt where
  stage : Nat
  /-- Present terms of the group in progress, in element order. -/
  terms : List Term
  /-- Pivot of the row after the latest element seen (R119). -/
  kEnd : BitVec 24
  /-- Pivot at the end of the previous group (R118). -/
  kPrev : BitVec 24
  /-- Group results of the run in progress (EXACT mode, R107), oldest first. -/
  run : List W32
deriving DecidableEq, Repr

/-- The lane segment register of a SEG stage (R145, R146). -/
structure SegSt where
  stage : Nat
  /-- The open run's segment ID; none when no run is open. -/
  segment : Option (BitVec 24)
  /-- FP32 statistic so far. -/
  value : W32
  /-- Present elements of the run. -/
  count : W32
  /-- Element index of the run's first element. -/
  first : Nat
  /-- Element index of the latest element of the run that has come (R145). -/
  last : Nat
  /-- Runs of the row that the operation has recorded. -/
  written : Nat
  /-- CTAG of the context that the lane held at the run's latest element (R49, R192). -/
  tag : W32
deriving DecidableEq, Repr

/-- One element between lane passes, or waiting for its pair or for its row's other pieces: lane value registers V0 and
V1, the value between stages, and the exact result of the final value stage (R153, R165, R166). -/
structure Elem where
  /-- Beat of the tile that carried it. -/
  beat : Nat
  /-- Absent for statistics (R187). -/
  masked : Bool
  /-- Under SEGCTX, before the first entry of the segment table: of no segment context (R192, notes/assumptions/39). -/
  outside : Bool
  /-- The raw code of the stream element. -/
  raw : Nat
  stream : Num
  prev : Num
  v0 : Num
  v1 : Num
  /-- Exact value of the stream element, before it is held in bond format. -/
  precise : Num
  /-- The exact result of the final value stage whose rounding PREV, V0 and V1 hold (R165, R166). ROT has two (R85). -/
  exPrev : Option Num
  exV0 : Option Num
  exV1 : Option Num
  /-- The row's pivot after this element's own update (R119). -/
  ki : BitVec 24
  /-- Segment ID under SEGREAD (R190); NOSEG is 0xFF_FFFF. -/
  seg : BitVec 24
  /-- How much it raised the pivot, by segment index under SEGCTX: more than one entry only where RECOMB has brought elements of
  several segments together (R117, R192). -/
  delta : List (Nat × Nat)
  /-- Index of the stage that the element has yet to enter. -/
  stage : Nat
deriving DecidableEq, Repr

/-- One lane of a bay (R19, R143, R146): the context register and what the lane holds beside it. Control. -/
structure Lane where
  ctx : RowCtx
  /-- The context as prefetched, for the final reads of a SKIM bond (R171). -/
  frozen : RowCtx
  /-- CTAG of the row's context (R123). -/
  tag : W32
  /-- Total ETX read at admission for NORM with XSRC ≠ 0 (R163). -/
  etRead : W32
  /-- Flags of the chunk in progress for its leaf (R137). -/
  leafNan : Bool
  leafInf : Bool
  sums : List SumSt
  segs : List SegSt
  /-- Top-k buffer: (value, index) in rank order (R143). -/
  topk : List (W32 × W32)
  /-- Elements not yet through the bond. -/
  elems : List Elem
  /-- The SX8 block that CV holds: (output index, raised pivot, exact source) (R63). -/
  block : List (Nat × List (Nat × Nat) × Num)
  /-- Output words of the row bound for an aperture (R213). -/
  xpWords : List W32
  /-- INVSCALE met in this tile (R62). -/
  invSeen : Bool
deriving DecidableEq, Repr

/-- How far a tile has come (R227, R240, R325, R369). -/
inductive TileStatus where
  /-- The header waits in its slot. -/
  | waiting
  /-- Accepted: a bond instance. -/
  | accepted
  /-- Admitted: it holds the lanes. -/
  | admitted
  /-- Refused, or ended by a port reset, with the cause of its ERROR token, and with WHERE and AUX of the error-log entry
  that its retirement makes; none when the entry has been made (R240, R325). -/
  | refused (cause : BitVec 8) (entry : Option (W32 × W32))
  /-- Discarded under STATE SKIP (R219). -/
  | skipped
deriving DecidableEq, Repr

/-- A tile: its header by field (R230), its beats, and the copies that the bay took for it. Control. -/
structure Tile where
  seq : W32
  chain : BitVec 12
  ctxBase : BitVec 18
  elem0 : W32
  beats : BitVec 13
  eor : Bool
  /-- CTXOP: true for OVERWRITE. -/
  overwrite : Bool
  shift : BitVec 2
  infmt : BitVec 4
  bgrp : BitVec 8
  chunk : BitVec 24
  argset : BitVec 16
  /-- A reserved header field is nonzero. -/
  reserved : Bool
  status : TileStatus
  /-- Beat credits granted. -/
  granted : Nat
  /-- Beats arrived, stored or discarded. -/
  arrived : Nat
  lastSeen : Bool
  ovf : Bool
  /-- Beats stored in the Hod, in element order. -/
  data : List Beat
  /-- Beats of the second input read so far. -/
  secondRead : Nat
  /-- The chain entry, header word first, as the bay's wing holds it (R151). -/
  words : List W64
  /-- The argument set has come back from memory. -/
  argArrived : Bool
  /-- Check 8 of R239 has passed. -/
  argDone : Bool
  /-- The eight argument words (R154); empty until the argument read. -/
  args : List W64
  /-- Memory as the argument read took it: the tile uses these copies throughout (R154, R178). -/
  view : List Host.Cell
  /-- The staging copy of the 256 contexts; empty until the prefetch has run (R19). -/
  staged : List RowCtx
deriving DecidableEq, Repr

/-- The tile in the lanes and where its issue stands (R17, R51, R237). Control. -/
structure Active where
  seq : W32
  /-- SR_SEED and SR_STEP as sampled at admission. -/
  seed : W64
  step : W32
  group : Nat
  pass : Nat
  /-- Output beats sent so far. -/
  outBeats : Nat
  /-- A protocol error has ended the tile (R369). -/
  ended : Bool
deriving DecidableEq, Repr

/-- The operation whose registers the lanes hold (R19, R128). Control. -/
structure HeldOp where
  ctxBase : BitVec 18
  chain : BitVec 12
  bgrp : BitVec 8
  overwrite : Bool
  /-- SEGCTX: base Q and the segment whose contexts are in the lanes (R192). -/
  segCtx : Option (Nat × Nat)
  /-- Chunks of the group that the operation has covered. -/
  chunks : List Nat
  /-- First contexts of the courses of 256 that its tiles have named (R19, R147). -/
  courses : List Nat
  /-- Exact totals that its tiles' column and tally stages add into: first total and count (R128). -/
  totals : List (Nat × Nat)
  /-- May the next tile carry over (R369: not after a protocol error). -/
  carry : Bool
  /-- The operation's latest tile with its copies. -/
  tile : Tile
deriving DecidableEq, Repr

/-- One transfer in an SO egress queue: SO_KIND and SO_DATA (R242). -/
structure SoItem where
  kind : BitVec 3
  data : Beat
deriving DecidableEq, Repr

/-- A logical bay: its header slots, Hod, lanes, egress queue and droop counters. Control; zero at Cold, Warm, Stop and
Wing unless said otherwise. -/
structure Bay where
  /-- Tiles whose headers hold a slot, in order of arrival (R235). -/
  tiles : List Tile
  /-- NEXT (R235); 0. -/
  next : W32
  /-- Header credits that the engine holds as Adeis has returned them (R232); 64. -/
  hdrCredits : Nat
  /-- SI_RST (R229); 0. -/
  siRst : Bool
  act : Option Active
  held : Option HeldOp
  /-- The 256 lanes, lane r first; empty while no operation holds them. -/
  lanes : List Lane
  /-- The last operation and its lanes as they were written back, for a tile that carries it on although its header came
  later (R19, R253, notes/assumptions/29). -/
  resume : Option (HeldOp × List Lane)
  /-- SO egress queue, oldest first, at most 32 entries (R29, R241). -/
  soq : List SoItem
  /-- What stands behind a full egress queue: CV and the positions before it stall with it (R29, R162, R245). -/
  stalled : List SoItem
  /-- The SEQ whose replay is awaited and the shift its token requested (R175). -/
  replay : Option (W32 × BitVec 2)
  /-- HOD_DROOP.EVENTS (R250); 0. -/
  events : W32
  /-- Stretch events of the window in progress (R248); 0. -/
  window : Nat
  /-- HOD_DROOP.WORST; 0. -/
  worst : BitVec 11
  /-- HOD_DROOP.LATE; 0. -/
  late : Bool
deriving DecidableEq, Repr

/-- A bay as every reset of its Hod leaves it. -/
def Bay.reset : Bay :=
  ⟨[], 0, 64, false, none, none, [], none, [], [], none, 0, 0, 0, false⟩

/-- Who wrote to memory (R244). -/
inductive Writer where
  | tile (bay : Nat) (seq : W32)
  /-- A list, segment or leaf-pivot record of a tile (R143, R146, R164). -/
  | record (bay : Nat) (seq : W32)
  | spill (slot : W32)
  | core
  /-- A routing pass, or a statistic transfer (R196, R200). -/
  | pass (stx : Bool)
deriving DecidableEq, Repr

/-- A write waiting for its acknowledgement: bytes with the mask of the bits that it sets. The request moves the aligned 128-byte
units that these bytes lie in, whose other bytes it leaves as they are (R244, notes/assumptions/188). Control. -/
structure MemWrite where
  writer : Writer
  cells : List (Nat × Byte × Byte)
deriving DecidableEq, Repr

/-- A run or single term waiting for its Mortar unit (R107, R108). Source 0 to 31 is the bay, 32 is XP. Control. -/
structure MRun where
  source : Nat
  total : Nat
  terms : List W32
  /-- Row context whose ETX the run serves (R128). -/
  ctx : Option (BitVec 18)
  chain : BitVec 12
  bgrp : BitVec 8
deriving DecidableEq, Repr

/-- An exact total (R109, R110). LIMIT is TERMS ≥ 2^40. -/
structure Total where
  /-- T, 320 bits, two's complement. -/
  t : BitVec 320
  /-- TERMS, saturating. -/
  terms : BitVec 41
  ovf : Bool
  pinf : Bool
  ninf : Bool
  nan : Bool
  allNegZ : Bool
  /-- 0 SUM, 1 MAX, 2 MIN. -/
  mode : BitVec 2
deriving DecidableEq, Repr

/-- A cleared SUM total: the reset value of every total (R114). -/
def Total.zero : Total := ⟨0, 0, false, false, false, false, false, 0⟩

/-- A bond-store entry (R137). -/
structure BondEntry where
  ctx : BitVec 18
  node : BitVec 24
  level : BitVec 5
  bgrp : BitVec 8
  pivot : BitVec 24
  nanSeen : Bool
  infSeen : Bool
  psum : W32
deriving DecidableEq, Repr

/-- A node in the spill region: its slot there and whether its write is acknowledged (R138, R244). -/
structure Spilled where
  entry : BondEntry
  slot : W32
  acked : Bool
  /-- The read that brings it back has returned. -/
  arrived : Bool
deriving DecidableEq, Repr

/-- A bond group: BGRP_DEF, BGRP_RANGE and BGRP_XP with its acceptance bitmap (R132, R133, R222), which stands here and shows no
bytes in the spill region (notes/assumptions/178). Control; 0 at Cold, Warm, Wing, Lath A, Lath B, Stop. -/
structure Bgrp where
  base : BitVec 18
  courses : BitVec 11
  csize : Bool
  arm : Bool
  done : Bool
  rootsLeft : BitVec 19
  c0 : BitVec 24
  n : BitVec 25
  /-- BGRP_XP.ROLE: true for SEND. -/
  send : Bool
  ownerC0 : BitVec 24
  ownerN : BitVec 25
  /-- Acceptance bitmap: the marked (course, chunk) pairs. -/
  marks : List (Nat × Nat)
  /-- The part of the bitmap that LEAF entries marked: row offset, first chunk and chunks (R224). -/
  leaves : List (Nat × Nat × Nat)
  /-- Under SEGCTX, the chunk span (first, count) of each course's segment (R193). -/
  spans : List (Nat × Nat × Nat)
deriving DecidableEq, Repr

/-- An undeclared group. -/
def Bgrp.zero : Bgrp :=
  ⟨0, 0, false, false, false, 0, 0, 0, false, 0, 0, [], [], []⟩

/-- A top-k list record of a bonded row that waits for its merge (R144). Control. -/
structure TopkRec where
  bgrp : BitVec 8
  ctx : BitVec 18
  chain : BitVec 12
  k : Nat
  addr : Nat
  cands : List (W32 × W32)
  /-- The tile that left the record: its bay and SEQ. -/
  bay : Nat
  seq : W32
  /-- How often its group has been armed since: a record of an earlier row merges with those of that row only (R132). -/
  past : Nat
deriving DecidableEq, Repr

/-- A response waiting in a port's queue: TAG, CODE, DATA (R255). -/
structure LathRsp where
  tag : BitVec 6
  code : BitVec 3
  data : W64
deriving DecidableEq, Repr

/-- One Lath port (R255 to R257). Control; emptied at Cold, Warm, its own reset and Stop. -/
structure LathPort where
  /-- Request queue, at most 8, oldest first. -/
  reqs : List LathReq
  /-- Response queue, at most 8, oldest first. -/
  rsps : List LathRsp
  /-- _RST_N has been high for at least 8 pc. -/
  up : Bool
deriving DecidableEq, Repr

/-- An error-log entry: its two words (R269). -/
structure LogEntry where
  w0 : W64
  w1 : W64
deriving DecidableEq, Repr

/-- The error log (R268, R271, R272). -/
structure ErrLog where
  /-- Control: entries on their way to AO, at most 32, oldest first; empty. -/
  queue : List LogEntry
  /-- AO: the ring's entries, oldest first, at most 128; empty at Cold only. -/
  ring : List LogEntry
  /-- AO: ERR_LOG_HEAD.HEAD; 0 at Cold only. -/
  head : BitVec 7
  /-- AO: ERR_LOG_OVF; 0 at Cold only. -/
  ovf : W32
deriving DecidableEq, Repr

/-- The semaphore (R264). -/
structure Sem where
  /-- Control: OWNER; none at Cold, Warm, Stop. -/
  owner : Option Port
  /-- Control: LOST_A, LOST_B; 0 at Cold, Warm, Stop. -/
  lostA : Bool
  lostB : Bool
  /-- AO: GEN; 0 at Cold. -/
  gen : W32
  /-- Control: the working copy of GEN. -/
  copy : W32
deriving DecidableEq, Repr

/-- The NaN trap (R67, R68). Control; 0 at Cold, Warm, Stop. -/
structure NanTrap where
  valid : Bool
  xp : Bool
  bay : BitVec 5
  chain : BitVec 12
  stage : BitVec 4
  cause : BitVec 3
  row : BitVec 8
  context : BitVec 18
  element : W32
  tileSeq : W32
  count : W32
deriving DecidableEq, Repr

/-- Run controls and selectors that no other structure holds. Control. -/
structure Ctl where
  /-- SR_SEED (R52); 0 at Cold, Warm. -/
  srSeed : W64
  /-- SR_STEP (R52); 0 at Cold, Warm. -/
  srStep : W32
  /-- ARGSET_BASE (R156); 0 at Cold, Warm. -/
  argsetBase : W64
  /-- DROOP_CTL.ALLOW (R250); 4 at Cold, Warm. -/
  allow : BitVec 4
  /-- CHV_SEL (R157); 0 at Cold, Warm, Stop. -/
  chvChain : BitVec 12
  chvWest : Bool
  /-- ET_SEL, ET_LOAD (R114); 0 at every reset. -/
  etSel : BitVec 14
  etLoad : W32
  /-- CTX_BASE (R125); 0 at every reset. -/
  ctxBase : BitVec 18
  /-- BS_SPILL_BASE, BS_SPILL_SIZE (R125); 0 at every reset. -/
  spillBase : W64
  spillSize : W32
deriving DecidableEq, Repr

/-- The routing registers (R195). Control; 0 at Cold, Warm, Stop. -/
structure Route where
  src : W64
  dst : W64
  cnt : W64
  ctl : W64
  busy : Bool
  done : Bool
  badIdx : Bool
  doneRecs : BitVec 24
  /-- The pass has put its writes to the memory ports, with the first bad index that it met, if any (R27, R196). -/
  issued : Option (Option (Nat × Nat))
deriving DecidableEq, Repr

/-- The statistic transfer registers (R199). Control; 0 at Cold, Warm, Stop. -/
structure Stx where
  src : W64
  dst : W64
  busy : Bool
  done : Bool
  doneCnt : BitVec 19
  /-- The pass has put its writes to the memory ports (R27, R200). -/
  issued : Bool
deriving DecidableEq, Repr

/-- The global-norm round (R214). Control; 0 at Cold, Warm, Stop; optStep 0 at Cold, Warm. -/
structure Gn where
  ctl : W64
  tags : W64
  gate : W64
  argDst : W64
  /-- 0 IDLE, 1 OPEN, 2 PASS, 3 SKIP. -/
  state : BitVec 2
  flag : Bool
  decided : Bool
  skips : W32
  sumsq : W32
  clip : W32
  votes : W32
  shards : W32
  optStep : W32
deriving DecidableEq, Repr

/-- The XP registers and egress (R213). Control; 0 at Cold, Warm, Stop; shard 0 at Cold, Warm. -/
structure Xp where
  shard : BitVec 20
  aper0 : W64
  aper1 : W64
  remote0 : W64
  remote1 : W64
  foldBase : BitVec 14
  foldCount : BitVec 13
  foldFrames : BitVec 24
  foldArm : Bool
  left : BitVec 24
  foldDone : Bool
  drops : W32
  /-- Frames sent on XP, oldest first. -/
  out : List XpFrame
deriving DecidableEq, Repr

/-- A function table record of the image (R92). -/
structure FuncTable where
  id : Nat
  kind : Nat
  degree : Nat
  count : Nat
  /-- PARAMS, 16 bytes. -/
  params : BitVec 128
  /-- The body as 64-bit words. -/
  body : List W64
deriving DecidableEq, Repr

/-- What one wing holds of the image it last started with (R95, R284, R303). Control. -/
structure WingImage where
  /-- Chain entries: ID and words, header first (R283). -/
  chains : List (BitVec 12 × List W64)
  fmtEnable : W16
  rndEnable : BitVec 5
  tables : List FuncTable
deriving DecidableEq, Repr

/-- A wing that holds no image. -/
def WingImage.empty : WingImage := ⟨[], 0, 0, []⟩

/-- IMG_COPYGEN of one copy (R298). -/
structure CopyGen where
  gen : W32
  valid : Bool
  failed : Bool
deriving DecidableEq, Repr

/-- A start in progress (R285, R286): which step it has yet to take, and what its record and its end need. -/
structure Start where
  /-- R285: 0 COLD, 1 WARM, 2 RESUME, 3 WING_E, 4 WING_W. -/
  kind : BitVec 3
  cause : BitVec 8
  env : StartEnv
  /-- The step to take next, 2 to 16. -/
  step : Nat
  /-- How many levels have failed in step 4 (R288). -/
  tried : Nat
  /-- OUTCOME and REPAIRS bytes by step. -/
  outcomes : List Byte
  repairs : List Byte
  /-- The skip set of this start. -/
  skipMask : W16
  /-- Copies marked FAILED. -/
  failed : BitVec 3
  /-- A start record is open (step 3 passed). -/
  logged : Bool
  /-- The level changed under R288. -/
  levelChanged : Bool
  /-- The copy that a wing start names. -/
  copy : BitVec 2
  /-- Expected hashes of the two wings (R293). -/
  hashE : BitVec 256
  hashW : BitVec 256
  /-- A wing start loads again what the other wing runs (R302). -/
  reload : Bool
deriving DecidableEq, Repr

/-- The image registers and the start (R293, R298). Control. -/
structure Img where
  /-- IMG_STATUS.BUSY, OP, EVENT, RESULT; 0. -/
  busy : Bool
  op : BitVec 3
  event : Bool
  result : BitVec 8
  /-- SPEED, COPY_E, COPY_W, FWCOPY, PREFERRED: set by the start. -/
  speed : BitVec 2
  copyE : BitVec 2
  copyW : BitVec 2
  fwCopy : BitVec 2
  preferred : BitVec 2
  genE : W32
  genW : W32
  hashE : BitVec 256
  hashW : BitVec 256
  /-- IMG_COPYGEN of A, B, golden. -/
  copies : List CopyGen
  startNo : W32
  kind : BitVec 3
  skipMask : W16
  /-- BLK_STATUS.EAST_READY, WEST_READY, GENDIFF (R274); 0 at Cold, Warm, Stop. -/
  eastReady : Bool
  westReady : Bool
  genDiff : Bool
  start : Option Start
  /-- The PROGRAM operation running: copy and source address (R300). -/
  program : Option (BitVec 2 × Nat)
  east : WingImage
  west : WingImage
deriving DecidableEq, Repr

/-- How the block leaves Stop or a power-off (R317, R320). -/
inductive ExitKind where
  | cold | warm | wake
deriving DecidableEq, Repr

/-- What follows a drain (R315, R323). -/
inductive DrainEnd where
  | cold (lastCause : BitVec 4)
  | warm
  | faultStop
deriving DecidableEq, Repr

/-- Where the block stands between power-off, Run and Stop (R5, R314, R320, R323). -/
inductive Phase where
  /-- VAUX is below its trip level. -/
  | noAux
  /-- A cold start waits for step 1. -/
  | trim
  /-- Domains are being switched on, from X0. -/
  | powerUp (k : ExitKind)
  /-- CONTROL is out of reset and STOPPED is still 1. -/
  | released (k : ExitKind)
  | run
  | drain (d : DrainEnd)
  /-- The reset phase of a warm reset, STOPPED 1. -/
  | warmHold
  /-- Stop entry before aoc 0; image valid says what IMGVALID becomes. -/
  | entering (imgValid : Bool)
  /-- The save is done. -/
  | saved
  /-- From aoc 464. -/
  | committed
  /-- From aoc 472, no exit taken. -/
  | off
  | stop
deriving DecidableEq, Repr

/-- Power, wake and droop calibration (R309, R318, R321, R327). -/
structure Pwr where
  phase : Phase
  /-- The STOPPED output. -/
  stopped : Bool
  /-- LASTCAUSE (R309). -/
  lastCause : BitVec 4
  /-- AO: FSTOP; 0 at Cold. -/
  fstop : BitVec 8
  /-- AO: STOPCOUNT; 0 at Cold. -/
  stopCount : W32
  /-- PWR_DOMAINS.ON (R33). -/
  domains : BitVec 38
  /-- PWR_BAYOFF; 0 at Cold, Warm, Stop. -/
  bayOff : BitVec 32
  /-- AO: WAKE_CTL.THRESH 8, POL 0, EN 0 at Cold. -/
  thresh : BitVec 4
  pol : Bool
  en : Bool
  /-- AO: WAKE_STATUS.LEVEL, LOST, TAKEN; 0 at Cold. -/
  level : Bool
  lost : Bool
  taken : Bool
  /-- The level was active at some time in ENTERING (R319). -/
  seen : Bool
  /-- RST_N is held low. -/
  rstLow : Bool
  /-- The core brown-out detector reads VDD good. -/
  vddGood : Bool
  /-- An exit taken that waits for VDD (R317). -/
  exit : Option ExitKind
  /-- The regulator is in low-power mode (R307). -/
  lowPower : Bool
  /-- DROOP_CAL: MARGIN and SOURCE of the 34 physical bays (R322). -/
  droopCal : List (BitVec 6 × BitVec 2)
  /-- The voltage at the WAKE_SENSE pin in millivolts, which no reset changes (R318). -/
  wakeMv : Nat
  /-- RST_N has been low at some time since ENTERING began (R326). -/
  rstSeen : Bool
deriving DecidableEq, Repr

/-- A finding not yet in the NVM record (R343, R344). AO. -/
structure FindingRec where
  unit : UnitId
  source : BitVec 8
  result : BitVec 8
  startNo : W32
deriving DecidableEq, Repr

/-- What scales the result of a sampled lane on its way into the target format (R60, R62): nothing, the row's scale, or the
code of its SX8 block, which is known once the block has left. -/
inductive SampleScale where
  | none
  | row (s : W32)
  | block (code : Option (BitVec 8))
deriving DecidableEq, Repr

/-- A shadow sample (R336): the physical lane and the row that it served, the stage, the element, the tile's chain and SEQ;
the target format, the rounding mode and the draw of the lane's result, with INTMODE and the scale (R74); and the reference
results that the check path forms from the operands that the lane latched, as FP64 (R18, R76), once the stage has run. -/
structure Sample where
  lane : Nat
  row : Nat
  stage : Nat
  element : Nat
  chain : Nat
  seq : Nat
  fmt : Nat
  mode : Nat
  draw : Nat
  wrap : Bool
  scale : SampleScale
  refs : List W64
deriving DecidableEq, Repr

/-- The spare map's part for one physical bay, and its patrol counters (R345 BAYMAP). -/
structure BayMap where
  /-- Retired physical lanes in order of retirement. -/
  lanes : List (BitVec 9)
  /-- Retired table rows in order. -/
  rows : List (BitVec 11)
  cmp : Bool
  cmpx : Bool
  check : BitVec 2
  /-- Word 7: SOFT and SAMPLES; 0 at Cold, Warm. -/
  soft : BitVec 2
  samples : W32
deriving DecidableEq, Repr

/-- A bay with nothing retired. -/
def BayMap.zero : BayMap := ⟨[], [], false, false, 0, 0, 0⟩

/-- The spare map (AO: rebuilt at Cold, survives every other event) and Pointing patrol (R331, R345, R347). -/
structure Spare where
  retired : BitVec 34
  eUse : Bool
  eFor : BitVec 4
  wUse : Bool
  wFor : BitVec 4
  /-- SCF0, SCF1, BOND: the bank replaced by bank 16, 0x1F none. -/
  scf0 : BitVec 5
  scf0x : Bool
  scf1 : BitVec 5
  scf1x : Bool
  bond : BitVec 5
  bondx : Bool
  /-- Copies of R333 that have yet to end, the running one first: 1 SCF0, 2 SCF1, 3 BOND. SPARE_BANKS.COPY shows the first;
  the bank being copied is the one that scf0, scf1 or bond names. -/
  copies : List (BitVec 2)
  cores : BitVec 10
  mortar : BitVec 16
  bays : List BayMap
  /-- SPARE_STATUS.DNEW, RNEW; 0 at Cold, Warm, Stop. -/
  dnew : Bool
  rnew : Bool
  /-- Lanes, rows and comparators whose mapping waits for a tile boundary of their bay, and cores whose mapping waits for the
  end of their task (R332, R349). -/
  waiting : List UnitId
  /-- Spare bays in preparation: west?, and the logical bay (R334). -/
  preps : List (Bool × Nat)
  /-- Findings not yet written to NVM. -/
  unwritten : List FindingRec
  /-- PATROL_CTL; EN 1, RATE 4, SPARETEST 1 at Cold, Warm. -/
  patrolEn : Bool
  rate : BitVec 4
  spareTest : Bool
  /-- PATROL_STATUS; 0 at Cold, Warm. -/
  sweeps : W32
  left : BitVec 8
  /-- Bank counters of R347, sparse by 32 * half + bank; default 0. -/
  bankCnt : List (Nat × Nat)
  /-- What each activity of the sweep has covered: (activity, unit) (R335). Control; empty at Cold, Warm, Stop. -/
  covered : List (Nat × Nat)
  /-- Lanes whose latest test vector failed (R337). Control; empty at Cold, Warm, Stop. -/
  vfail : List UnitId
  /-- By physical bay, the latest shadow sample: its lane, value stage and element slot (R336). Control; zero at Cold, Warm,
  Stop. -/
  rot : List (Nat × Nat × Nat)
  /-- By physical bay, the samples taken and not yet compared, oldest first: those whose stage and block have ended, and those of
  the tile in the lanes whose stage or block has yet to end (R336). Control; empty at Cold, Warm, Stop. -/
  sampled : List (List Sample)
deriving DecidableEq, Repr

/-- Lifecycle and debug registers (R363). -/
structure Dbg where
  /-- LC_STATUS.STATE: read from the Gatehouse at every start. -/
  lc : BitVec 2
  /-- The lifecycle state in the Gatehouse's fuses, as far as the block has read or advanced it: it only rises (R352). -/
  fuse : BitVec 2
  /-- AO: LEVEL. -/
  level : BitVec 2
  /-- AO: ZDONE; 0 at Cold. -/
  zdone : Bool
  /-- DBG_STATUS; 0 at Cold, Warm, Stop. -/
  state : BitVec 2
  result : BitVec 3
  reason : BitVec 8
  purpose : BitVec 2
  tlevel : BitVec 2
  target : BitVec 2
  source : BitVec 2
  /-- AO: REFUSALS; 0 at Cold. -/
  refusals : BitVec 8
  /-- DBG_CHAL, DBG_RESP; 0 at Cold, Warm, Stop. -/
  chal : BitVec 256
  resp : BitVec 512
  /-- DBG_VIEWSEL; 0 at Cold, Warm, Stop. -/
  viewBay : BitVec 6
  rowBase : BitVec 11
  viewCore : BitVec 4
deriving DecidableEq, Repr

/-- A register access that an Update-DR of REGACC makes (R355). -/
structure TapAccess where
  addr : W32
  write : Bool
  data : W64
  env : StartEnv
deriving DecidableEq, Repr

/-- The TAP (R354): the instruction selected, whether the last one was denied, and the data registers. AO part and
Control part. -/
structure Tap where
  /-- The instruction in force; 0x01 IDCODE in Test-Logic-Reset. -/
  ir : BitVec 8
  denied : Bool
  /-- INDEX of LOGREAD. -/
  logIndex : BitVec 8
  /-- Core that CORETRACE selects, and entries left for it. -/
  traceCore : BitVec 4
  traceLeft : Nat
  /-- What the last Capture-DR loaded. -/
  dr : BitVec 136
  /-- The wrapper boundary register, the data register of SAMPLE/PRELOAD, EXTEST and INTEST: bit i is cell i (R354,
  notes/assumptions/165). -/
  boundary : Nat
  /-- Accesses of REGACC that wait for an ac in which no Lath request executes, oldest first (R355). -/
  held : List TapAccess
deriving DecidableEq, Repr

/-- A trowel core (R25, R357). Control. -/
structure Core where
  halted : Bool
  /-- Its data SRAM has been zeroed and no firmware has run since (R362). -/
  zeroed : Bool
  /-- Words of its SRAM that COREDBG WRITE has set: instruction SRAM 0 to 8,191, data SRAM 8,192 to 16,383. -/
  sram : List (Nat × W32)
deriving DecidableEq, Repr

/-- A core with nothing written to its SRAM, which runs. -/
def Core.reset : Core := ⟨false, false, []⟩

/-- The state of the block. -/
structure State where
  /-- Commands waiting, first in first out; empty. -/
  pending : List Instr
  /-- The model's own counter of free values (notes/assumptions/3); 0. -/
  free : Nat
  /-- Memory behind the four memory ports, as the block has last read or written it: sparse, default 0
  (notes/assumptions/1). -/
  mem : List Host.Cell
  /-- Writes waiting for their acknowledgement, by memory port MP0 to MP3, at most 64 each (R28, R29); empty. -/
  mpq : List (List MemWrite)
  /-- Writes that wait with their agents while all four queues are full, oldest first, each with its home port (R28); empty. -/
  mpWait : List (Nat × MemWrite)
  /-- The NVM device: sparse, default 0xFF, the erased byte (R296). -/
  nvm : List Host.Cell
  /-- The 32 logical bays. -/
  bays : List Bay
  /-- Scaffold banks by context ID: sparse, default RowCtx.zero; cleared at every reset (R121). -/
  ctxs : List (Nat × RowCtx)
  /-- Allocated stripes, rising (R122); none at every reset. -/
  alloc : List Nat
  /-- CTAG of each stripe's first context: sparse, default 0 (R123, R125). -/
  tags : List (Nat × W32)
  /-- Poisoned contexts (R338). -/
  poison : List Nat
  /-- Exact totals by index: sparse, default Total.zero (R113). -/
  totals : List (Nat × Total)
  /-- Runs and terms waiting for Mortar, oldest first (R108). -/
  runs : List MRun
  /-- The source that each Mortar unit served last (R108). -/
  served : List Nat
  /-- Bond groups 0 to 255 (R132): sparse, default Bgrp.zero. -/
  groups : List (Nat × Bgrp)
  /-- On-chip bond store (R137), at most 131,072 entries; empty. -/
  store : List BondEntry
  /-- Nodes formed while the store was full, oldest first: they wait for a spill to make room (R138); empty. -/
  formed : List BondEntry
  /-- Nodes in the spill region (R138); empty. -/
  spilled : List Spilled
  /-- Top-k records that wait for their merge (R144); empty. -/
  topks : List TopkRec
  lathA : LathPort
  lathB : LathPort
  /-- The next tie between the ports goes to Lath B (R32). Control; false at Cold, Warm, Stop. -/
  tieB : Bool
  log : ErrLog
  sem : Sem
  nan : NanTrap
  ctl : Ctl
  route : Route
  stx : Stx
  gn : Gn
  xp : Xp
  img : Img
  pwr : Pwr
  /-- AO: the 116 words of the Cellar that a save writes; 0 at Cold (R316). -/
  cellar : List W64
  /-- AO: the 1,932 words of the Cellar from 0x03A0 to 0x3FFF, which no save writes; 0 at Cold (R26, R316). -/
  cellarRest : List W64
  /-- Control: the Cellar port buffer (R29). -/
  cellarBuf : List W64
  spare : Spare
  dbg : Dbg
  tap : Tap
  /-- Trowel cores T0 to T9. -/
  cores : List Core
  /-- The table stores have been zeroed: a place that holds no loaded table reads 0 (R362). Control; false at Cold, Warm, Stop. -/
  rowsZero : Bool
  /-- The copy that a Stop or a reset left partly written, until a step 5 has marked it FAILED (R300). NVM. -/
  cutCopy : Option (BitVec 2)
deriving DecidableEq, Repr

/-- The machine right after power-on reset (R308, R320): AO has come up at its Cold values, every switched domain is
off, STOPPED is 1 and the cold start waits for step 1. Values that no rule gives are named in notes/assumptions/2. -/
def State.reset : State where
  pending := []
  free := 0
  mem := []
  mpq := [[], [], [], []]
  mpWait := []
  nvm := []
  bays := List.replicate 32 Bay.reset
  ctxs := []
  alloc := []
  tags := []
  poison := []
  totals := []
  runs := []
  served := List.replicate 16 31
  groups := []
  store := []
  formed := []
  spilled := []
  topks := []
  lathA := ⟨[], [], false⟩
  lathB := ⟨[], [], false⟩
  tieB := false
  log := ⟨[], [], 0, 0⟩
  sem := ⟨none, false, false, 0, 0⟩
  nan := ⟨false, false, 0, 0, 0, 0, 0, 0, 0, 0, 0⟩
  ctl := ⟨0, 0, 0, 4, 0, false, 0, 0, 0, 0, 0⟩
  route := ⟨0, 0, 0, 0, false, false, false, 0, none⟩
  stx := ⟨0, 0, false, false, 0, false⟩
  gn := ⟨0, 0, 0, 0, 0, false, false, 0, 0, 0, 0, 0, 0⟩
  xp := ⟨0, 0, 0, 0, 0, 0, 0, 0, false, 0, false, 0, []⟩
  img := ⟨false, 0, false, 0, 0, 0, 0, 0, 0, 0, 0, 0, 0,
    [⟨0, false, false⟩, ⟨0, false, false⟩, ⟨0, false, false⟩], 0, 0, 0, false, false, false, none, none,
    WingImage.empty, WingImage.empty⟩
  pwr := ⟨.trim, true, 0, 0, 0, 0, 0, 8, false, false, false, false, false, false, false, true, none, false,
    List.replicate 34 (0, 0), 0, false⟩
  cellar := List.replicate 116 0
  cellarRest := List.replicate 1932 0
  cellarBuf := List.replicate 116 0
  spare := ⟨0, false, 0, false, 0, 0x1F, false, 0x1F, false, 0x1F, false, [], 0, 0,
    List.replicate 34 BayMap.zero, false, false, [], [], [], true, 4, true, 0, 0, [], [], [],
    List.replicate 34 (0, 0, 0), List.replicate 34 []⟩
  dbg := ⟨0, 0, 2, false, 0, 0, 0, 0, 0, 0, 0, 0, 0, 0, 0, 0, 0⟩
  tap := ⟨1, false, 0, 0, 0, 0, 0, []⟩
  cores := List.replicate 10 Core.reset
  rowsZero := false
  cutCopy := none

end Sys2Proof.Machine
end

