-- ==== Sys2Proof/Machine/Ops.lean ====
section
/-! DEFINITION. The shared operations: bit fields, sparse stores and memory, the bays and groups of the state, free
values, the error log (R268 to R272), and what groups and the statistic transfer name (R128, R201). -/

namespace Sys2Proof.Machine

/-! ### Bit fields -/

/-- Bits [hi:lo] of `x` (R10). -/
def bits (x hi lo : Nat) : Nat := (x >>> lo) % 2 ^ (hi + 1 - lo)

/-- Bit `i` of `x`. -/
def bit (x i : Nat) : Bool := x.testBit i

/-- 1 for true. -/
def b2n (b : Bool) : Nat := if b then 1 else 0

/-- `x` read as an `n`-bit two's-complement integer. -/
def sext (n x : Nat) : Int :=
  if x % 2 ^ n < 2 ^ (n - 1) then (x % 2 ^ n : Nat) else ((x % 2 ^ n : Nat) : Int) - 2 ^ n

/-- The `n`-bit two's-complement pattern of an integer. -/
def wrapInt (n : Nat) (i : Int) : Nat := (i % (2 ^ n : Int)).toNat

/-- Saturating increment by `k` in `n` bits (R350). -/
def satAdd {n : Nat} (x : BitVec n) (k : Nat) : BitVec n :=
  BitVec.ofNat n (min (x.toNat + k) (2 ^ n - 1))

/-- ceil(a / b). -/
def cdiv (a b : Nat) : Nat := (a + b - 1) / b

/-- ceil(log2 n), 0 for n ≤ 1. -/
def clog2 (n : Nat) : Nat := if n ≤ 1 then 0 else Nat.log2 (n - 1) + 1

/-! ### Sparse stores -/

/-- What a sparse store holds at key `k`. -/
def sget {α : Type} (d : α) : List (Nat × α) → Nat → α
  | [], _ => d
  | (j, v) :: t, k => if j = k then v else sget d t k

/-- Put `v` at key `k`, keeping the keys rising; an entry equal to the default is dropped. -/
def sset {α : Type} [DecidableEq α] (d : α) : List (Nat × α) → Nat → α → List (Nat × α)
  | [], k, v => if v = d then [] else [(k, v)]
  | (j, w) :: t, k, v =>
    if k < j then (if v = d then (j, w) :: t else (k, v) :: (j, w) :: t)
    else if k = j then (if v = d then t else (k, v) :: t)
    else (j, w) :: sset d t k v

/-- Keys strictly rising from above `lo`, and no entry equal to the default. -/
def swfFrom {α : Type} [DecidableEq α] (d : α) : Nat → List (Nat × α) → Bool
  | _, [] => true
  | lo, (j, v) :: t => decide (lo ≤ j) && decide (v ≠ d) && swfFrom d (j + 1) t

/-- The canonical form of a sparse store. -/
def swf {α : Type} [DecidableEq α] (d : α) (m : List (Nat × α)) : Bool := swfFrom d 0 m

/-! ### Memory behind the memory ports -/

/-- What a byte of memory that nothing has written reads as (notes/assumptions/1). -/
def memDefault : Byte := 0

/-- The canonical form of a memory. -/
def Memory.wf (m : List Host.Cell) : Bool := swf memDefault m

/-- One byte at an address. -/
def memByte (m : List Host.Cell) (a : Nat) : Byte := sget memDefault m a

/-- One byte written. -/
def memSet (m : List Host.Cell) (a : Nat) (b : Byte) : List Host.Cell := sset memDefault m a b

/-- `n` bytes from `a`, little-endian, as a number (R10). -/
def memRead (m : List Host.Cell) (a : Nat) : Nat → Nat
  | 0 => 0
  | n + 1 => (memByte m a).toNat + 256 * memRead m (a + 1) n

/-- The bytes written one after another. -/
def memSetMany (m : List Host.Cell) : List (Nat × Byte) → List Host.Cell
  | [] => m
  | (a, b) :: t => memSetMany (memSet m a b) t

/-- Bytes written under masks: a bit of the byte is replaced where the mask holds 1. -/
def memSetMasked (m : List Host.Cell) : List (Nat × Byte × Byte) → List Host.Cell
  | [] => m
  | (a, mask, v) :: t => memSetMasked (memSet m a ((memByte m a &&& ~~~mask) ||| (v &&& mask))) t

/-- The `n` bytes of `v`, little-endian, from address `a`. -/
def leBytes (a v : Nat) (n : Nat) : List (Nat × Byte) :=
  (List.range n).map fun i => (a + i, BitVec.ofNat 8 (v >>> (8 * i)))

/-- The same bytes as a masked write of every bit. -/
def leCells (a v n : Nat) : List (Nat × Byte × Byte) :=
  (leBytes a v n).map fun p => (p.1, (0xFF, p.2))

/-- A field of `w` bits at bit offset `off` from byte address `a`, as masked bytes (R39). -/
def bitCells (a off w v : Nat) : List (Nat × Byte × Byte) :=
  let lo := off % 8
  let mask := (2 ^ w - 1) <<< lo
  let val := (v % 2 ^ w) <<< lo
  (List.range (cdiv (lo + w) 8)).map fun i =>
    (a + off / 8 + i, BitVec.ofNat 8 (mask >>> (8 * i)), BitVec.ofNat 8 (val >>> (8 * i)))

/-- A field of `w` bits at bit offset `off` from byte address `a` (R39). -/
def memBits (m : List Host.Cell) (a off w : Nat) : Nat :=
  (memRead m (a + off / 8) (cdiv (off % 8 + w) 8) >>> (off % 8)) % 2 ^ w

/-- What an erased byte of the NVM device reads as (R296). -/
def nvmDefault : Byte := 0xFF

/-- The bytes that the NVM device returns take the place of what the model held (notes/assumptions/2). -/
def nvmTake (m : List Host.Cell) : List (Nat × Byte) → List Host.Cell
  | [] => m
  | (a, b) :: t => nvmTake (sset nvmDefault m a b) t

/-- `n` bytes of the NVM device from `a`, little-endian. -/
def nvmRead (m : List Host.Cell) (a : Nat) : Nat → Nat
  | 0 => 0
  | n + 1 => (sget nvmDefault m a).toNat + 256 * nvmRead m (a + 1) n

/-- `n` bytes of the NVM device from `a`, first byte first. -/
def nvmBytes (m : List Host.Cell) (a n : Nat) : List Byte :=
  (List.range n).map fun i => sget nvmDefault m (a + i)

/-- A page program: each bit can only go from 1 to 0 (R277, R278). -/
def nvmProgram (m : List Host.Cell) : List (Nat × Byte) → List Host.Cell
  | [] => m
  | (a, b) :: t => nvmProgram (sset nvmDefault m a (sget nvmDefault m a &&& b)) t

/-- Sector erases: every byte of [lo, hi) is erased, so it is listed no more. -/
def nvmErase (m : List Host.Cell) (lo hi : Nat) : List Host.Cell :=
  m.filter fun c => decide (c.1 < lo) || decide (hi ≤ c.1)

/-! ### Parts of the state -/

/-- Logical bay `n`. -/
def State.bay (s : State) (n : Nat) : Bay := s.bays.getD n Bay.reset

/-- The state with logical bay `n` changed. -/
def State.mapBay (s : State) (n : Nat) (f : Bay → Bay) : State :=
  { s with bays := s.bays.modify n f }

/-- Bond group `g`. -/
def State.group (s : State) (g : Nat) : Bgrp := sget Bgrp.zero s.groups g

/-- The state with bond group `g` replaced. -/
def State.setGroup (s : State) (g : Nat) (v : Bgrp) : State :=
  { s with groups := sset Bgrp.zero s.groups g v }

/-- Exact total `i`. -/
def State.total (s : State) (i : Nat) : Total := sget Total.zero s.totals i

/-- The state with exact total `i` replaced. -/
def State.setTotal (s : State) (i : Nat) (v : Total) : State :=
  { s with totals := sset Total.zero s.totals i v }

/-- The Scaffold entry of context `c` (R20, R21). -/
def State.ctx (s : State) (c : Nat) : RowCtx := sget RowCtx.zero s.ctxs c

/-- The state with the Scaffold entry of context `c` written. -/
def State.setCtx (s : State) (c : Nat) (v : RowCtx) : State :=
  { s with ctxs := sset RowCtx.zero s.ctxs c v }

/-- Is the stripe of context `c` allocated (R122)? -/
def State.allocated (s : State) (c : Nat) : Bool := s.alloc.contains (c / 32)

/-- CTAG of context `c` (R123). -/
def State.ctag (s : State) (c : Nat) : W32 := sget 0 s.tags (c / 32) + BitVec.ofNat 32 (c % 32)

/-- A free value (notes/assumptions/3), and the state with the counter advanced. -/
def State.takeFree (s : State) : Nat × State := (Config.freeValue s.free, { s with free := s.free + 1 })

/-- The wing of a logical bay: false East, true West (R13). -/
def westBay (n : Nat) : Bool := decide (16 ≤ n)

/-- The image that the wing of logical bay `n` runs (R95). -/
def State.wingImage (s : State) (west : Bool) : WingImage := if west then s.img.west else s.img.east

/-- The physical bay that the spare map gives logical bay `n` (R331). -/
def Spare.mapped (x : Spare) (n : Nat) : Nat :=
  if x.eUse ∧ x.eFor.toNat = n ∧ n < 16 then 32
  else if x.wUse ∧ x.wFor.toNat + 16 = n then 33
  else n

/-- The physical bay that serves logical bay `n`: the one it has had, until its spare bay is prepared and a tile boundary
lets it move there (R14, R334). -/
def Spare.phys (x : Spare) (n : Nat) : Nat := if x.preps.any fun q => q.2 == n then n else x.mapped n
def State.physBay (s : State) (n : Nat) : Nat := s.spare.phys n

/-- Is logical bay `n` lost: the physical bay that the map gives it is retired (R340, R341)? -/
def Spare.isLost (x : Spare) (n : Nat) : Bool := bit x.retired.toNat (x.mapped n)

/-- A physical bay's part of the map. -/
def Spare.bay (x : Spare) (p : Nat) : BayMap := x.bays.getD p BayMap.zero

/-- Does the mapping of a unit of physical bay `p` still wait for a tile boundary (R332)? -/
def Spare.waits (x : Spare) (kind p i : Nat) : Bool :=
  x.waiting.any fun u => u.kind.toNat == kind && u.unit.toNat == p && u.index.toNat == i

/-- The 256 physical lanes of physical bay `p` that serve logical lanes 0 to 255, in their order: those that are not
retired, counted from 0 (R15, R331). -/
def Spare.lanes (x : Spare) (p : Nat) : List Nat :=
  let out := ((x.bay p).lanes.map BitVec.toNat).filter fun l => !x.waits 0 p l
  ((List.range 264).filter fun l => !out.contains l).take 256

/-- The logical row that physical row `i` of a bay's table store holds: row 1,280 + j stands for entry j of the retired-row
list; none for a retired row and for a spare row that stands for none (R331). -/
def Spare.rowHeld (x : Spare) (p i : Nat) : Option Nat :=
  let rows := ((x.bay p).rows.map BitVec.toNat).filter fun r => !x.waits 4 p r
  if 1280 ≤ i then rows[i - 1280]? else if rows.contains i then none else some i

/-- The physical banks of the bond store that hold entries: 16, with bank 16 for the one replaced from the end of its copy on
(R24, R331, R332, R333). -/
def Spare.bondBanks (x : Spare) : List Nat :=
  (List.range 16).map fun b => if x.bond.toNat = b ∧ ¬ x.copies.contains 3 then 16 else b

/-- The physical bank of a Scaffold entry: half and bank. A replacement takes effect when its copy completes (R21, R331,
R332, R333). -/
def Spare.ctxBank (x : Spare) (c : Nat) : Nat × Nat :=
  let h := c / 16 % 2
  let b := c % 16
  let cur := if h = 0 then x.scf0 else x.scf1
  (h, if cur.toNat = b ∧ ¬ x.copies.contains (BitVec.ofNat 2 (h + 1)) then 16 else b)

def State.isLost (s : State) (n : Nat) : Bool := s.spare.isLost n

/-- Does the TAP hold EXTEST or INTEST, under which SI, SO_READY and the Lath inputs are ignored (R354)? -/
def State.testing (s : State) : Bool := s.tap.ir == 0x03 || s.tap.ir == 0x04

/-- The active trowel cores: the lowest-numbered 8 that are not retired, or all that remain; a retired core whose task has
yet to end counts until then (R331, R332). -/
def Spare.activeCores (x : Spare) : List Nat :=
  ((List.range 10).filter fun c => !bit x.cores.toNat c || x.waits 5 0 c).take 8

/-- Does some active core run, so that tasks of the firmware do not wait (R357)? -/
def State.coresRun (s : State) : Bool := s.spare.activeCores.any fun c => !(s.cores.getD c Core.reset).halted

/-- The wing that a wing start in progress starts: true West (R302). -/
def State.wingStart (s : State) : Option Bool :=
  match s.img.start with
  | some x => if x.kind = 3 then some false else if x.kind = 4 then some true else none
  | none => none

/-- Does Pointing patrol run: in Run with both wings READY, or, within a wing start, in the other wing (R335), while some
active core runs (R25, R357)? -/
def State.patrolOn (s : State) : Bool :=
  s.spare.patrolEn && s.coresRun && s.pwr.phase == .run && (s.img.eastReady || s.wingStart == some false)
    && (s.img.westReady || s.wingStart == some true)

/-- Does patrol run in the wing of physical bay `p`? -/
def State.patrolsBay (s : State) (p : Nat) : Bool :=
  s.patrolOn && s.wingStart != some (decide (16 ≤ p) && decide (p ≠ 32))

/-- Is the domain of logical bay `n` powered (R33)? -/
def State.bayOn (s : State) (n : Nat) : Bool := s.pwr.domains.toNat.testBit (s.physBay n)

/-! ### The error log -/

/-- The two words of an entry (R269). -/
def logWords (cause kind src chain code seq where_ aux : Nat) : LogEntry :=
  { w0 := BitVec.ofNat 64 (cause % 256 + 2 ^ 8 * (kind % 8) + 2 ^ 11 * (src % 32) + 2 ^ 16 * (chain % 4096)
      + 2 ^ 28 * (code % 8) + 2 ^ 32 * (seq % 2 ^ 32))
    w1 := BitVec.ofNat 64 (where_ % 2 ^ 32 + 2 ^ 32 * (aux % 2 ^ 32)) }

/-- An entry enters the queue of 32, or counts in OVF when the queue is full (R272). -/
def State.pushLog (s : State) (e : LogEntry) : State :=
  if s.log.queue.length < 32 then { s with log := { s.log with queue := s.log.queue ++ [e] } }
  else { s with log := { s.log with ovf := satAdd s.log.ovf 1 } }

/-- Make an error-log entry (R269, R270). -/
def State.logE (s : State) (cause kind src chain code seq where_ aux : Nat) : State :=
  s.pushLog (logWords cause kind src chain code seq where_ aux)

/-- SRCKIND of a port (R269): 1 LATHA, 2 LATHB. -/
def portKind : Port → Nat
  | .a => 1
  | .b => 2

/-- OWNER code of a port (R264). -/
def ownerCode : Option Port → Nat
  | none => 0
  | some .a => 1
  | some .b => 2

/-! ### Tiles and what is in flight -/

/-- A tile's slot: SEQ[5:0] (R235). -/
def Tile.slot (t : Tile) : Nat := t.seq.toNat % 64

/-- The tile in a header slot. -/
def Bay.tile? (b : Bay) (slot : Nat) : Option Tile := b.tiles.find? fun t => t.slot == slot

/-- The tile whose SEQ is NEXT. -/
def Bay.nextTile? (b : Bay) : Option Tile := b.tiles.find? fun t => t.seq == b.next

/-- The bay with the tile in `slot` changed. -/
def Bay.mapTile (b : Bay) (slot : Nat) (f : Tile → Tile) : Bay :=
  { b with tiles := b.tiles.map fun t => if t.slot = slot then f t else t }

/-- The bay without the tile in `slot`. -/
def Bay.dropTile (b : Bay) (slot : Nat) : Bay :=
  { b with tiles := b.tiles.filter fun t => t.slot != slot }

/-- Place of a SEQ in the window: (SEQ − NEXT) mod 2^32 (R70, R235). -/
def Bay.place (b : Bay) (seq : W32) : Nat := (seq - b.next).toNat

/-- Is the tile a bond instance that no lane holds yet (R150)? -/
def Tile.isAccepted (t : Tile) : Bool := t.status == .accepted

/-- Chunk size of a group in elements (R132). -/
def Bgrp.chunkSize (g : Bgrp) : Nat := if g.csize then 256 else 128

/-- The chunks that a bonded tile covers: CHUNK onward, one for each S beats or part of S (R133). -/
def Tile.chunks (t : Tile) (size : Nat) : List Nat :=
  if t.bgrp = 0 then [] else (List.range (cdiv t.beats.toNat size)).map (t.chunk.toNat + ·)

/-- Do two courses of 256 contexts from `a` and `b` share a context? -/
def coursesMeet (a b : Nat) : Bool := decide (a < b + 256) && decide (b < a + 256)

/-- Does context `c` lie in the 256 contexts from `base`? -/
def inCourse (base c : Nat) : Bool := decide (base ≤ c) && decide (c < base + 256)

/-- Is group `g` armed and not DONE? -/
def Bgrp.open (g : Bgrp) : Bool := g.arm && !g.done

/-- Does the group name context `c` (R132)? -/
def Bgrp.names (g : Bgrp) (c : Nat) : Bool :=
  decide (g.base.toNat ≤ c) && decide (c < g.base.toNat + 256 * g.courses.toNat)

/-- Fields of STX_SRC (R199). -/
def stxBase (w : W64) : Nat := bits w.toNat 17 0
def stxKind (w : W64) : Nat := bits w.toNat 19 18
def stxField (w : W64) : Nat := bits w.toNat 22 20
def stxImport (w : W64) : Bool := bit w.toNat 23
def stxOper (w : W64) : Nat := bits w.toNat 26 24
def stxCount (w : W64) : Nat := bits w.toNat 50 32

/-- Does the running statistic transfer pass name context `c` (R201)? -/
def State.stxNamesCtx (s : State) (c : Nat) : Bool :=
  s.stx.busy && decide (stxKind s.stx.src = 0) && decide (stxBase s.stx.src ≤ c)
    && decide (c < stxBase s.stx.src + stxCount s.stx.src)

/-- Does the running statistic transfer pass name total `i` (R201)? -/
def State.stxNamesTotal (s : State) (i : Nat) : Bool :=
  s.stx.busy && decide (stxKind s.stx.src = 1) && decide (stxBase s.stx.src % 2 ^ 14 ≤ i)
    && decide (i < stxBase s.stx.src % 2 ^ 14 + stxCount s.stx.src)

/-- Is context `c` named by an armed group (R124)? -/
def State.ctxInArmed (s : State) (c : Nat) : Bool := s.groups.any fun g => g.2.open && g.2.names c

/-- The first `n` contexts from `base` of which one satisfies `p`, if any. -/
def anyFrom (base n : Nat) (p : Nat → Bool) : Bool := (List.range n).any fun i => p (base + i)

/-- Is everything there that the check unit compares the lane's result with (R74)? -/
def Sample.ready (x : Sample) : Bool := !x.refs.isEmpty && decide (x.scale ≠ .block none)

end Sys2Proof.Machine
end

