-- ==== Sys2Proof/Machine/Formats.lean ====
section
/-! DEFINITION. Number formats, exact arithmetic, rounding and conversion (R35 to R66, R74): every value is held exactly
as a `Num`, and each conversion rounds once. Formats and rounding modes are named by their codes (R35, R47). -/

namespace Sys2Proof.Machine

/-! ### Exact numbers -/

/-- +0 and 1.0 (R153). -/
def Num.zero : Num := .fin false 0 0
def Num.one : Num := .fin false 1 0

/-- The same number with an odd significand, so that equal numbers are equal data. -/
def Num.norm : Num → Num
  | .fin s m e =>
    if m = 0 then .fin s 0 0
    else
      let g := Nat.gcd m (2 ^ Nat.log2 m)
      .fin s (m / g) (e + Nat.log2 g)
  | x => x

/-- The number of an integer. -/
def Num.ofInt (i : Int) : Num := (Num.fin (decide (i < 0)) i.natAbs 0).norm

/-- 2^e. -/
def Num.pow2 (e : Int) : Num := .fin false 1 e

def Num.isNan : Num → Bool
  | .nan => true
  | _ => false

def Num.isInf : Num → Bool
  | .inf _ => true
  | _ => false

def Num.isZero : Num → Bool
  | .fin _ m _ => m == 0
  | _ => false

def Num.isFinite : Num → Bool
  | .fin _ _ _ => true
  | _ => false

/-- The sign bit; false for a NaN (R45). -/
def Num.sign : Num → Bool
  | .nan => false
  | .inf s => s
  | .fin s _ _ => s

/-- Sign inverted; a NaN stays the canonical NaN. -/
def Num.neg : Num → Num
  | .nan => .nan
  | .inf s => .inf (!s)
  | .fin s m e => .fin (!s) m e

def Num.abs : Num → Num
  | .nan => .nan
  | .inf _ => .inf false
  | .fin _ m e => .fin false m e

/-- A magnitude m × 2^e as a fraction of naturals. -/
def frac (m : Nat) (e : Int) : Nat × Nat :=
  if 0 ≤ e then (m <<< e.toNat, 1) else (m, 1 <<< (-e).toNat)

/-- The magnitude of a finite number as a fraction; 0/1 otherwise. -/
def Num.mag : Num → Nat × Nat
  | .fin _ m e => frac m e
  | _ => (0, 1)

/-- `m × 2^e` as an integer multiple of 2^lo, for lo ≤ e. -/
def alignTo (s : Bool) (m : Nat) (e lo : Int) : Int :=
  let v : Int := ((m <<< (e - lo).toNat : Nat) : Int)
  if s then -v else v

/-- Exact sum; `rdn` says that the stage rounds toward −∞, which decides the sign of an exact zero (R41, R44). -/
def Num.add (rdn : Bool) : Num → Num → Num
  | .nan, _ => .nan
  | _, .nan => .nan
  | .inf s, .inf t => if s = t then .inf s else .nan
  | .inf s, _ => .inf s
  | _, .inf t => .inf t
  | .fin s m e, .fin t n f =>
    let lo := min e f
    let v := alignTo s m e lo + alignTo t n f lo
    if v = 0 then (if m = 0 ∧ n = 0 ∧ s = t then .fin s 0 0 else .fin rdn 0 0)
    else (Num.fin (decide (v < 0)) v.natAbs lo).norm

/-- Exact product (R41, R44). -/
def Num.mul : Num → Num → Num
  | .nan, _ => .nan
  | _, .nan => .nan
  | .inf s, .inf t => .inf (s != t)
  | .inf s, .fin t n _ => if n = 0 then .nan else .inf (s != t)
  | .fin s m _, .inf t => if m = 0 then .nan else .inf (s != t)
  | .fin s m e, .fin t n f => (Num.fin (s != t) (m * n) (e + f)).norm

/-- x × 2^k, exactly. -/
def Num.scale (x : Num) (k : Int) : Num :=
  match x with
  | .fin s m e => if m = 0 then .fin s 0 0 else .fin s m (e + k)
  | y => y

/-- Numerical order of two numbers that are no NaN; zeros are equal (R42). -/
def Num.lt : Num → Num → Bool
  | .nan, _ => false
  | _, .nan => false
  | .inf s, .inf t => s && !t
  | .inf s, .fin _ _ _ => s
  | .fin _ _ _, .inf t => !t
  | .fin s m e, .fin t n f =>
    let lo := min e f
    decide (alignTo s m e lo < alignTo t n f lo)

/-- EQ of R42. -/
def Num.eq (a b : Num) : Bool := !a.isNan && !b.isNan && !a.lt b && !b.lt a

/-- The comparison predicates EQ, NE, LT, LE, GT, GE by their code (R42, R159). -/
def pred (code : Nat) (a b : Num) : Bool :=
  match code with
  | 0 => a.eq b
  | 1 => !a.eq b
  | 2 => a.lt b
  | 3 => a.lt b || a.eq b
  | 4 => b.lt a
  | _ => b.lt a || a.eq b

/-- max under R43: a NaN operand is ignored, and +0 exceeds −0. -/
def Num.max (a b : Num) : Num :=
  if a.isNan then b else if b.isNan then a
  else if a.lt b then b else if b.lt a then a
  else if a.sign then b else a

/-- min under R43. -/
def Num.min (a b : Num) : Num :=
  if a.isNan then b else if b.isNan then a
  else if a.lt b then a else if b.lt a then b
  else if a.sign then a else b

/-! ### Formats -/

/-- A floating format (R36, R37): fraction bits, least normal exponent, exponent field width, largest finite value, and
what overflow gives: 0 by the mode, 1 infinity, 2 saturation (R54). -/
structure FloatFmt where
  mb : Nat
  emin : Int
  eb : Nat
  maxM : Nat
  maxE : Int
  ovf : Nat

/-- The floating formats by code (R35 to R37). -/
def floatFmt : Nat → Option FloatFmt
  | 0x0 => some ⟨23, -126, 8, 2 ^ 24 - 1, 104, 0⟩
  | 0x1 => some ⟨10, -14, 5, 2 ^ 11 - 1, 5, 0⟩
  | 0x2 => some ⟨7, -126, 8, 255, 120, 1⟩
  | 0x3 => some ⟨3, -6, 4, 7, 6, 2⟩
  | 0x4 => some ⟨2, -14, 5, 7, 13, 1⟩
  | 0x5 => some ⟨3, 0, 2, 15, -1, 2⟩
  | 0x6 => some ⟨2, -2, 3, 7, 2, 2⟩
  | 0x7 => some ⟨1, 0, 2, 3, 1, 2⟩
  | 0xD => some ⟨52, -1022, 11, 2 ^ 53 - 1, 971, 0⟩
  | _ => none

/-- Widths by format code (R35). -/
def fmtWidth : Nat → Nat
  | 0x0 => 32 | 0x1 => 16 | 0x2 => 16 | 0x3 => 8 | 0x4 => 8 | 0x5 => 6 | 0x6 => 6 | 0x7 => 4
  | 0x8 => 32 | 0x9 => 8 | 0xA => 4 | 0xB => 2 | 0xC => 39 | 0xD => 64 | _ => 0

/-- Width of an element's slot in a beat: 6-bit elements take 8 bits and 2-bit ones take 4 (R39). -/
def slotWidth (f : Nat) : Nat :=
  match fmtWidth f with
  | 6 => 8
  | 2 => 4
  | w => w

/-- Is the format one of the four integer formats (R35)? -/
def isIntFmt (f : Nat) : Bool := f == 0x8 || f == 0x9 || f == 0xA || f == 0xB

/-- Is the format an SX8 element format (R38)? -/
def isBlockFmt (f : Nat) : Bool := f == 0x5 || f == 0x6 || f == 0x7

/-- Reserved format codes, and those that no stream may name (R35). -/
def streamFmtOk (f : Nat) : Bool := decide (f ≤ 0xB)

/-- The canonical NaN of a format (R36, R37, R40); an SX8 element has none, and bond format's is PRESUMED (it never
leaves a lane). -/
def canonNan : Nat → Nat
  | 0x0 => 0x7FC00000 | 0x1 => 0x7E00 | 0x2 => 0x7FC0 | 0x3 => 0x7F | 0x4 => 0x7E
  | 0xC => 0x3FF8000000 | 0xD => 0x7FF8000000000000 | _ => 0

/-! ### Rounding (R47, R48) -/

/-- floor(log2(n/d)) for a positive fraction. -/
def flog2 (n d : Nat) : Int :=
  let k : Int := (Nat.log2 n : Int) - Nat.log2 d
  if (if 0 ≤ k then d <<< k.toNat ≤ n else d ≤ n <<< (-k).toNat) then k else k - 1

/-- n/d in units of 2^q: quotient, remainder and divisor. -/
def unitsOf (n d : Nat) (q : Int) : Nat × Nat × Nat :=
  let n' := if 0 ≤ q then n else n <<< (-q).toNat
  let d' := if 0 ≤ q then d <<< q.toNat else d
  (n' / d', n' % d', d')

/-- Does the magnitude round up, with quotient `a`, remainder `r` of divisor `d`, under mode code `mode` and draw
`draw` (R47, R48)? -/
def roundsUp (mode draw : Nat) (neg : Bool) (a r d : Nat) : Bool :=
  if r = 0 then false
  else match mode with
    | 0 => decide (d < 2 * r) || (decide (2 * r = d) && decide (a % 2 = 1))
    | 1 => false
    | 2 => !neg
    | 3 => neg
    | _ => decide (65536 ≤ r * 65536 / d + draw)

/-- A positive magnitude n/d rounded to a multiple of 2^q. -/
def roundUnits (mode draw : Nat) (neg : Bool) (n d : Nat) (q : Int) : Nat :=
  let u := unitsOf n d q
  if roundsUp mode draw neg u.1 u.2.1 u.2.2 then u.1 + 1 else u.1

/-- Is m × 2^e above M × 2^E? -/
def magGt (m : Nat) (e : Int) (m' : Nat) (e' : Int) : Bool :=
  let lo := min e e'
  decide (m' <<< (e' - lo).toNat < m <<< (e - lo).toNat)

/-- What an overflow gives (R54). -/
def overflow (p : FloatFmt) (mode : Nat) (neg : Bool) : Num :=
  let top := Num.fin neg p.maxM p.maxE
  match p.ovf with
  | 0 => match mode with
    | 1 => top
    | 2 => if neg then top else .inf neg
    | 3 => if neg then .inf neg else top
    | _ => .inf neg
  | 1 => .inf neg
  | _ => top

/-- The fraction n/d with its sign rounded once into a floating format (R47, R48, R54, R56). -/
def roundFloat (p : FloatFmt) (mode draw : Nat) (neg : Bool) (n d : Nat) : Num :=
  if n = 0 then .fin neg 0 0
  else
    let q := Max.max (flog2 n d - p.mb) (p.emin - p.mb)
    let m := roundUnits mode draw neg n d q
    if magGt m q p.maxM p.maxE then overflow p mode neg else (Num.fin neg m q).norm

/-- Rounding into bond format: 28 bits, nearest even, then the two range tests (R40). -/
def roundBond (neg : Bool) (n d : Nat) : Num :=
  if n = 0 then .fin neg 0 0
  else
    let q := flog2 n d - 27
    let m := roundUnits 0 0 neg n d q
    if magGt 1 (-510) m q then .fin neg 0 0
    else if magGt m q (2 ^ 28 - 1) 484 then .inf neg
    else (Num.fin neg m q).norm

/-- An integer brought into `n` bits: saturated, or wrapped under INTMODE 1 (R57). -/
def narrowInt (n : Nat) (wrap : Bool) (i : Int) : Int :=
  if wrap then sext n (wrapInt n i)
  else Max.max (-(2 ^ (n - 1) : Int)) (Min.min i (2 ^ (n - 1) - 1))

/-- The fraction n/d rounded once into format `f` under mode, draw and INTMODE (R53 to R58). A zero keeps its sign. -/
def roundTo (f mode draw : Nat) (wrap neg : Bool) (n d : Nat) : Num :=
  if f = 0xC then roundBond neg n d
  else if isIntFmt f then
    let m := roundUnits mode draw neg n d 0
    Num.ofInt (narrowInt (fmtWidth f) wrap (if neg then -(m : Int) else m))
  else match floatFmt f with
    | some p => roundFloat p mode draw neg n d
    | none => .nan

/-- A number converted into format `f`: rounded once, with R55 for an infinity or a NaN. An SX8 element is converted by
its block (R60), where no infinity or NaN comes here. -/
def convert (f mode draw : Nat) (wrap : Bool) : Num → Num
  | .nan => if isIntFmt f then .zero else .nan
  | .inf s =>
    if isIntFmt f then Num.ofInt (narrowInt (fmtWidth f) false (if s then -(2 ^ 40) else 2 ^ 40))
    else if f = 0x3 then .fin s 7 6
    else .inf s
  | .fin s m e =>
    let q := frac m e
    roundTo f mode draw wrap s q.1 q.2

/-- Bond-format rounding of a number (R40, R168). -/
def toBond (x : Num) : Num := convert 0xC 0 0 false x

/-! ### Encodings -/

/-- The bits of a number that format `f` represents (R36, R37, R40, R45). -/
def encode (f : Nat) (x : Num) : Nat :=
  if isIntFmt f then
    match x with
    | .fin s m e => wrapInt (fmtWidth f) (alignTo s m e 0)
    | _ => 0
  else if f = 0xC then
    match x with
    | .nan => canonNan f
    | .inf s => b2n s * 2 ^ 38 + 1023 * 2 ^ 28
    | .fin s m e =>
      if m = 0 then b2n s * 2 ^ 38
      else
        let k : Int := Nat.log2 m + e
        b2n s * 2 ^ 38 + (k + 511).toNat * 2 ^ 28 + (m <<< (e - (k - 27)).toNat)
  else match floatFmt f with
    | none => 0
    | some p =>
      let sgn := fun (s : Bool) => b2n s * 2 ^ (p.eb + p.mb)
      match x with
      | .nan => canonNan f
      | .inf s => sgn s + (2 ^ p.eb - 1) * 2 ^ p.mb
      | .fin s m e =>
        if m = 0 then sgn s
        else
          let k : Int := Nat.log2 m + e
          if k < p.emin then sgn s + (m <<< (e - (p.emin - p.mb)).toNat)
          else sgn s + (k - p.emin + 1).toNat * 2 ^ p.mb + ((m <<< (e - (k - p.mb)).toNat) - 2 ^ p.mb)

/-- The number of a pattern of format `f` (R36, R37, R40); a signalling NaN is a NaN like any other (R45). -/
def decode (f b : Nat) : Num :=
  if isIntFmt f then Num.ofInt (sext (fmtWidth f) b)
  else if f = 0xC then
    let s := b.testBit 38
    let e := bits b 37 28
    let m := bits b 27 0
    if e = 1023 then (if m = 0 then .inf s else .nan)
    else if m = 0 then .fin s 0 0 else (Num.fin s m ((e : Int) - 511 - 27)).norm
  else match floatFmt f with
    | none => .nan
    | some p =>
      let s := b.testBit (p.eb + p.mb)
      let e := bits b (p.eb + p.mb - 1) p.mb
      let m := b % 2 ^ p.mb
      if e = 0 then (Num.fin s m (p.emin - p.mb)).norm
      else if p.ovf = 2 then
        (if f = 0x3 ∧ e = 15 ∧ m = 7 then .nan else (Num.fin s (2 ^ p.mb + m) (p.emin + e - 1 - p.mb)).norm)
      else if e = 2 ^ p.eb - 1 then (if m = 0 then .inf s else .nan)
      else (Num.fin s (2 ^ p.mb + m) (p.emin + e - 1 - p.mb)).norm

/-- An FP32 pattern as a number, and back (after a rounding). -/
def ofF32 (w : W32) : Num := decode 0 w.toNat

/-- An FP32 pattern as Adeis writes it: every NaN is the canonical one (R45). -/
def canonF32 (w : W32) : W32 := if (ofF32 w).isNan then 0x7FC00000 else w

def toF32 (x : Num) : W32 := BitVec.ofNat 32 (encode 0 (convert 0 0 0 false x))

/-! ### The stochastic-rounding draw (R49) -/

/-- A 32-bit word rotated left. -/
def rotl (v : W32) (n : Nat) : W32 := v.rotateLeft n

/-- One round of sr_draw on (x0, x1, x2, x3, k0, k1). -/
def srRound (st : W32 × W32 × W32 × W32 × W32 × W32) (ra rb : Nat) : W32 × W32 × W32 × W32 × W32 × W32 :=
  let (x0, x1, x2, x3, k0, k1) := st
  let y0 := x0 + x1 + k0
  let y3 := rotl (x3 ^^^ y0) ra
  let y2 := x2 + y3 + k1
  let y1 := rotl (x1 ^^^ y2) rb
  (y0, y1, y2, y3, k0 + 0x9E3779B9, k1 + 0xBB67AE85)

/-- The 16-bit draw of R49. -/
def srDraw (k : W64) (c0 c1 c2 c3 : W32) : Nat :=
  let s0 := (c0, c1, c2, c3, k.setWidth 32, (k >>> 32).setWidth 32)
  let s1 := srRound s0 16 12
  let s2 := srRound s1 8 7
  let s3 := srRound s2 13 11
  let s4 := srRound s3 5 19
  (s4.1 + s4.2.2.2.1).toNat >>> 16

/-- The word c2 of R49: chain ID in [31:20], stage index in [19:16]. -/
def srC2 (chain stage : Nat) : W32 := BitVec.ofNat 32 (chain * 2 ^ 20 + stage * 2 ^ 16)

/-! ### Block scales and row scales (R59 to R66) -/

/-- The largest magnitude of a list of numbers. -/
def amax (vs : List Num) : Num := vs.foldl (fun a v => Num.max a v.abs) .zero

/-- choose_sx8 of R60. -/
def chooseSx8 (vs : List Num) (f : Nat) : Nat :=
  if vs.any (fun v => !v.isFinite) then 0xFF
  else if vs.all Num.isZero then 0
  else match floatFmt f with
    | none => 0
    | some p =>
      match amax vs with
      | .fin _ m e =>
        let lg : Int := Nat.log2 m + e
        let emax : Int := if f = 0x6 then 4 else 2
        let k := lg - emax + 127
        let k := if magGt m (e + 127 - k) p.maxM p.maxE then k + 1 else k
        (Max.max 1 (Min.min k 254)).toNat
      | _ => 0

/-- One element of a block under a code (R59, R60): under 0x00 a zero of the source's sign, under 0xFF the bits zero. -/
def sx8Element (f mode draw code : Nat) (v : Num) : Nat :=
  if code = 0xFF then 0
  else if code = 0 then encode f (.fin (v.sign && !v.isNan) 0 0)
  else encode f (convert f mode draw false (v.scale (127 - code)))

/-- Decoding an SX8 element: element × 2^(code − 127) (R59, R61). -/
def sx8Decode (f code q : Nat) : Num :=
  if code = 0xFF then .nan
  else
    let v := decode f q
    if code = 0 then .fin v.sign 0 0 else v.scale ((code : Int) - 127)

/-- A row scale is valid when it is positive, finite and normal (R62). -/
def scaleValid (w : W32) : Bool :=
  let e := bits w.toNat 30 23
  !bit w.toNat 31 && decide (0 < e) && decide (e < 255)

/-- x / s rounded once into `f` for a valid scale (R62). -/
def encodeScaled (f mode draw : Nat) (wrap : Bool) (x : Num) (s : W32) : Num :=
  match x, ofF32 s with
  | .fin sx m e, .fin _ n g =>
    let a := frac m e
    let b := frac n g
    roundTo f mode draw wrap sx (a.1 * b.2) (a.2 * b.1)
  | y, _ => convert f mode draw wrap y

/-- An element is lost when its source is finite and nonzero and what it became is a zero (R65). -/
def isLost (src enc : Num) : Bool := src.isFinite && !src.isZero && enc.isZero

end Sys2Proof.Machine
end

