-- ==== Sys2Proof/Machine/Func.lean ====
section
/-! DEFINITION. Function evaluation (R75 to R100): the reference algorithms over the tables of the wing's image, each
argument exact and each `rto` where the algorithm writes it. -/

namespace Sys2Proof.Machine

/-! ### Helpers (R76, R78) -/

/-- A positive fraction rounded to odd in 53 significant bits (R76). -/
def rtoFrac (neg : Bool) (n d : Nat) : Num :=
  if n = 0 then .fin neg 0 0
  else
    let q := flog2 n d - 52
    let u := unitsOf n d q
    (Num.fin neg (if u.2.1 = 0 then u.1 else u.1 ||| 1) q).norm

/-- rto (R76). -/
def rto : Num → Num
  | .fin s m e => let q := frac m e; rtoFrac s q.1 q.2
  | x => x

/-- The FP64 pattern of a value on the check path (R18, R74): the value itself where FP64 has it, as it has every source
format's (R53), and otherwise the value rounded to odd, so that one further rounding into a lane's target gives what the
value itself gives (R76, R77, notes/assumptions/120). A value beyond the range is the largest finite number. -/
def toFp64 : Num → W64
  | .fin s m e =>
    let x := frac m e
    let q := Max.max (flog2 x.1 x.2 - 52) (-1074)
    let u := unitsOf x.1 x.2 q
    let k := if u.2.1 = 0 then u.1 else u.1 ||| 1
    BitVec.ofNat 64 (encode 0xD (if m = 0 then .fin s 0 0
      else if magGt k q (2 ^ 53 - 1) 971 then .fin s (2 ^ 53 - 1) 971 else (Num.fin s k q).norm))
  | x => BitVec.ofNat 64 (encode 0xD x)

/-- Exact difference. -/
def Num.sub (a b : Num) : Num := Num.add false a b.neg

/-- rto of a quotient of finite numbers, the divisor nonzero. -/
def rtoDiv (a b : Num) : Num :=
  let x := a.mag
  let y := b.mag
  rtoFrac (a.sign != b.sign) (x.1 * y.2) (x.2 * y.1)

/-- floor(x × 2^k) of a finite number. -/
def Num.floorAt (x : Num) (k : Int) : Int :=
  match x with
  | .fin s m e =>
    let v : Int := if s then -(m : Int) else m
    if 0 ≤ e + k then v * 2 ^ (e + k).toNat else v / 2 ^ (-(e + k)).toNat
  | _ => 0

/-- Integer square root, bit by bit from bit `k - 1`. -/
def isqrtFrom (t : Nat) : Nat → Nat → Nat
  | 0, r => r
  | k + 1, r => if (r + 2 ^ k) * (r + 2 ^ k) ≤ t then isqrtFrom t k (r + 2 ^ k) else isqrtFrom t k r

/-- floor(√t), for t < 2^124. -/
def isqrt (t : Nat) : Nat := isqrtFrom t 62 0

/-- rto(√(n/d)) of a positive fraction: 60 or more bits of the root and a sticky bit. -/
def rtoSqrt (n d : Nat) : Num :=
  let k : Int := (122 - flog2 n d) / 2
  let n' := if 0 ≤ k then n <<< (2 * k).toNat else n
  let d' := if 0 ≤ k then d else d <<< (-2 * k).toNat
  let t := n' / d'
  let r := isqrt t
  if r * r = t ∧ n' % d' = 0 then rto (.fin false r (-k)) else rto (.fin false (2 * r + 1) (-k - 1))

/-- A value of 62 fraction bits. -/
def q62 (i : Int) : Num := (Num.ofInt i).scale (-62)

/-- floor62 as a count of 2^-62. -/
def floor62 (x : Num) : Int := x.floorAt 62

/-- LN2, LOG2E and RSQRT2 (R78). -/
def ln2 : Num := q62 0x2C5C85FDF473DE6B
def log2e : Num := q62 0x5C551D94AE0BF85E
def rsqrt2 : Num := q62 0x2D413CCCFE779921

/-- horner over coefficients from the highest downward: `acc` and `r` count 2^-62 (R78). -/
def hornerDown (r : Int) : Int → List Int → Int
  | acc, [] => acc
  | acc, c :: t => hornerDown r ((acc * r) / 2 ^ 62 + c) t

/-- horner(c[0..n], r) (R78). -/
def horner (cs : List Int) (r : Int) : Num :=
  match cs.reverse with
  | [] => .zero
  | c :: t => q62 (hornerDown r c t)

/-- The record with a TABLE_ID in the wing's tables (R92). -/
def findTable (ts : List FuncTable) (id : Nat) : Option FuncTable := ts.find? fun t => t.id == id

/-- Coefficients of segment `j`, c0 first (R92). A segment beyond the body has none. -/
def FuncTable.coeffs (t : FuncTable) (j : Nat) : List Int :=
  let n := t.degree + 1
  let base := if t.kind = 1 then j * (n + 1) + 1 else j * n
  (List.range n).map fun i => sext 64 (t.body.getD (base + i) 0).toNat

/-- horner over segment `j` of the reference table `id`. -/
def refPoly (ts : List FuncTable) (id j : Nat) (r : Int) : Num :=
  match findTable ts id with
  | none => q62 (Config.absentPoly id j).toNat
  | some t => horner (t.coeffs j) r

/-! ### Reference functions (R79 to R86) -/

/-- EXP2 with integer offset k (R79), without the range rules of R76. -/
def fExp2 (ts : List FuncTable) (x : Num) (k : Int) : Num :=
  match x with
  | .nan => .nan
  | .inf s => if s then .zero else .inf false
  | .fin _ _ _ =>
    let y := x.sub (Num.ofInt k)
    if !y.lt (Num.ofInt 1100) then .pow2 1100
    else if y.lt (Num.ofInt (-1100)) then .pow2 (-1100)
    else if x.abs.lt (.pow2 (-36)) then
      let u := x.mul ln2
      rto (((Num.one.add false u).add false ((u.mul u).scale (-1))).scale (-k))
    else
      let n := x.floorAt 0
      let f := ((x.sub (Num.ofInt n)).floorAt 64).toNat
      let p := refPoly ts 0x0001 (f >>> 56) ((f % 2 ^ 56 * 64 : Nat) : Int)
      rto (p.scale (n - k))

/-- (e, m) with x = 2^e × m and 1 ≤ m < 2, for a positive finite x. -/
def expMant (x : Num) : Int × Num :=
  match x with
  | .fin _ m e => let l : Int := Nat.log2 m; (l + e, .fin false m (-l))
  | _ => (0, .one)

/-- LOG2 of a positive finite number (R81). -/
def fLog2Pos (ts : List FuncTable) (x : Num) : Num :=
  let (e, m) := expMant x
  let big := !m.lt (Num.fin false (2 ^ 11 - 1) (-10))
  let e := if big then e + 1 else e
  let m := if big then m.scale (-1) else m
  let t := m.sub .one
  let v :=
    if t.abs.lt (.pow2 (-9)) then t.mul (refPoly ts 0x0003 0 (floor62 (t.scale 9)))
    else
      let i := t.floorAt 8
      let r := floor62 ((t.scale 8).sub (Num.ofInt i))
      refPoly ts 0x0002 i.toNat r
  rto ((Num.ofInt e).add false v)

/-- LOG2 (R81, R87). -/
def fLog2 (ts : List FuncTable) (x : Num) : Num :=
  match x with
  | .nan => .nan
  | .inf s => if s then .nan else .inf false
  | .fin s m _ => if m = 0 then .inf true else if s then .nan else fLog2Pos ts x

/-- RCP (R82, R87). -/
def fRcp (x : Num) : Num :=
  match x with
  | .nan => .nan
  | .inf s => .fin s 0 0
  | .fin s m _ => if m = 0 then .inf s else rtoDiv .one x

/-- SQRT (R82, R87). -/
def fSqrt (x : Num) : Num :=
  match x with
  | .nan => .nan
  | .inf s => if s then .nan else .inf false
  | .fin s m e =>
    if m = 0 then .fin s 0 0 else if s then .nan else let q := frac m e; rtoSqrt q.1 q.2

/-- RSQRT of a positive finite number (R83). -/
def fRsqrtPos (ts : List FuncTable) (x : Num) : Num :=
  let (e, m) := expMant x
  let odd := decide (e % 2 ≠ 0)
  let e := if odd then e - 1 else e
  let m := if odd then m.scale 1 else m
  let low := m.lt (Num.ofInt 2)
  let s := ((if low then m else m.scale (-1)).sub .one).scale 7
  let i := s.floorAt 0
  let r := floor62 (s.sub (Num.ofInt i))
  rto ((refPoly ts 0x0004 ((if low then 0 else 128) + i.toNat) r).scale (-(e / 2)))

/-- RSQRT (R83, R87). -/
def fRsqrt (ts : List FuncTable) (x : Num) : Num :=
  match x with
  | .nan => .nan
  | .inf s => if s then .nan else .zero
  | .fin s m _ => if m = 0 then .inf s else if s then .nan else fRsqrtPos ts x

/-- em2 of a number that is not negative (R86). -/
def fEm2 (ts : List FuncTable) (u : Num) : Num :=
  if u.lt (.pow2 (-9)) then rto (u.mul (refPoly ts 0x0007 0 (floor62 (u.scale 9))))
  else rto ((fExp2 ts u 0).sub .one)

/-- A number with its sign set to that of `x` (sign(x) × v of R78, for v ≥ 0). -/
def withSign (x v : Num) : Num := if x.sign then v.neg else v

/-- 1 − 2^-53. -/
def belowOne : Num := .fin false (2 ^ 53 - 1) (-53)

/-- TANH (R86, R87). -/
def fTanh (ts : List FuncTable) (x : Num) : Num :=
  match x with
  | .nan => .nan
  | .inf s => withSign (.fin s 1 0) .one
  | .fin _ _ _ =>
    let a := x.abs
    if !a.lt (Num.ofInt 32) then withSign x belowOne
    else
      let e := fEm2 ts (rto ((a.mul log2e).scale 1))
      withSign x (rtoDiv e (rto (e.add false (Num.ofInt 2))))

/-- SIGMOID (R86, R87). -/
def fSigmoid (ts : List FuncTable) (x : Num) : Num :=
  match x with
  | .nan => .nan
  | .inf s => if s then .zero else .one
  | .fin _ _ _ =>
    if x.lt (Num.ofInt (-700)) then fExp2 ts (rto (x.mul log2e)) 0
    else rtoDiv .one (rto (Num.one.add false (fExp2 ts (rto (x.neg.mul log2e)) 0)))

/-- SILU (R86, R87). -/
def fSilu (ts : List FuncTable) (x : Num) : Num :=
  match x with
  | .nan => .nan
  | .inf s => if s then .fin true 0 0 else .inf false
  | .fin _ _ _ => rto (x.mul (fSigmoid ts x))

/-- SOFTPLUS (R86, R87). -/
def fSoftplus (ts : List FuncTable) (x : Num) : Num :=
  match x with
  | .nan => .nan
  | .inf s => if s then .zero else .inf false
  | .fin _ _ _ =>
    let u := fExp2 ts (rto (x.abs.neg.mul log2e)) 0
    let l :=
      if u.lt (.pow2 (-9)) then rto (u.mul (refPoly ts 0x0008 0 (floor62 (u.scale 9))))
      else fLog2 ts (rto (Num.one.add false u))
    rto ((Num.max x .zero).add false (l.mul ln2))

/-- erfq: erf a and erfc a of a number that is not negative (R86). -/
def erfq (ts : List FuncTable) (a : Num) : Num × Num :=
  if a.lt .one then
    let i := a.floorAt 7
    let r := floor62 ((a.scale 7).sub (Num.ofInt i))
    let g := rto (a.mul (refPoly ts 0x0009 i.toNat r))
    (g, rto (Num.one.sub g))
  else if a.lt (Num.ofInt 37) then
    let low := a.lt (Num.ofInt 5)
    let s := if low then (a.sub .one).scale 6 else (a.sub (Num.ofInt 5)).scale 3
    let fl := s.floorAt 0
    let r := floor62 (s.sub (Num.ofInt fl))
    let h := rto ((fExp2 ts (rto ((a.mul a).neg.mul log2e)) 0).mul
      (refPoly ts 0x000A ((if low then 0 else 256) + fl.toNat) r))
    (rto (Num.one.sub h), h)
  else (belowOne, .pow2 (-1100))

/-- ERF (R86, R87). -/
def fErf (ts : List FuncTable) (x : Num) : Num :=
  match x with
  | .nan => .nan
  | .inf s => .fin s 1 0
  | .fin _ _ _ => withSign x (erfq ts x.abs).1

/-- GELU (R86, R87). -/
def fGelu (ts : List FuncTable) (x : Num) : Num :=
  match x with
  | .nan => .nan
  | .inf s => if s then .fin true 0 0 else .inf false
  | .fin _ _ _ =>
    let gh := erfq ts (rto (x.abs.mul rsqrt2))
    if !x.lt .zero then rto ((x.mul (Num.one.add false gh.1)).scale (-1))
    else rto ((x.mul gh.2).scale (-1))

/-! ### User functions (R96, R97) -/

/-- One byte or FP32 word of PARAMS. -/
def FuncTable.param (t : FuncTable) (hi lo : Nat) : Nat := bits t.params.toNat hi lo

def FuncTable.lo (t : FuncTable) : Num := decode 0 (t.param 31 0)
def FuncTable.wshift (t : FuncTable) : Int := sext 8 (t.param 39 32)
def FuncTable.symm (t : FuncTable) : Nat := t.param 41 40
def FuncTable.left (t : FuncTable) : Nat := t.param 51 48
def FuncTable.right (t : FuncTable) : Nat := t.param 55 52

/-- seg(j, r, x) of R97. -/
def userSeg (t : FuncTable) (j : Nat) (r : Int) (x : Num) : Num :=
  let w := (t.body.getD (j * (t.degree + 2)) 0).toNat
  let p := horner (t.coeffs j) r
  let p := if bit w 16 then x.mul p else p
  rto (p.scale (sext 16 w))

/-- rule(code, j) of R97, below the domain (`above` false) or above it. -/
def userRule (t : FuncTable) (code : Nat) (above : Bool) (x : Num) : Num :=
  match code with
  | 0 => .zero
  | 1 =>
    if above then
      userSeg t (t.count - 1) (2 ^ 62) (t.lo.add false ((Num.ofInt t.count).scale t.wshift))
    else userSeg t 0 0 t.lo
  | 2 => x
  | 3 => decode 0 (if above then t.param 127 96 else t.param 95 64)
  | _ => .nan

/-- user(x, T) of R97. -/
def fUser (t : FuncTable) (x : Num) : Num :=
  if x.isNan then .nan
  else
    let neg := decide (t.symm ≠ 0) && x.sign
    let x := if t.symm ≠ 0 then x.abs else x
    let y :=
      if x.lt t.lo then userRule t t.left false x
      else if x.isInf then userRule t t.right true x
      else
        let s := (x.sub t.lo).scale (-t.wshift)
        let j := s.floorAt 0
        if (t.count : Int) ≤ j then userRule t t.right true x
        else userSeg t j.toNat (floor62 (s.sub (Num.ofInt j))) x
    if neg && t.symm == 1 then y.neg else y

/-! ### The function stage -/

/-- The range rules of R76 for a reference result. -/
def rangeRules (z : Num) : Num :=
  match z with
  | .fin s m e =>
    if m = 0 then z
    else if magGt m e 1 1024 || (z.abs.eq (.pow2 1024)) then .fin s 1 1024
    else if magGt 1 (-1074) m e then .fin s 1 (-1074)
    else z
  | _ => z

/-- The reference result z of function `code` on x, with EXP2's offset k (R75 to R87). A user table that the image does
not carry gives a free value (notes/assumptions/6). -/
def evalFunc (ts : List FuncTable) (code : Nat) (x : Num) (k : Int) : Num :=
  rangeRules <| match code with
  | 0x01 => fExp2 ts x k
  | 0x02 => fLog2 ts x
  | 0x03 => fRcp x
  | 0x04 => fSqrt x
  | 0x05 => fRsqrt ts x
  | 0x06 => fTanh ts x
  | 0x07 => fSigmoid ts x
  | 0x08 => fErf ts x
  | 0x09 => fGelu ts x
  | 0x0A => fSilu ts x
  | 0x0B => fSoftplus ts x
  | n => match findTable ts n with
    | some t => fUser t x
    | none => decode 0xD (Config.absentFunction n).toNat

/-- ROT: the pair (sin 2πt, cos 2πt) of position p and frequency F (R84, R85). Every zero result is +0. -/
def fRot (ts : List FuncTable) (p : Nat) (freq : Nat) : Num × Num :=
  let t := (p % 2 ^ 40 * freq) % 2 ^ 64
  let o := t >>> 61
  let w := t % 2 ^ 61
  let a := if o % 2 = 1 then 2 ^ 61 - w else w
  let pair :=
    if a = 2 ^ 61 then let v := rtoSqrt 1 2; (v, v)
    else
      let i := a >>> 53
      let r : Int := ((a % 2 ^ 53 * 512 : Nat) : Int)
      let sa := if i = 0 then rto (((Num.ofInt a).scale (-62)).mul (refPoly ts 0x0005 0 r))
        else rto (refPoly ts 0x0005 i r)
      (sa, rto (refPoly ts 0x0006 i r))
  let sa := pair.1
  let ca := pair.2
  let res := match o with
    | 0 => (sa, ca)
    | 1 => (ca, sa)
    | 2 => (ca, sa.neg)
    | 3 => (sa, ca.neg)
    | 4 => (sa.neg, ca.neg)
    | 5 => (ca.neg, sa.neg)
    | 6 => (ca.neg, sa)
    | _ => (sa.neg, ca)
  let pos := fun (v : Num) => if v.isZero then Num.zero else v
  (pos res.1, pos res.2)

/-- The rotary frequency of index `i` in table `n` (R94); a free value beyond it (notes/assumptions/6). -/
def rotFreq (ts : List FuncTable) (n i : Nat) : Nat :=
  match findTable ts (0x0020 + n) with
  | some t => if i < t.count then (t.body.getD i 0).toNat else (Config.absentFrequency n i).toNat
  | none => (Config.absentFrequency n i).toNat

end Sys2Proof.Machine
end

