-- ==== Sys2Proof/Machine/Chain.lean ====
section
/-! DEFINITION. The chain entry and its stage words (R148 to R153, R159): the fields of the header and of a stage, the
formats a chain reads and sends, and the issue group size (R16, R17). -/

namespace Sys2Proof.Machine

/-- A chain entry: its header word and its stage words in execution order (R151). -/
structure Chain where
  hdr : Nat
  stages : List Nat

/-- The entry of a list of words, header first; only NSTAGE + 1 stage words count. -/
def chainOf (ws : List W64) : Chain :=
  let h := (ws.headD 0).toNat
  ⟨h, (ws.tail.take (bits h 15 12 + 1)).map BitVec.toNat⟩

/-- The entry of chain `id` in a wing's image (R158). -/
def WingImage.find (im : WingImage) (id : BitVec 12) : Option (List W64) :=
  (im.chains.find? fun c => c.1 == id).map Prod.snd

/-! ### Header fields (R151) -/

def Chain.id (c : Chain) : Nat := bits c.hdr 11 0
def Chain.staged (c : Chain) : Bool := bit c.hdr 21
def Chain.wclass (c : Chain) : Nat := bits c.hdr 24 22
def Chain.passes (c : Chain) : Nat := bits c.hdr 26 25 + 1
def Chain.place (c : Chain) : Nat := bits c.hdr 29 28
def Chain.wings (c : Chain) : Nat := bits c.hdr 31 30
def Chain.infmt (c : Chain) : Nat := bits c.hdr 35 32
def Chain.insrc (c : Chain) : Bool := bit c.hdr 36
def Chain.inarg (c : Chain) : Nat := bits c.hdr 39 37
def Chain.secfmt (c : Chain) : Nat := bits c.hdr 43 40
def Chain.secen (c : Chain) : Bool := bit c.hdr 44
def Chain.secarg (c : Chain) : Nat := bits c.hdr 47 45
def Chain.out (c : Chain) : Nat := bits c.hdr 49 48
def Chain.outarg (c : Chain) : Nat := bits c.hdr 52 50

/-- SKIM, ONETILE (R171, R172). -/
def Chain.skim (c : Chain) : Bool := c.place == 1
def Chain.oneTile (c : Chain) : Bool := c.place == 2

/-- OUT includes SO, or memory (R151). -/
def Chain.toSo (c : Chain) : Bool := c.out == 1 || c.out == 3
def Chain.toMem (c : Chain) : Bool := c.out == 2 || c.out == 3

/-! ### Stage fields (R152, R159) -/

/-- Opcodes of the stage catalogue (R159). -/
def opMASK : Nat := 0x01
def opSELECT : Nat := 0x02
def opTHRESH : Nat := 0x03
def opSCALE : Nat := 0x08
def opFMA : Nat := 0x09
def opDEQ : Nat := 0x0A
def opALIGN : Nat := 0x0B
def opNORM : Nat := 0x0C
def opPAIRROT : Nat := 0x0D
def opPIVOT : Nat := 0x10
def opEXTREMA : Nat := 0x11
def opTOPK : Nat := 0x12
def opCOL : Nat := 0x13
def opSEG : Nat := 0x14
def opFUNC : Nat := 0x18
def opROT : Nat := 0x19
def opSUM : Nat := 0x20
def opRECOMB : Nat := 0x21
def opTALLY : Nat := 0x22
def opROUND : Nat := 0x28
def opSPLIT : Nat := 0x29
def opOVFCHK : Nat := 0x2A

def stOp (w : Nat) : Nat := bits w 5 0
def stPass (w : Nat) : Nat := bits w 7 6
def stIn (w : Nat) : Nat := bits w 10 8
def stDst (w : Nat) : Nat := bits w 12 11
def stRnd (w : Nat) : Nat := bits w 15 13
def stSfmt (w : Nat) : Nat := bits w 19 16
def stArgi (w : Nat) : Nat := bits w 22 20

/-- Is the stage a value stage (R165)? -/
def isValueStage (w : Nat) : Bool :=
  [opSCALE, opFMA, opDEQ, opALIGN, opNORM, opPAIRROT, opFUNC, opROT, opRECOMB].contains (stOp w)

/-- The stage at index `i`; an index beyond the last gives an empty word. -/
def Chain.stage (c : Chain) (i : Nat) : Nat := c.stages.getD i 0

/-- The stages with their indices. -/
def Chain.indexed (c : Chain) : List (Nat × Nat) := (List.range c.stages.length).zip c.stages

/-- The stages of an opcode with their indices. -/
def Chain.ofOp (c : Chain) (op : Nat) : List (Nat × Nat) := c.indexed.filter fun p => stOp p.2 == op

/-- Does the chain hold a stage of an opcode? -/
def Chain.has (c : Chain) (op : Nat) : Bool := c.stages.any fun w => stOp w == op

/-- Index of the final value stage, if there is one (R165). -/
def Chain.final (c : Chain) : Option Nat := ((c.indexed.filter fun p => isValueStage p.2).map Prod.fst).getLast?

/-- The ROUND or SPLIT stage (R166); of several, the first (notes/assumptions/161). -/
def Chain.outStage (c : Chain) : Option Nat := c.stages.find? fun w => stOp w == opROUND || stOp w == opSPLIT

/-- G of a SUM or SEG stage; a TALLY takes 16 (R102, R159). -/
def stGroup (w : Nat) : Nat :=
  if stOp w = opTALLY then 16 else match bits w 27 26 with
    | 0 => 4
    | 1 => 8
    | _ => 16

/-- Scale policy of a ROUND stage: 0 none, 1 AUTO, 2 GIVEN, 3 ROWSCALE (R159). -/
def stScale (w : Nat) : Nat := bits w 26 24

/-- Does the chain produce SX8 blocks (R59)? -/
def Chain.blocky (c : Chain) : Bool :=
  c.stages.any fun w => stOp w == opROUND && (stScale w == 1 || stScale w == 2)

/-- Format of the output elements: the target of ROUND, S16 pieces of SPLIT, otherwise the SFMT of the final value
stage under Staged and the stream format where no stage forms a value. Bond format stands for a Once chain without
ROUND or SPLIT: it leaves on no port (R35, R166, notes/assumptions/7). -/
def Chain.outFmt (c : Chain) : Nat :=
  match c.outStage with
  | some w => if stOp w = opSPLIT then 0x2 else stSfmt w
  | none =>
    match c.final with
    | some i => if c.staged then stSfmt (c.stage i) else 0xC
    | none => c.infmt

/-- Does the chain send elements at all (R35)? -/
def Chain.emits (c : Chain) : Bool := decide (c.out ≠ 0) && decide (c.outFmt < 0xC)

/-- Pieces of a SPLIT stage (R99); 1 without one. -/
def Chain.pieces (c : Chain) : Nat :=
  match c.stages.find? fun w => stOp w == opSPLIT with
  | some w => if bit w 24 then 3 else 2
  | none => 1

/-- Beats of a RECOMB stage's product set (R100). -/
def stSet (w : Nat) : Nat :=
  match bits w 25 24 with
  | 0 => 3
  | 1 => 4
  | 2 => 6
  | _ => 9

/-- m of R100; 1 without a RECOMB stage. -/
def Chain.recomb (c : Chain) : Nat :=
  match c.stages.find? fun w => stOp w == opRECOMB with
  | some w => stSet w
  | none => 1

/-- Beats behind one element where stage `idx` takes it: m after a RECOMB stage (R100, notes/assumptions/36). -/
def Chain.gathered (c : Chain) (idx : Nat) : Nat :=
  if c.indexed.any fun p => stOp p.2 == opRECOMB && decide (p.1 < idx) then c.recomb else 1

/-- Beats behind one element where the SEG stage takes it, that with SEGCTX before another (R191, R192). -/
def Chain.segBeats (c : Chain) : Nat :=
  match (c.ofOp opSEG).find? (fun p => bit p.2 28) <|> (c.ofOp opSEG).head? with
  | some p => c.gathered p.1
  | none => 1

/-- Output beats of a tile of `n` beats (R99, R100, R242). -/
def Chain.outBeats (c : Chain) (n : Nat) : Nat := n / c.recomb * c.pieces

/-- The stage, if any, with SEGCTX = 1 (R192); of several, the first names the base (notes/assumptions/158). -/
def Chain.segctx (c : Chain) : Option Nat := c.stages.find? fun w => stOp w == opSEG && bit w 28

/-- Beats behind one element by which the chunks of a bonded tile count: those behind the elements that the segments have under
SEGCTX (R193, notes/assumptions/160), and the tile's own beats otherwise (R133, notes/assumptions/179). -/
def Chain.chunkBeats (c : Chain) : Nat := if c.segctx.isSome then c.segBeats else 1

/-- Beats per issue group g by width class (R16, R17, R73). -/
def Chain.group (c : Chain) : Nat :=
  match c.wclass with
  | 0 => 1
  | 1 => 2
  | 4 => 8
  | _ => 4

/-- The MASK stage with SKIPTOK = 1, if any (R183); of several, the first (notes/assumptions/151). -/
def Chain.skiptok (c : Chain) : Option Nat := c.stages.find? fun w => stOp w == opMASK && bit w 25

/-- The MASK stage with SEGREAD = 1, if any (R190); of several, the checks and SEGCTX go by the first
(notes/assumptions/137). -/
def Chain.segread (c : Chain) : Option Nat := c.stages.find? fun w => stOp w == opMASK && bit w 26

/-- The PIVOT stages with PIVREC = 1, each with an array of its own (R164). -/
def Chain.pivrecs (c : Chain) : List Nat := c.stages.filter fun w => stOp w == opPIVOT && bit w 25

/-- The stage that steps COUNT: the first SUM or SUMSQ stage with CNT = 1, or, in a chain that keeps neither, the first
PSUM stage with it (R120). -/
def Chain.counter (c : Chain) : Option Nat :=
  let kept := (c.ofOp opSUM).filter fun p => decide (bits p.2 25 24 < 2)
  let sums := (if kept.isEmpty then c.ofOp opSUM else kept).filter fun p => bit p.2 29
  (sums.head?).map Prod.fst

/-- Does stage `w` read source `code` (R69, R153)? -/
def stReads (w : Nat) (code : Nat) : Bool :=
  stIn w == code || (stOp w == opSELECT || stOp w == opFMA) && (bits w 26 24 == code || bits w 29 27 == code)

/-- The first stage that reads the stream element (`code` 1) or the second input (`code` 2); 0 when none does (R69). -/
def Chain.reader (c : Chain) (code : Nat) : Nat :=
  match c.indexed.find? fun p => stReads p.2 code || (code == 1 && p.1 == 0 && stReads p.2 0) with
  | some p => p.1
  | none => 0

/-! ### Argument words (R154, R155) -/

/-- Argument word `n` of a tile. -/
def Tile.arg (t : Tile) (n : Nat) : Nat := (t.args.getD n 0).toNat

/-- Address in [47:0], and the row stride in bytes (R155). -/
def argAddr (a : Nat) : Nat := a % 2 ^ 48
def argStride (a : Nat) : Nat := 64 * (a / 2 ^ 48 % 2 ^ 16)

/-- Address of course row `r` of the layout that an argument word gives (R155). -/
def argRow (a r : Nat) : Nat := argAddr a + argStride a * r

/-- First element index of a tile. -/
def Tile.e0 (t : Tile) : Nat := t.elem0.toNat
def Tile.nbeats (t : Tile) : Nat := t.beats.toNat
def Tile.base (t : Tile) : Nat := t.ctxBase.toNat

/-- Gated by the global-norm round (R219, R221)? -/
def State.gated (s : State) (chain : BitVec 12) : Bool :=
  bit s.gn.gate.toNat 24 && decide (bits s.gn.gate.toNat 11 0 ≤ chain.toNat)
    && decide (chain.toNat ≤ bits s.gn.gate.toNat 23 12)

end Sys2Proof.Machine
end

