-- ==== Sys2Proof/Machine/Mask.lean ====
section
/-! DEFINITION. Mask descriptors, segment tables, cells and skip runs (R177 to R186, R190 to R193). A descriptor and its
tables are read from the tile's copy of memory (R178). -/

namespace Sys2Proof.Machine

/-- A mask descriptor by field (R177). -/
structure MaskDesc where
  /-- A reserved field is nonzero, NCELL is 0, SEGCOUNT exceeds 65,536 or SEGTAB [2:0] is nonzero (R178). -/
  bad : Bool
  cell : Nat
  band : Bool
  doc : Bool
  bmap : Bool
  ncell : Nat
  segCount : Nat
  qpos0 : Nat
  kpos0 : Nat
  bandLo : Int
  bandHi : Int
  segTab : Nat
  bmapAddr : Nat

/-- The descriptor at address `a`. -/
def readDesc (m : List Host.Cell) (a : Nat) : MaskDesc :=
  let w := fun i => memRead m (a + 8 * i) 8
  { bad := decide (bits (w 0) 7 4 ≠ 0) || decide (bits (w 0) 63 49 ≠ 0) || decide (bits (w 1) 63 40 ≠ 0)
      || decide (bits (w 2) 63 40 ≠ 0) || decide (bits (w 3) 63 41 ≠ 0) || decide (bits (w 4) 63 41 ≠ 0)
      || decide (bits (w 5) 63 48 ≠ 0) || decide (bits (w 6) 63 48 ≠ 0) || decide (w 7 ≠ 0)
      || decide (bits (w 0) 31 8 = 0) || decide (65536 < bits (w 0) 48 32) || decide (bits (w 5) 2 0 ≠ 0)
    cell := if bit (w 0) 0 then 256 else 128
    band := bit (w 0) 1
    doc := bit (w 0) 2
    bmap := bit (w 0) 3
    ncell := bits (w 0) 31 8
    segCount := bits (w 0) 48 32
    qpos0 := bits (w 1) 39 0
    kpos0 := bits (w 2) 39 0
    bandLo := sext 41 (w 3)
    bandHi := sext 41 (w 4)
    segTab := bits (w 5) 47 0
    bmapAddr := bits (w 6) 47 0 }

/-- NOSEG (R180). -/
def NOSEG : Nat := 0xFFFFFF

/-- START and SEGID of entry `j` (R180). -/
def segStart (m : List Host.Cell) (d : MaskDesc) (j : Nat) : Nat := memRead m (d.segTab + 8 * j) 5
def segId (m : List Host.Cell) (d : MaskDesc) (j : Nat) : Nat := memRead m (d.segTab + 8 * j + 5) 3

/-- The bisection of R181 between `lo` and `hi`, with entry j held as j + 1 so that 0 stands for −1. -/
def bisect (m : List Host.Cell) (d : MaskDesc) (p : Nat) : Nat → Nat → Nat → Nat
  | 0, lo, _ => lo
  | fuel + 1, lo, hi =>
    if hi - lo ≤ 1 then lo
    else
      let mid1 := (lo + hi) / 2
      if segStart m d (mid1 - 1) ≤ p then bisect m d p fuel mid1 hi else bisect m d p fuel lo mid1

/-- find(p) + 1 (R181): 18 halvings exhaust a table of 65,536. -/
def segFind (m : List Host.Cell) (d : MaskDesc) (p : Nat) : Nat := bisect m d p 18 0 (d.segCount + 1)

/-- A read range: its first and last entry (R181). -/
structure SegRange where
  lo : Nat
  hi : Nat

/-- The read range of the positions from `pLo` to `pHi` (R181). -/
def segRange (m : List Host.Cell) (d : MaskDesc) (pLo pHi : Nat) : SegRange :=
  let a := segFind m d pLo - 1
  let b := min (segFind m d pHi) (d.segCount - 1)
  ⟨min a b, max a b⟩

/-- Do the STARTs of the range increase strictly (R178)? -/
def segOrdered (m : List Host.Cell) (d : MaskDesc) (r : SegRange) : Bool :=
  (List.range (r.hi - r.lo)).all fun i => decide (segStart m d (r.lo + i) < segStart m d (r.lo + i + 1))

/-- Entry index + 1 of position `p` within a read range; 0 when no entry of it has START ≤ p (R181). -/
def segIndex1 (m : List Host.Cell) (d : MaskDesc) (r : SegRange) (p : Nat) : Nat :=
  if d.segCount = 0 then 0
  else
    let k := bisect m d p 18 r.lo (r.hi + 2)
    if k = r.lo then 0 else k

/-- seg(p) over a read range (R181). -/
def segOf (m : List Host.Cell) (d : MaskDesc) (r : SegRange) (p : Nat) : Nat :=
  match segIndex1 m d r p with
  | 0 => NOSEG
  | j + 1 => segId m d j

/-- A descriptor with the read ranges of the tile that uses it (R181). -/
structure MaskView where
  desc : MaskDesc
  q : SegRange
  k : SegRange

/-- The descriptor that argument word `argi` names, for a tile from element `e0` with `n` beats (R178, R181). -/
def maskView (m : List Host.Cell) (addr e0 n : Nat) : MaskView :=
  let d := readDesc m addr
  ⟨d, segRange m d d.qpos0 (d.qpos0 + 255), segRange m d (d.kpos0 + e0) (d.kpos0 + e0 + n - 1)⟩

/-- Is element `e` of row `r` present (R179)? -/
def MaskView.present (v : MaskView) (m : List Host.Cell) (r e : Nat) : Bool :=
  let d := v.desc
  let qp := d.qpos0 + r
  let kp := d.kpos0 + e
  let diff : Int := (kp : Int) - qp
  let sq := segOf m d v.q qp
  let sk := segOf m d v.k kp
  decide (e < d.ncell * d.cell)
    && (!d.band || (decide (d.bandLo ≤ diff) && decide (diff ≤ d.bandHi)))
    && (!d.doc || (decide (sq = sk) && decide (sq ≠ NOSEG)))
    && (!d.bmap || (memByte m (d.bmapAddr + e / (8 * d.cell))).toNat.testBit (e / d.cell % 8))

/-! ### Segments under SEGCTX (R147, R192) -/

/-- Segment index + 1 of the element of beat `b`; 0 when no entry covers it (R192). An element that RECOMB has formed has the
position of its own index (notes/assumptions/36 and 160). -/
def Tile.segOfBeat (t : Tile) (c : Chain) (b : Nat) : Nat :=
  match c.segread with
  | none => 0
  | some w =>
    let mv := maskView t.view (argAddr (t.arg (stArgi w))) t.e0 t.nbeats
    segIndex1 t.view mv.desc mv.k (mv.desc.kpos0 + t.e0 + b / c.segBeats)

/-- The base Q of the segment contexts that a SEGCTX chain names (R147). -/
def Tile.segBase (t : Tile) (w : Nat) : Nat := t.arg (bits w 31 29) % 2 ^ 18

/-- First contexts of the segments that the tile's elements touch, Q + 256s for each (R147): known once the argument
set has been read. -/
def Tile.segCourses (t : Tile) (c : Chain) : List Nat :=
  match c.segctx with
  | none => []
  | some w =>
    if t.args.isEmpty then []
    else
      let lo := Max.max (t.segOfBeat c 0) 1
      (List.range (t.segOfBeat c (t.nbeats - 1) + 1 - lo)).map fun i => t.segBase w + 256 * (lo - 1 + i)

/-- First contexts of all the courses of 256 that a tile names (R19, R147). -/
def Tile.courses (t : Tile) (c : Chain) : List Nat := t.base :: t.segCourses c

/-- Do two tiles form one operation, the second carrying the registers of the first over (R19, R192)? Under SEGCTX the
second also continues the run of the first one's last element. -/
def Tile.extends (u t : Tile) : Bool :=
  u.ctxBase == t.ctxBase && u.chain == t.chain && u.bgrp == t.bgrp && !u.overwrite
    && (match (chainOf u.words).segctx with
      | none => true
      | some w => !u.args.isEmpty && !t.args.isEmpty && u.segBase w == t.segBase w
          && u.segOfBeat (chainOf u.words) 0 == t.segOfBeat (chainOf t.words) (t.nbeats - 1))

/-! ### Cells and skip runs (R182 to R186) -/

/-- Is cell `c` live: some element of it is present for some of the 256 rows (R182)? The lookup takes the cell's own
read range, which R181 shows to agree with any other. -/
def cellLive (m : List Host.Cell) (addr c : Nat) : Bool :=
  let d := readDesc m addr
  let v := maskView m addr (c * d.cell) d.cell
  (List.range 256).any fun r => (List.range d.cell).any fun i => v.present m r (c * d.cell + i)

/-- The first live cell from `c`, among `n` cells. -/
def firstLive (m : List Host.Cell) (addr : Nat) : Nat → Nat → Option Nat
  | _, 0 => none
  | c, n + 1 => if cellLive m addr c then some c else firstLive m addr (c + 1) n

/-- The range of cells of a course and its anchor (R183). -/
structure Cells where
  lo : Nat
  hi : Nat
  anchor : Nat

/-- Range [lo, hi) and anchor. -/
def cellsOf (m : List Host.Cell) (addr lo hi : Nat) : Cells :=
  ⟨lo, hi, (firstLive m addr lo (hi - lo)).getD lo⟩

/-- Does cell `c` belong to a skip run (R183)? -/
def Cells.skipped (x : Cells) (m : List Host.Cell) (addr c : Nat) : Bool :=
  decide (x.lo ≤ c) && decide (c < x.hi) && decide (c ≠ x.anchor) && !cellLive m addr c

/-- Cells of skip runs from `c` onward without a gap, at most `n`. -/
def Cells.runFrom (x : Cells) (m : List Host.Cell) (addr : Nat) : Nat → Nat → Nat
  | _, 0 => 0
  | c, n + 1 => if x.skipped m addr c then x.runFrom m addr (c + 1) n + 1 else 0

/-- The skip runs that a tile from cell `first` to cell `last` owns, as (first cell, cells): the run before the anchor
and the run after the tile (R185). -/
def Cells.before (x : Cells) (first last : Nat) : Nat × Nat :=
  if first ≤ x.anchor ∧ x.anchor ≤ last then (x.lo, x.anchor - x.lo) else (x.lo, 0)

def Cells.after (x : Cells) (m : List Host.Cell) (addr last : Nat) : Nat × Nat :=
  (last + 1, if x.lo ≤ last then x.runFrom m addr (last + 1) (x.hi - (last + 1)) else 0)

end Sys2Proof.Machine
end

