-- ==== Sys2Proof/Machine/Operands.lean ====
section
/-! DEFINITION. The operands of a stage (R153, R155, R159, R160, R161): the stream element, the second input, V0 and V1,
argument words, and the per-row, per-element and scale arrays, together with exact quotients (R163). -/

namespace Sys2Proof.Machine

/-- What every lane of a bay shares while a tile is issued: the chain, the tile with its copies, the tables of the wing,
the sampled seed and step (R51), memory for the second input, and the mask descriptors by stage. -/
structure LaneEnv where
  ch : Chain
  tile : Tile
  tables : List FuncTable
  seed : W64
  step : W32
  mem : List Host.Cell
  masks : List (Nat × MaskView)

/-- Element index of an element (R230). -/
def LaneEnv.index (v : LaneEnv) (el : Elem) : Nat := v.tile.e0 + el.beat

/-- Element index, where stage `idx` takes it, of what the beat of index `e` went into (R100, R230). -/
def LaneEnv.indexAt (v : LaneEnv) (idx e : Nat) : Nat := v.tile.e0 + (e - v.tile.e0) / v.ch.gathered idx

/-- Argument word `n` (R154). -/
def LaneEnv.arg (v : LaneEnv) (n : Nat) : Nat := v.tile.arg n

/-- The raw code of lane `r` in a beat of format `f` (R39). -/
def beatCode (f r : Nat) (b : Beat) : Nat := (b.toNat >>> (slotWidth f * r)) % 2 ^ fmtWidth f

/-- A beat of format `f` from the codes of the lanes (R39). -/
def packBeat (f : Nat) (codes : List Nat) : Beat :=
  BitVec.ofNat 8192 ((codes.foldl (fun (acc : Nat × Nat) c =>
    (acc.1 + (c % 2 ^ fmtWidth f) <<< (slotWidth f * acc.2), acc.2 + 1)) (0, 0)).1)

/-- The raw code of element `i` of the tile for row `r` under a layout word (R39, R155). -/
def layoutCode (m : List Host.Cell) (a f r i : Nat) : Nat :=
  memBits m (argRow a r) (fmtWidth f * i) (fmtWidth f)

/-- The raw code of the second input (R155). -/
def LaneEnv.secondRaw (v : LaneEnv) (r : Nat) (el : Elem) : Nat :=
  layoutCode v.mem (v.arg v.ch.secarg) v.ch.secfmt r el.beat

/-- An FP32 array in the tile's copy of memory: word `i` from the address of argument word `n` (R159). -/
def LaneEnv.word32 (v : LaneEnv) (n i : Nat) : W32 :=
  BitVec.ofNat 32 (memRead v.tile.view (argAddr (v.arg n) + 4 * i) 4)

/-- A byte array likewise. -/
def LaneEnv.byteAt (v : LaneEnv) (n i : Nat) : Nat := (memByte v.tile.view (argAddr (v.arg n) + i)).toNat

/-- A source code of R153. -/
def LaneEnv.source (v : LaneEnv) (r : Nat) (el : Elem) (code argi : Nat) : Num :=
  match code with
  | 0 => el.prev
  | 1 => el.stream
  | 2 => toBond (decode v.ch.secfmt (v.secondRaw r el))
  | 3 => el.v0
  | 4 => el.v1
  | 5 => decode 0 (v.arg argi % 2 ^ 32)
  | 6 => .zero
  | _ => .one

/-- The exact result of the final value stage whose rounding the source holds, if it holds one (R165, R166). -/
def LaneEnv.sourceExact (v : LaneEnv) (el : Elem) (code : Nat) : Option Num :=
  match code with
  | 0 => el.exPrev
  | 1 => if v.ch.final.isNone then some el.precise else none
  | 3 => el.exV0
  | 4 => el.exV1
  | _ => none

/-- A scale source of R160; `five` is what code 5 means. -/
def LaneEnv.scaleSource (v : LaneEnv) (r : Nat) (el : Elem) (code argi : Nat) (five : Num) : Num :=
  match code with
  | 0 => decode 0 (v.arg argi % 2 ^ 32)
  | 1 => ofF32 (v.word32 argi r)
  | 2 => ofF32 (v.word32 argi (v.index el))
  | 3 => el.v0
  | 4 => el.v1
  | _ => five

/-- The context that a final read takes: frozen at prefetch under SKIM, the lane's otherwise (R171, R172). -/
def LaneEnv.statCtx (v : LaneEnv) (l : Lane) : RowCtx := if v.ch.skim then l.frozen else l.ctx

/-- Is the stream element the operand of stage `idx` that source `code` names: STREAM, or PREV at stage 0 (R69)? -/
def readsStream (idx code : Nat) : Bool := code == 1 || (code == 0 && idx == 0)

/-- Does a SCALE stage decode a row-scaled element: its operand an S8 element that arrives, the off-load format, and its scale
from the per-row array (R35, R62, notes/assumptions/143)? -/
def LaneEnv.rowDecode (v : LaneEnv) (idx w : Nat) : Bool :=
  bits w 26 24 == 1 && ((readsStream idx (stIn w) && v.ch.infmt == 0x3) || (stIn w == 2 && v.ch.secfmt == 0x3))

/-- The MASK stage with SEGREAD = 1 that serves stage `idx`: the latest before it (R190). -/
def LaneEnv.segMask (v : LaneEnv) (idx : Nat) : Option MaskView :=
  ((v.masks.filter fun p => decide (p.1 < idx) && bit (v.ch.stage p.1) 26).getLast?).map Prod.snd

/-- Do the elements from index `a` to index `b` all have one segment ID, by the table's entries there, so that they form one run
(R145, R190)? -/
def LaneEnv.oneRun (v : LaneEnv) (idx a b : Nat) : Bool :=
  match v.segMask idx with
  | none => true
  | some mv =>
    let m := v.tile.view
    let lo := segFind m mv.desc (mv.desc.kpos0 + a)
    let hi := segFind m mv.desc (mv.desc.kpos0 + b)
    (List.range (hi - lo)).all fun i => decide (lo + i ≠ 0) && segId m mv.desc (lo + i - 1) == segId m mv.desc (lo + i)

/-- KNONE (R116). -/
def KNONE : BitVec 24 := 0x800000

/-- The draw of stage `idx` for element index `e` (R49, R50). -/
def LaneEnv.draw (v : LaneEnv) (l : Lane) (idx e : Nat) : Nat :=
  srDraw v.seed (BitVec.ofNat 32 e) l.tag (srC2 v.tile.chain.toNat idx) v.step

/-! ### Exact quotients (R163) -/

/-- A rational number, an infinity or a NaN, with the sign of a zero. -/
inductive Quot where
  | nan
  | inf (neg : Bool)
  | rat (neg : Bool) (n d : Nat)

def Quot.ofNum : Num → Quot
  | .nan => .nan
  | .inf s => .inf s
  | .fin s m e => let q := frac m e; .rat s q.1 q.2

def Quot.neg : Quot → Quot
  | .nan => .nan
  | .inf s => .inf (!s)
  | .rat s n d => .rat (!s) n d

def Quot.add (rdn : Bool) : Quot → Quot → Quot
  | .nan, _ => .nan
  | _, .nan => .nan
  | .inf s, .inf t => if s = t then .inf s else .nan
  | .inf s, _ => .inf s
  | _, .inf t => .inf t
  | .rat s n d, .rat t p q =>
    let x : Int := ((n * q : Nat) : Int)
    let y : Int := ((p * d : Nat) : Int)
    let z := (if s then -x else x) + (if t then -y else y)
    if z = 0 then .rat (if n = 0 ∧ p = 0 ∧ s = t then s else rdn) 0 1
    else .rat (decide (z < 0)) z.natAbs (d * q)

/-- The square (its sign is +). -/
def Quot.sq : Quot → Quot
  | .nan => .nan
  | .inf _ => .inf false
  | .rat _ n d => .rat false (n * n) (d * d)

/-- a / b (R41, R44). -/
def Quot.div : Quot → Quot → Quot
  | .nan, _ => .nan
  | _, .nan => .nan
  | .inf _, .inf _ => .nan
  | .inf s, .rat t _ _ => .inf (s != t)
  | .rat s _ _, .inf t => .rat (s != t) 0 1
  | .rat s n d, .rat t p q =>
    if p = 0 then (if n = 0 then .nan else .inf (s != t)) else .rat (s != t) (n * q) (d * p)

/-- rto of a quotient (R76). -/
def Quot.rto : Quot → Num
  | .nan => .nan
  | .inf s => .inf s
  | .rat s n d => rtoFrac s n d

/-- rto(a / √b): a negative root operand gives NaN (R44, R87, R163). -/
def Quot.divRoot (a b : Quot) : Num :=
  match a, b with
  | .nan, _ => .nan
  | _, .nan => .nan
  | a, .inf t => if t then .nan else (Quot.div a (.inf false)).rto
  | a, .rat t p q =>
    if p = 0 then (Quot.div a (.rat t 0 1)).rto
    else if t then .nan
    else match a with
      | .rat s n d => if n = 0 then .fin s 0 0 else withSign (.fin s 1 0) (rtoSqrt (n * n * q) (d * d * p))
      | a => a.rto

end Sys2Proof.Machine
end

