-- ==== Sys2Proof/Machine/Lane.lean ====
section
/-! DEFINITION. What one lane does with one beat in one lane pass: value stages with Once and Staged rounding (R160 to
R169), masks and selections (R159, R187), statistics (R102 to R107, R116 to R119, R140 to R147), and conversion on the
way out (R57 to R66, R99). A meaning calls it for each of the 256 lanes. -/

namespace Sys2Proof.Machine

/-- A lane at work: its registers and what this beat has produced so far. -/
structure LaneW where
  lane : Lane
  /-- NaN-trap conditions: element index, stage, cause (R69). -/
  traps : List (Nat × Nat × Nat)
  /-- Output elements: output index, code, and the pivot rises of the beat by segment (R117). -/
  outs : List (Nat × Nat × List (Nat × Nat))
  /-- SX8 codes: output index of the block's first element, and the code (R64). -/
  scales : List (Nat × Nat)
  /-- Column operands of the beat: stage, element index and value (R140). -/
  cols : List (Nat × Nat × Num)
  /-- Terms bound for exact totals: total, terms, and whether they are a run of the row's ETX (R107, R207). -/
  terms : List (Nat × List W32 × Bool)
  /-- Bytes bound for memory (R146). -/
  cells : List (Nat × Byte × Byte)
  /-- Results of value stages that the check path recomputes from the operands latched (R18, R336): stage, element index, and
  the reference results. -/
  latched : List (Nat × Nat × List Num)

/-- A lane about to work. -/
def LaneW.start (l : Lane) : LaneW := ⟨l, [], [], [], [], [], [], []⟩

def LaneW.map (x : LaneW) (f : Lane → Lane) : LaneW := { x with lane := f x.lane }
def LaneW.mapCtx (x : LaneW) (f : RowCtx → RowCtx) : LaneW := x.map fun l => { l with ctx := f l.ctx }
def LaneW.trap (x : LaneW) (e stage cause : Nat) : LaneW := { x with traps := x.traps ++ [(e, stage, cause)] }

/-- The operands of a value stage are latched for the check path, whose reference results they give (R336). -/
def LaneW.latch (x : LaneW) (idx e : Nat) (results : List Num) : LaneW :=
  { x with latched := x.latched ++ [(idx, e, results)] }

/-- A statistic operand is noted in NANSEEN and INFSEEN (R120). -/
def LaneW.seen (x : LaneW) (v : Num) : LaneW :=
  x.mapCtx fun c => { c with nanSeen := c.nanSeen || v.isNan, infSeen := c.infSeen || v.isInf }

/-! ### Value stages -/

/-- Rounding mode that decides the sign of an exact zero (R41, R166, R167). -/
def LaneEnv.modeOf (v : LaneEnv) (idx w : Nat) : Nat :=
  if v.ch.staged then stRnd w
  else if v.ch.final = some idx then
    match v.ch.outStage with
    | some o => stRnd o
    | none => 0
  else 0

def LaneEnv.rdn (v : LaneEnv) (idx w : Nat) : Bool := v.modeOf idx w == 3

/-- What the lane holds of a value stage's exact result: bond format under Once, the SFMT value under Staged (R166 to
R168). ALIGN, too, rounds under its own RND there (notes/assumptions/134). -/
def LaneEnv.hold (v : LaneEnv) (l : Lane) (idx w e : Nat) (x : Num) : Num :=
  if v.ch.staged then
    convert (stSfmt w) (stRnd w) (if stRnd w = 4 then v.draw l idx e else 0) false x
  else toBond x

/-- The end of a value stage: CREATED (R69), the rounding, and DST (R152). -/
def finishValue (v : LaneEnv) (idx w : Nat) (x : LaneW) (el : Elem) (val : Num) (ops : List Num) : LaneW × Elem :=
  let e := v.index el
  let x := (if val.isNan && !ops.any Num.isNan then x.trap e idx 0 else x).latch idx e [val]
  let held := v.hold x.lane idx w e val
  let fin := !v.ch.staged && decide (v.ch.final = some idx)
  let exact := fun (writes : Bool) (old : Option Num) =>
    if fin then (if writes then some val else none) else if writes then none else old
  let toV0 := stDst w == 1 || stDst w == 3
  let toV1 := stDst w == 2
  let toPrev := stDst w == 0 || stDst w == 3
  (x, { el with
    prev := if toPrev then held else el.prev
    v0 := if toV0 then held else el.v0
    v1 := if toV1 then held else el.v1
    exPrev := exact toPrev el.exPrev
    exV0 := exact toV0 el.exV0
    exV1 := exact toV1 el.exV1 })

/-- The event of an invalid row scale, once for each row of each tile (R62, R69). -/
def LaneW.invScale (x : LaneW) (e idx : Nat) : LaneW :=
  if x.lane.invSeen then x else (x.trap e idx 4).map fun l => { l with invSeen := true }

/-- The SX8 code that a DEQ stage reads for an element index of row `r` (R64, R161). -/
def LaneEnv.sx8Code (v : LaneEnv) (r w e : Nat) : Nat := v.byteAt (stArgi w) (r + 256 * (e / 32))

/-- Has an earlier DEQ stage met the code 0xFF for the same element, so that its NaN has been counted (R69)? -/
def LaneEnv.deqCounted (v : LaneEnv) (r idx w e : Nat) : Bool :=
  v.ch.indexed.any fun p => decide (p.1 < idx) && stOp p.2 == opDEQ && decide (2 ≤ bits p.2 25 24)
    && (stIn p.2 == 2) == (stIn w == 2) && v.sx8Code r p.2 e == 0xFF

/-- DEQ's exact expansion and its NaN-carrying operands (R161); an invalid scale gives NaN (R62), and the SX8 code 0xFF
meets SI or MEM (R69). -/
def stageDeq (v : LaneEnv) (r idx w : Nat) (x : LaneW) (el : Elem) : LaneW × Num × List Num :=
  let sec := stIn w == 2
  let q := if sec then v.secondRaw r el else el.raw
  let f := if sec then v.ch.secfmt else v.ch.infmt
  let e := v.index el
  let gs := bits w 30 26
  let j := if gs = 0 then 0 else e / 2 ^ gs
  let off := r + 256 * j
  let argi := stArgi w
  match bits w 25 24 with
  | 0 =>
    let n := ofF32 (v.word32 argi (q % 16))
    (x, n, [n])
  | 1 =>
    let sw := v.word32 argi off
    let s := ofF32 sw
    let z : Int := if bit w 31 then sext 8 (v.byteAt (bits w 34 32) off) else 0
    if scaleValid sw then (x, (Num.ofInt (sext (fmtWidth f) q - z)).mul s, [s])
    else (x.invScale e idx, .nan, [.nan])
  | _ =>
    let code := v.sx8Code r w e
    if code = 0xFF then
      (if v.deqCounted r idx w e then x
        else x.trap e (v.ch.reader (if sec then 2 else 1)) (if sec || v.ch.insrc then 2 else 1), .nan, [.nan])
    else (x, sx8Decode f code q, [])

/-- ALIGN (R164): the leaf pivot from the array, the root pivot from the context. A root of KNONE under a leaf that has a pivot
counts as the number -2^23 (notes/assumptions/133). -/
def stageAlign (v : LaneEnv) (r w : Nat) (l : Lane) (el : Elem) (a : Num) : Num :=
  let q := v.index el / (if bit w 24 then 256 else 128)
  let c0 := v.arg (bits w 27 25) % 2 ^ 24
  let leaf := sext 32 (v.word32 (stArgi w) (256 * (q - c0) + r)).toNat
  if leaf = KNONE.toInt then .zero else a.scale (leaf - (v.statCtx l).pivot.toInt)

/-- Is the context one that no term has come into since it was allocated: PIVOT KNONE, PSUM +0 and COUNT 0 (R121, R189)? -/
def RowCtx.noTerm (c : RowCtx) : Bool := c.pivot == KNONE && c.psum == 0 && c.count == 0

/-- NORM (R163): the reference result and its operands. DIVPSUM over a context that no term has come into gives NaN whatever the
operand, as R198 says of a context freed and allocated again (R189, notes/assumptions/139). -/
def stageNorm (v : LaneEnv) (idx w : Nat) (l : Lane) (a : Num) : Num × List Num :=
  let c := v.statCtx l
  let src := bits w 28 27
  let sum := ofF32 (if src = 1 then l.etRead else c.sum)
  let sumsq := ofF32 (if src = 2 then l.etRead else c.sumsq)
  let eps := decode 0 (v.arg (stArgi w) % 2 ^ 32)
  let count := Quot.rat false c.count.toNat 1
  let rdn := v.rdn idx w
  match bits w 26 24 with
  | 0 =>
    if c.noTerm = true then (.nan, [a, ofF32 c.psum])
    else ((Quot.div (.ofNum a) (.ofNum (ofF32 c.psum))).rto, [a, ofF32 c.psum])
  | 1 => ((Quot.div (.ofNum a) (.ofNum sum)).rto, [a, sum])
  | 2 =>
    if c.count = 0 then (.nan, [a, sumsq, eps])
    else (Quot.divRoot (.ofNum a) (Quot.add false (Quot.div (.ofNum sumsq) count) (.ofNum eps)), [a, sumsq, eps])
  | 3 =>
    if c.count = 0 then (.nan, [a, sum, sumsq, eps])
    else
      let m := Quot.div (.ofNum sum) count
      let var := Quot.add false (Quot.add false (Quot.div (.ofNum sumsq) count) m.sq.neg) (.ofNum eps)
      (Quot.divRoot (Quot.add rdn (.ofNum a) m.neg) var, [a, sum, sumsq, eps])
  | _ =>
    let d := Num.max (ofF32 c.maxv).abs (ofF32 c.minv).abs
    ((Quot.div (.ofNum a) (.ofNum d)).rto, [a, d])

/-- A value stage on one element, PAIRROT and RECOMB apart (R159 to R165). SCALE with SSRC 1 decodes an S8 element that arrives with
its row's scale, which gives NaN where that is invalid (R62); any other operand it multiplies by s as it stands
(notes/assumptions/143). -/
def stageValue (v : LaneEnv) (r idx w : Nat) (x : LaneW) (el : Elem) : LaneW × Elem :=
  let argi := stArgi w
  let a := v.source r el (stIn w) argi
  let op := stOp w
  if op = opSCALE then
    let s := v.scaleSource r el (bits w 26 24) argi .one
    let o := v.scaleSource r el (bits w 29 27) (bits w 32 30) .zero
    if v.rowDecode idx w && !scaleValid (v.word32 argi r) then
      finishValue v idx w (x.invScale (v.index el) idx) el .nan [.nan]
    else finishValue v idx w x el (Num.add (v.rdn idx w) (a.mul s) o) [a, s, o]
  else if op = opFMA then
    let b := v.source r el (bits w 26 24) argi
    let c := v.source r el (bits w 29 27) argi
    finishValue v idx w x el (Num.add (v.rdn idx w) (a.mul b) c) [a, b, c]
  else if op = opDEQ then
    let res := stageDeq v r idx w x el
    finishValue v idx w res.1 el res.2.1 res.2.2
  else if op = opALIGN then finishValue v idx w x el (stageAlign v r w x.lane el a) [a]
  else if op = opNORM then
    let res := stageNorm v idx w x.lane a
    finishValue v idx w x el res.1 res.2
  else if op = opFUNC then
    let k : Int := if bit w 29 && el.ki != KNONE then el.ki.toInt else 0
    finishValue v idx w x el (evalFunc v.tables (bits w 28 24) a k) [a]
  else
    -- ROT: sin into V0, cos into V1, PREV unchanged (R84, R85, R159); as the final value stage it leaves both exact results
    -- to the rounding of ROUND or SPLIT, whichever register that reads or a MASK or SELECT passes on (R77, R166)
    let e := v.index el
    let arg := v.arg argi % 2 ^ 40
    let p := if bit w 39 then arg + e else arg + r
    let fm := if bits w 38 27 = 0 then 4096 else bits w 38 27
    let sc := fRot v.tables p (rotFreq v.tables (bits w 26 24) ((if bit w 40 then e / 2 else e) % fm))
    let fin := !v.ch.staged && decide (v.ch.final = some idx)
    (x.latch idx e [sc.1, sc.2], { el with
      v0 := v.hold x.lane idx w e sc.1
      v1 := v.hold x.lane idx w e sc.2
      exPrev := if fin then none else el.exPrev
      exV0 := if fin then some sc.1 else none
      exV1 := if fin then some sc.2 else none })

/-- PAIRROT on the pair of elements 2j and 2j + 1, each with the angle that its own V0 and V1 hold (R162). -/
def stagePairRot (v : LaneEnv) (r idx w : Nat) (x : LaneW) (e0 e1 : Elem) : LaneW × Elem × Elem :=
  let a := v.source r e0 (stIn w) (stArgi w)
  let b := v.source r e1 (stIn w) (stArgi w)
  let rdn := v.rdn idx w
  let y0 := Num.add rdn (a.mul e0.v1) (b.mul e0.v0).neg
  let y1 := Num.add rdn (a.mul e1.v0) (b.mul e1.v1)
  let r0 := finishValue v idx w x e0 y0 [a, b, e0.v0, e0.v1]
  let r1 := finishValue v idx w r0.1 e1 y1 [a, b, e1.v0, e1.v1]
  (r1.1, r0.2, r1.2)

/-- The exact sum of a list (R104): −0 only when every term is −0. -/
def sumNums : List Num → Num
  | [] => .zero
  | t :: ts => ts.foldl (Num.add false) t

/-- The segment ID of element index `e` where an earlier MASK stage with SEGREAD = 1 has given the elements theirs, else what
stands (R181, R190). -/
def LaneEnv.segAt (v : LaneEnv) (idx e : Nat) (old : BitVec 24) : BitVec 24 :=
  match v.segMask idx with
  | some mv => BitVec.ofNat 24 (segOf v.tile.view mv.desc mv.k (mv.desc.kpos0 + e))
  | none => old

/-- RECOMB over the m beats of one output column: the element takes the output index, and the segment of its position there
(R100, R190). It is absent when every one of its inputs is, and of no segment context when its last input is. -/
def stageRecomb (v : LaneEnv) (r idx w : Nat) (x : LaneW) (els : List Elem) : LaneW × List Elem :=
  match els with
  | [] => (x, [])
  | e0 :: rest =>
    let beat := e0.beat / stSet w
    let vals := els.map fun el => v.source r el (stIn w) (stArgi w)
    let sum := match vals with
      | [] => Num.zero
      | t :: ts => ts.foldl (Num.add (v.rdn idx w)) t
    let last := rest.getLast?.getD e0
    let el := { e0 with
      beat := beat
      masked := els.all Elem.masked
      outside := last.outside
      seg := v.segAt idx (v.tile.e0 + beat) e0.seg
      delta := els.flatMap Elem.delta }
    let res := finishValue v idx w x { el with ki := last.ki } sum vals
    (res.1, [res.2])

/-! ### Masks and selections (R159, R187) -/

/-- A stage that is no value stage passes a value on exactly; `src` is the source code it came from, 8 for a fill
(R165). -/
def putExact (v : LaneEnv) (w : Nat) (el : Elem) (val : Num) (src : Nat) : Elem :=
  let ex := v.sourceExact el src
  let toV0 := stDst w == 1 || stDst w == 3
  let toV1 := stDst w == 2
  let toPrev := stDst w == 0 || stDst w == 3
  { el with
    prev := if toPrev then val else el.prev
    v0 := if toV0 then val else el.v0
    v1 := if toV1 then val else el.v1
    exPrev := if toPrev then ex else el.exPrev
    exV0 := if toV0 then ex else el.exV0
    exV1 := if toV1 then ex else el.exV1 }

/-- A masked element: absent from here on, with the fill value (R159, R187). -/
def putFill (v : LaneEnv) (w : Nat) (el : Elem) : Elem :=
  putExact v w { el with masked := true } (if bit w 24 then .zero else .inf true) 8

def stageMask (v : LaneEnv) (r idx w : Nat) (el : Elem) : Elem :=
  match v.masks.find? fun p => p.1 == idx with
  | none => el
  | some (_, mv) =>
    let e := v.index el
    let el := if bit w 26 then
        { el with seg := BitVec.ofNat 24 (segOf v.tile.view mv.desc mv.k (mv.desc.kpos0 + e)) }
      else el
    if mv.present v.tile.view r e then putExact v w el (v.source r el (stIn w) (stArgi w)) (stIn w)
    else putFill v w el

def stageSelect (v : LaneEnv) (r w : Nat) (el : Elem) : Elem :=
  let argi := stArgi w
  let a := v.source r el (stIn w) argi
  let b := v.source r el (bits w 26 24) argi
  if pred (bits w 32 30) (toBond a) (toBond b) then putExact v w el a (stIn w)
  else putExact v w el (v.source r el (bits w 29 27) argi) (bits w 29 27)

/-- The indices of a row's top-k list: the lane's buffer under ONETILE, the list record under SKIM (R159, R172). -/
def threshList (v : LaneEnv) (r w : Nat) (l : Lane) : List Nat :=
  let kt := bits w 31 25
  if v.ch.oneTile then (l.topk.take kt).map fun c => c.2.toNat
  else
    let a := argRow (v.arg (stArgi w)) r
    let valid := bits (memRead v.tile.view a 8) 31 25
    (List.range (min kt valid)).map fun e => memRead v.tile.view (a + 12 + 8 * e) 4

def stageThresh (v : LaneEnv) (r w : Nat) (l : Lane) (el : Elem) : Elem :=
  let a := v.source r el (stIn w) (stArgi w)
  if (threshList v r w l).contains (v.index el) && !a.isNan then putExact v w el a (stIn w)
  else putFill v w el

/-! ### Statistics before the function (R116, R117, R120, R142) -/

/-- ceil of a finite number, clamped to the pivot's range (R116). -/
def pivotOf (x : Num) : Int :=
  Max.max (-0x7FFFFF) (Min.min (-(x.neg.floorAt 0)) 0x7FFFFF)

/-- Is the element absent for a statistic of the row context in the lane: masked, or of no segment context (R103, R187,
notes/assumptions/39)? -/
def Elem.absent (el : Elem) : Bool := el.masked || el.outside

/-- PIVOT (R116, R117): the pivot's update, and the rise that a RESCALE token carries under TOKENS = 1, with the segment of the last
beat of the element (R192). -/
def stagePivot (v : LaneEnv) (idx w : Nat) (x : LaneW) (el : Elem) (val : Num) : LaneW × Elem :=
  if el.absent then (x, { el with ki := x.lane.ctx.pivot })
  else
    let x := x.seen val
    let k := x.lane.ctx.pivot
    if val.isFinite then
      let c := pivotOf val
      let k' := if k = KNONE then c else Max.max k.toInt c
      let d := if k = KNONE ∨ !bit w 24 then 0 else (k' - k.toInt).toNat
      let kb := BitVec.ofInt 24 k'
      let g := v.ch.gathered idx
      let sg := if v.ch.segctx.isSome then v.tile.segOfBeat v.ch (el.beat * g + (g - 1)) - 1 else 0
      (x.mapCtx fun cx => { cx with pivot := kb },
        { el with ki := kb, delta := if d = 0 then el.delta else el.delta ++ [(sg, d)] })
    else (x, { el with ki := k })

def stageExtrema (w : Nat) (x : LaneW) (el : Elem) (val : Num) : LaneW :=
  if el.absent then x
  else
    let q := ofF32 (toF32 val)
    (x.seen val).mapCtx fun c => { c with
      maxv := if bit w 24 then toF32 (Num.max (ofF32 c.maxv) q) else c.maxv
      minv := if bit w 25 then toF32 (Num.min (ofF32 c.minv) q) else c.minv }

/-- Does candidate a rank above b (R142)? -/
def ranksAbove (a b : W32 × W32) : Bool :=
  let x := ofF32 a.1
  let y := ofF32 b.1
  y.lt x || (x.eq y && decide (a.2.toNat < b.2.toNat))

/-- A candidate put in its place by rank. -/
def topkInsert (c : W32 × W32) : List (W32 × W32) → List (W32 × W32)
  | [] => [c]
  | d :: t => if ranksAbove c d then c :: d :: t else d :: topkInsert c t

/-- TOPK on one element (R142, R143); two TOPK stages share the lane's buffer (notes/assumptions/147). The buffer is of no segment
context, so an element of none is a candidate too; it sets no flag of the context in the lane (notes/assumptions/39). -/
def stageTopk (v : LaneEnv) (w : Nat) (x : LaneW) (el : Elem) (val : Num) : LaneW :=
  if el.masked then x
  else
    let x := if el.outside then x else x.seen val
    let q := toF32 val
    if (ofF32 q).isNan then x
    else x.map fun l => { l with
      topk := (topkInsert (q, BitVec.ofNat 32 (v.index el)) l.topk).take (bits w 30 24) }

/-! ### Sums (R102 to R107, R113, R118, R119) -/

/-- The accumulator of stage `idx`; a fresh one starts at the pivot that the lane holds (R118). -/
def Lane.sum (l : Lane) (idx : Nat) : SumSt :=
  (l.sums.find? fun s => s.stage == idx).getD ⟨idx, [], l.ctx.pivot, l.ctx.pivot, []⟩

def Lane.setSum (l : Lane) (s : SumSt) : Lane :=
  { l with sums := l.sums.filter (fun t => t.stage != s.stage) ++ [s] }

/-- The segment register of stage `idx`. -/
def Lane.seg (l : Lane) (idx : Nat) : SegSt :=
  (l.segs.find? fun s => s.stage == idx).getD ⟨idx, none, 0, 0, 0, 0, 0, 0⟩

def Lane.setSeg (l : Lane) (s : SegSt) : Lane :=
  { l with segs := l.segs.filter (fun t => t.stage != s.stage) ++ [s] }

/-- The running sum rescaled to a risen pivot: RNE where subnormal, +0 below half the smallest subnormal (R118). -/
def rescale (s : W32) (d : Int) : W32 :=
  match (ofF32 s).scale d with
  | .fin n m e =>
    if m ≠ 0 ∧ magGt 1 (-150) m e then 0 else toF32 (.fin n m e)
  | y => toF32 y

/-- S + g rounded once under SR (R105). -/
def srStep (s g : Num) (draw : Nat) : Num := convert 0 4 draw false (Num.add false s g)

/-- The factor exponent k1 − k2, 0 when either is KNONE (R119). -/
def pivotDiff (k1 k2 : BitVec 24) : Int := if k1 = KNONE ∨ k2 = KNONE then 0 else k1.toInt - k2.toInt

/-- The field of SUM, SUMSQ or PSUM by STAT (R120). -/
def RowCtx.stat (c : RowCtx) : Nat → W32
  | 0 => c.sum
  | 1 => c.sumsq
  | _ => c.psum

def RowCtx.setStat (c : RowCtx) (q : Nat) (v : W32) : RowCtx :=
  match q with
  | 0 => { c with sum := v }
  | 1 => { c with sumsq := v }
  | _ => { c with psum := v }

/-- Send the EXACT run of stage `idx`, if it holds a result (R107). -/
def sendRun (x : LaneW) (idx : Nat) : LaneW :=
  let s := x.lane.sum idx
  if s.run.isEmpty then x
  else { (x.map fun l => l.setSum { s with run := [] }) with
    terms := x.terms ++ [(x.lane.ctx.etx.toNat, s.run, true)] }

/-- Close the group of a SUM, TALLY or SEG stage that ends at element index `e` (R104, R105, R107, R118). A CREATED
condition of its result records that index as ELEMENT (R69, notes/assumptions/130). -/
def closeGroup (v : LaneEnv) (idx w e : Nat) (x : LaneW) : LaneW :=
  let s := x.lane.sum idx
  match s.terms.getLast? with
  | none => x.map fun l => l.setSum { s with kPrev := s.kEnd }
  | some lastTerm =>
    let op := stOp w
    let stat := if op = opTALLY then 1 else bits w 25 24
    let psum := op == opSUM && stat == 2
    let kl := lastTerm.k
    let vals := s.terms.map fun t => if psum then t.value.scale (pivotDiff t.k kl) else t.value
    let g := toF32 (sumNums vals)
    let gv := ofF32 g
    let x := if gv.isNan && !vals.any Num.isNan then x.trap e idx 0 else x
    let x := x.map fun l => { l.setSum { s with terms := [], kPrev := s.kEnd } with
      leafNan := l.leafNan || (psum && vals.any Num.isNan)
      leafInf := l.leafInf || (psum && vals.any Num.isInf) }
    if op = opTALLY then
      { x with terms := x.terms ++
          [(4096 + 3 * (v.arg (stArgi w) % 4096) + bits w 25 24, [g], false)] }
    else if op = opSUM ∧ bit w 28 = true then
      let s := x.lane.sum idx
      let x := x.map fun l => l.setSum { s with run := s.run ++ [g] }
      if 64 ≤ s.run.length + 1 then sendRun x idx else x
    else
      let start := e / stGroup w * stGroup w
      -- a segment's last group may close when the lane holds the next segment's context: its run keeps the tag (R145, R192)
      let tag := if op = opSEG then (x.lane.seg idx).tag else x.lane.tag
      let draw := v.draw { x.lane with tag := tag } idx (start + stat)
      let cur := if op = opSEG then (x.lane.seg idx).value else x.lane.ctx.stat stat
      let cur := if psum then rescale cur (pivotDiff s.kPrev kl) else cur
      let res := srStep (ofF32 cur) gv draw
      let x := if res.isNan && !(ofF32 cur).isNan && !gv.isNan then x.trap e idx 0 else x
      if op = opSEG then x.map fun l => l.setSeg { l.seg idx with value := toF32 res }
      else x.mapCtx fun c => c.setStat stat (toF32 res)

/-- A SUM or TALLY stage on one element (R102 to R107, R187, R207). A tally is no statistic of the row, so its operand
sets no flag of the context (R120). -/
def stageSum (v : LaneEnv) (idx w : Nat) (x : LaneW) (el : Elem) (val : Num) : LaneW :=
  let e := v.index el
  let s := { x.lane.sum idx with kEnd := el.ki }
  let stat := if stOp w = opTALLY then 1 else bits w 25 24
  let x :=
    if el.masked || (el.outside && stOp w != opTALLY) then x.map fun l => l.setSum s
    else
      let t := if stat = 1 then val.mul val else val
      let x := if stOp w = opTALLY then x else x.seen val
      let x := x.map fun l => l.setSum { s with terms := s.terms ++ [⟨t, el.ki⟩] }
      if v.ch.counter = some idx then x.mapCtx fun c => { c with count := satAdd c.count 1 } else x
  if e % stGroup w = stGroup w - 1 then closeGroup v idx w e x else x

/-! ### Segments (R145, R146, R190, R191) -/

/-- A segment record (R146). -/
def segRecord (sg : SegSt) (r stat : Nat) (isOpen : Bool) : Nat :=
  (sg.segment.getD 0).toNat + r % 256 * 2 ^ 24 + sg.value.toNat * 2 ^ 32 + sg.count.toNat * 2 ^ 64
    + stat * 2 ^ 96 + b2n isOpen * 2 ^ 98

/-- The record of the open run of a SEG stage, in the place that the run's record has (R146). -/
def putSegment (v : LaneEnv) (r idx w : Nat) (isOpen : Bool) (x : LaneW) : LaneW :=
  let sg := x.lane.seg idx
  let a := argRow (v.arg (stArgi w)) r + Config.segRecordOffset sg.written
  { x with cells := x.cells ++ leCells a (segRecord sg r (bits w 25 24) isOpen) 16 }

/-- End the open run of a SEG stage with its record, at element index `e` (R146). -/
def endSegment (v : LaneEnv) (r idx w e : Nat) (x : LaneW) : LaneW :=
  if (x.lane.seg idx).segment.isNone then x
  else
    let x := putSegment v r idx w false (closeGroup v idx w e x)
    x.map fun l => l.setSeg ⟨idx, none, 0, 0, 0, 0, (l.seg idx).written + 1, 0⟩

/-- The record with OPEN = 1 of a run that goes on past the end of a tile: it stands unless a later tile that carries the
run over writes its record again (R146, notes/assumptions/29). -/
def leaveSegment (v : LaneEnv) (r idx w : Nat) (x : LaneW) : LaneW :=
  if (x.lane.seg idx).segment.isNone then x else putSegment v r idx w true x

/-- A SEG stage on one element (R145, R146, R190). The run of the elements before it ends where this one has another ID, or where an
element between that no tile has brought has one (R185). -/
def stageSeg (v : LaneEnv) (r idx w : Nat) (x : LaneW) (el : Elem) (val : Num) : LaneW :=
  let e := v.index el
  let kind := bits w 25 24
  let sg := x.lane.seg idx
  let x := if sg.segment.isSome && (sg.segment != some el.seg || (decide (sg.last + 1 < e) && !v.oneRun idx sg.last e))
    then endSegment v r idx w sg.last x else x
  if el.seg.toNat = NOSEG then x
  else
    let sg := x.lane.seg idx
    let sg := if sg.segment.isSome then sg
      else { sg with segment := some el.seg, value := if kind < 2 then 0 else 0x7FC00000, count := 0, first := e }
    let sg := { sg with
      tag := x.lane.tag
      last := e }
    let x := x.map fun l => l.setSeg sg
    let x :=
      if el.masked then x
      else
        let x := (x.seen val).map fun l => l.setSeg { sg with count := sg.count + 1 }
        if kind < 2 then
          let s := x.lane.sum idx
          x.map fun l => l.setSum { s with terms := s.terms ++ [⟨if kind = 1 then val.mul val else val, el.ki⟩] }
        else
          let q := ofF32 (toF32 val)
          x.map fun l =>
            let g := l.seg idx
            l.setSeg { g with value := toF32 (if kind = 2 then Num.max (ofF32 g.value) q
              else Num.min (ofF32 g.value) q) }
    if decide (kind < 2) && decide (e % stGroup w = stGroup w - 1) then closeGroup v idx w e x else x

/-! ### Conversion on the way out (R57 to R66, R99) -/

/-- The source of a ROUND or SPLIT stage: the exact result of the final value stage where the operand holds its
rounding (R165, R166), otherwise the value that the lane holds. -/
def LaneEnv.outSource (v : LaneEnv) (r w : Nat) (el : Elem) : Num :=
  (v.sourceExact el (stIn w)).getD (v.source r el (stIn w) (stArgi w))

/-- The codes of a held SX8 block, its SX8 code, the elements it loses, and the infinities that set code 0xFF (R55,
R59, R60, R65, R69). The SR draws of its elements take the CTAG of the context in the lane as the block leaves
(notes/assumptions/176). -/
def encodeBlock (v : LaneEnv) (l : Lane) (r idx w : Nat) (blk : List (Nat × List (Nat × Nat) × Num)) :
    Nat × List (Nat × Nat × List (Nat × Nat)) × Nat × List Nat :=
  let f := stSfmt w
  let srcs := blk.map fun p => p.2.2
  let first := v.tile.e0 + (match blk with
    | [] => 0
    | p :: _ => p.1)
  let code :=
    if stScale w = 2 then
      let g := v.byteAt (bits w 30 28) (r + 256 * (first / 32))
      if g = 0 ∨ g = 0xFF then g else if srcs.any fun s => !s.isFinite then 0xFF else g
    else chooseSx8 srcs f
  let given := decide (stScale w = 2) && (let g := v.byteAt (bits w 30 28) (r + 256 * (first / 32)); g == 0xFF)
  let enc := blk.map fun p =>
    let d := if stRnd w = 4 then v.draw l idx (v.tile.e0 + p.1) else 0
    (p.1, sx8Element f (stRnd w) d code p.2.2, p.2.1)
  let lost :=
    if code = 0 ∨ code = 0xFF then 0
    else ((enc.zip srcs).filter fun p =>
      p.2.isFinite && !p.2.isZero && decide (p.1.2.1 % 2 ^ (fmtWidth f - 1) = 0)).length
  let infs := if code = 0xFF ∧ given = false then
      (blk.filter fun p => p.2.2.isInf).map fun p => v.tile.e0 + p.1
    else []
  (code, enc, lost, infs)

/-- The held block leaves with its code (R63). Its lost elements count in the context that the lane holds then, that of the later
segment where a boundary under SEGCTX lies inside the block (notes/assumptions/162). -/
def flushBlock (v : LaneEnv) (r idx w : Nat) (x : LaneW) : LaneW :=
  match x.lane.block with
  | [] => x
  | p :: _ =>
    let res := encodeBlock v x.lane r idx w x.lane.block
    let x := { x with
      outs := x.outs ++ res.2.1
      scales := x.scales ++ [(p.1, res.1)]
      traps := x.traps ++ res.2.2.2.map fun e => (e, idx, 5) }
    (x.map fun l => { l with block := [] }).mapCtx fun c => { c with blockloss := satAdd c.blockloss res.2.2.1 }

/-- A ROUND stage on one element (R57 to R66). -/
def stageRound (v : LaneEnv) (r idx w : Nat) (x : LaneW) (el : Elem) : LaneW :=
  let src := v.outSource r w el
  let e := v.index el
  let f := stSfmt w
  let rnd := stRnd w
  let wrap := bit w 27
  let draw := if rnd = 4 then v.draw x.lane idx e else 0
  match stScale w with
  | 0 => { x with outs := x.outs ++ [(el.beat, encode f (convert f rnd draw wrap src), el.delta)] }
  | 3 =>
    let s := v.word32 (bits w 30 28) r
    if scaleValid s then
      let y := encodeScaled f rnd draw wrap src s
      { (x.mapCtx fun c => { c with blockloss := satAdd c.blockloss (b2n (isLost src y)) }) with
        outs := x.outs ++ [(el.beat, encode f y, el.delta)] }
    else
      -- an integer target has no NaN: the element is written as 0, and lost where its source was a finite nonzero (R65)
      let lost := b2n ((floatFmt f).isNone && isLost src .zero)
      let x := (x.invScale e idx).mapCtx fun c => { c with blockloss := satAdd c.blockloss lost }
      { x with outs := x.outs ++ [(el.beat, canonNan f, el.delta)] }
  | _ =>
    let x := x.map fun l => { l with block := l.block ++ [(el.beat, el.delta, src)] }
    if e % 32 = 31 then flushBlock v r idx w x else x

/-- A SPLIT stage on one element: the S16 pieces of its FP32 value (R99). -/
def stageSplit (v : LaneEnv) (r idx w : Nat) (x : LaneW) (el : Elem) : LaneW :=
  let rnd := stRnd w
  let draw := if rnd = 4 then v.draw x.lane idx (v.index el) else 0
  let a := convert 0 rnd draw false (v.outSource r w el)
  let three := bit w 24
  let n := if three then 3 else 2
  let p0 := convert 2 1 0 false a
  let tail := fun (y : Num) => if !a.isFinite || a.isZero then Num.zero else y
  let r1 := a.sub p0
  let p1 := tail (convert 2 (if three then 1 else 0) 0 false r1)
  let p2 := tail (convert 2 0 0 false (r1.sub p1))
  let out := fun (q : Nat) (y : Num) (d : List (Nat × Nat)) => (el.beat * n + q, encode 2 y, d)
  { x with outs := x.outs ++ [out 0 p0 el.delta, out 1 p1 []] ++ (if three then [out 2 p2 []] else []) }

/-! ### A stage, and a beat in a lane pass -/

/-- A stage other than PAIRROT and RECOMB on one element. A stage that forms no value leaves it unchanged; the DST of a statistic,
ROUND, SPLIT or OVFCHK stage copies the value that it received, whatever its IN names (R152, R165, notes/assumptions/163). -/
def stageOne (v : LaneEnv) (r idx w : Nat) (x : LaneW) (el : Elem) : LaneW × Elem :=
  let op := stOp w
  let val := toBond (v.source r el (stIn w) (stArgi w))
  let pass := fun (el : Elem) => if stDst w = 0 then el else putExact v w el el.prev 0
  if isValueStage w then stageValue v r idx w x el
  else if op = opMASK then (x, stageMask v r idx w el)
  else if op = opSELECT then (x, stageSelect v r w el)
  else if op = opTHRESH then (x, stageThresh v r w x.lane el)
  else if op = opPIVOT then let res := stagePivot v idx w x el val; (res.1, pass res.2)
  else if op = opEXTREMA then (stageExtrema w x el val, pass el)
  else if op = opTOPK then (stageTopk v w x el val, pass el)
  else if op = opCOL then
    (if el.masked then x else { x with cols := x.cols ++ [(idx, v.index el, val)] }, pass el)
  else if op = opSEG then (stageSeg v r idx w x el val, pass el)
  else if op = opSUM ∨ op = opTALLY then (stageSum v idx w x el val, pass el)
  else if op = opROUND then (stageRound v r idx w x el, pass el)
  else if op = opSPLIT then (stageSplit v r idx w x el, pass el)
  else (x, pass el)

/-- The elements ready for stage `idx`, taken through it in order. -/
def stageEach (v : LaneEnv) (r idx w : Nat) : LaneW → List Elem → LaneW × List Elem
  | x, [] => (x, [])
  | x, el :: t =>
    let a := stageOne v r idx w x el
    let b := stageEach v r idx w a.1 t
    (b.1, { a.2 with stage := idx + 1 } :: b.2)

/-- PAIRROT over the ready elements: a pair goes on, an element without its partner waits (R162). -/
def stagePairs (v : LaneEnv) (r idx w : Nat) : LaneW → List Elem → LaneW × List Elem
  | x, e0 :: e1 :: t =>
    let a := stagePairRot v r idx w x e0 e1
    let b := stagePairs v r idx w a.1 t
    (b.1, { a.2.1 with stage := idx + 1 } :: { a.2.2 with stage := idx + 1 } :: b.2)
  | x, es => (x, es)

/-- Stage `idx` over the elements in hand: those that stand before it take it (R148). -/
def stageAll (v : LaneEnv) (r idx w : Nat) (x : LaneW) (es : List Elem) : LaneW × List Elem :=
  let ready := es.filter fun el => el.stage == idx
  let rest := es.filter fun el => el.stage != idx
  let res :=
    if stOp w = opPAIRROT then stagePairs v r idx w x ready
    else if stOp w = opRECOMB then
      (if ready.length = stSet w then
        let q := stageRecomb v r idx w x ready
        (q.1, q.2.map fun el => { el with stage := idx + 1 })
       else (x, ready))
    else stageEach v r idx w x ready
  (res.1, rest ++ res.2)

/-- The stages of lane pass `p` in execution order. -/
def Chain.passStages (c : Chain) (p : Nat) : List (Nat × Nat) := c.indexed.filter fun s => stPass s.2 == p

/-- An element that has taken every stage of a chain without ROUND or SPLIT leaves in the chain's output format. -/
def leave (v : LaneEnv) (x : LaneW) (el : Elem) : LaneW :=
  if v.ch.outStage.isNone && v.ch.emits then
    let f := v.ch.outFmt
    { x with outs := x.outs ++ [(el.beat, encode f (convert f 0 0 false (el.exPrev.getD el.prev)), el.delta)] }
  else x

/-- The element of beat `b` as it enters a lane, with the NaNs that arrive (R53, R69, R174). -/
def enter (v : LaneEnv) (r b : Nat) (x : LaneW) : LaneW × Elem :=
  let raw := beatCode v.ch.infmt r (v.tile.data.getD b 0)
  let full := (decode v.ch.infmt raw).scale v.tile.shift.toNat
  let lane := toBond full
  let ex := if v.ch.final.isNone then some full else none
  let el : Elem :=
    ⟨b, false, false, raw, lane, lane, .zero, .zero, full, ex, none, none, x.lane.ctx.pivot, 0xFFFFFF, [], 0⟩
  let e := v.index el
  let x := if full.isNan then x.trap e (v.ch.reader 1) (if v.ch.insrc then 2 else 1) else x
  let x := if v.ch.secen && (decode v.ch.secfmt (v.secondRaw r el)).isNan then x.trap e (v.ch.reader 2) 2 else x
  (x, el)

/-- The elements that stand in lane pass `p` at beat `b` go through its stages on lane `r`: those of the beat, and those that
waited for it (R148, R162, R237). -/
def laneOn (v : LaneEnv) (r b p : Nat) (x : LaneW) : LaneW :=
  let here := fun (el : Elem) => decide (el.beat ≤ b) && stPass (v.ch.stage el.stage) == p
  let mine := x.lane.elems.filter here
  let others := x.lane.elems.filter fun el => !here el
  let res := (v.ch.passStages p).foldl (fun (acc : LaneW × List Elem) s => stageAll v r s.1 s.2 acc.1 acc.2) (x, mine)
  let done := res.2.filter fun el => decide (v.ch.stages.length ≤ el.stage)
  let left := res.2.filter fun el => !decide (v.ch.stages.length ≤ el.stage)
  (done.foldl (leave v) res.1).map fun l => { l with elems := others ++ left }

/-- Beat `b` through lane pass `p` on lane `r` (R148, R237). `outside` says that its element is of no segment context. -/
def laneBeat (v : LaneEnv) (r b p : Nat) (outside : Bool) (l : Lane) : LaneW :=
  let x := LaneW.start l
  laneOn v r b p (if p = 0 then
      let a := enter v r b x
      (a.1.map fun l => { l with elems := l.elems ++ [{ a.2 with outside := outside }] })
    else x)

/-- A lane with what another lane holds of its context: the registers, the tag, the leaf's flags and the sums of the SUM stages
(R19, R192). What is of no context, such as a tally, a segment's run or a top-k buffer, stays. -/
def Lane.withCtx (l : Lane) (c : Chain) (k : Lane) : Lane :=
  let own := fun (y : SumSt) => stOp (c.stage y.stage) == opSUM
  { l with
    ctx := k.ctx
    frozen := k.frozen
    tag := k.tag
    leafNan := k.leafNan
    leafInf := k.leafInf
    sums := k.sums.filter own ++ l.sums.filter fun y => !own y }

/-- Is the element the one of beat `b` that waits at stage `idx` for its partner (R162)? -/
def Elem.waitsAt (el : Elem) (idx b : Nat) : Bool := el.stage == idx && el.beat == b

/-- One element of the pair that PAIRROT stage `idx` takes, the first or the second, goes on through the lane passes `ps` of
beat `b`: so that a pair that a segment boundary parts acts on the statistics of both segments (R162, R192). -/
def pairOn (v : LaneEnv) (r idx w b : Nat) (ps : List Nat) (second : Bool) (ea eb : Option Elem) (x : LaneW) : LaneW :=
  match ea, eb with
  | some ea, some eb =>
    let res := stagePairRot v r idx w x ea eb
    let mine := if second then res.2.2 else res.2.1
    let x := { res.1 with traps := res.1.traps.filter fun q => q.1 == v.index mine }
    ps.foldl (fun x p => laneOn v r b p x) (x.map fun l => { l with elems := l.elems ++ [{ mine with stage := idx + 1 }] })
  | _, _ => x

/-- The SUM stages with an open group close it at the beat of index `e`, each at its own element's: at the end of a chunk or of a
segment, where the statistics that the contexts hold change over (R103, R127, R192). A tally is of no context and keeps its
group. -/
def closeRow (v : LaneEnv) (e : Nat) (stages : List (Nat × Nat)) (x : LaneW) : LaneW :=
  stages.foldl (fun x s => if stOp s.2 = opSUM then closeGroup v s.1 s.2 (v.indexAt s.1 e) x else x) x

/-- The SUM and TALLY stages with an open group close it at the beat of index `e`, the end of a tile (R103). -/
def closeAll (v : LaneEnv) (e : Nat) (stages : List (Nat × Nat)) (x : LaneW) : LaneW :=
  stages.foldl (fun x s =>
    if stOp s.2 = opSUM ∨ stOp s.2 = opTALLY then closeGroup v s.1 s.2 (v.indexAt s.1 e) x else x) x

/-- The runs of those stages that are SUM in EXACT mode leave for Mortar (R107). -/
def sendRuns (stages : List (Nat × Nat)) (x : LaneW) : LaneW :=
  stages.foldl (fun x p => if stOp p.2 = opSUM ∧ bit p.2 28 = true then sendRun x p.1 else x) x

end Sys2Proof.Machine
end

