-- ==== Sys2Proof/Machine/Totals.lean ====
section
/-! DEFINITION. Exact totals and Mortar (R108 to R115, R128, R368): adding terms, reading a total under R112, the runs
that wait for a Mortar unit, and which operations, contexts and totals are in flight. -/

namespace Sys2Proof.Machine

/-! ### Exact totals -/

/-- LIMIT of R110. -/
def Total.limit (x : Total) : Bool := decide (2 ^ 40 ≤ x.terms.toNat)

/-- The status word of R110. -/
def Total.status (x : Total) : Nat :=
  x.terms.toNat + 2 ^ 41 * b2n x.limit + 2 ^ 42 * b2n x.ovf + 2 ^ 43 * b2n x.pinf + 2 ^ 44 * b2n x.ninf
    + 2 ^ 45 * b2n x.nan + 2 ^ 46 * b2n x.allNegZ + 2 ^ 48 * x.mode.toNat

/-- A cleared total in a mode: a MAX or MIN total holds the canonical NaN (R111, R114). -/
def Total.cleared (mode : BitVec 2) : Total :=
  { Total.zero with t := if mode = 0 then 0 else 0x7FC00000, mode := mode }

/-- One FP32 term added (R111). -/
def Total.add (x : Total) (w : W32) : Total :=
  let v := ofF32 w
  let x' := { x with terms := satAdd x.terms 1 }
  if x.mode = 0 then
    let negZero := v.isZero && v.sign
    let x' := { x' with allNegZ := negZero && (decide (x.terms = 0) || x.allNegZ) }
    match v with
    | .nan => { x' with nan := true }
    | .inf s => if s then { x' with ninf := true } else { x' with pinf := true }
    | .fin s m e =>
      let sum := x.t.toInt + alignTo s m e (-149)
      { x' with
        t := BitVec.ofInt 320 sum
        ovf := x.ovf || decide (sum < -2 ^ 319) || decide (2 ^ 319 ≤ sum) }
  else
    let cur := ofF32 (x.t.setWidth 32)
    let r := if x.mode = 1 then Num.max cur v else Num.min cur v
    { x' with t := (toF32 r).setWidth 320 }

/-- Several terms added in order. -/
def Total.addAll (x : Total) (ws : List W32) : Total := ws.foldl Total.add x

/-- The value of a total before its rounding (R112); `rdn` says that the reader rounds toward −∞. A total that a data error
has hit reads as NaN in every mode (R338). -/
def Total.value (x : Total) (rdn : Bool) : Num :=
  if x.mode = 0 then
    if x.ovf || x.nan || (x.pinf && x.ninf) then .nan
    else if x.pinf then .inf false
    else if x.ninf then .inf true
    else if x.t = 0 then .fin (x.allNegZ || rdn) 0 0
    else (Num.ofInt x.t.toInt).scale (-149)
  else if x.ovf then .nan
  else ofF32 (x.t.setWidth 32)

/-- A total read into FP32 under RNE (R112). -/
def Total.read (x : Total) : W32 := toF32 (x.value false)

/-! ### Operations in flight (R20, R128, R129, R150) -/

/-- Has a protocol error ended the tile in the lanes (R369)? -/
def Bay.endedTile (b : Bay) (t : Tile) : Bool :=
  t.status == .admitted && (match b.act with
    | some a => a.ended
    | none => false)

/-- Does the tile carry over the registers that the lanes hold (R19, R192, R369)? -/
def Tile.carries (t : Tile) (h : HeldOp) : Bool := h.carry && t.extends h.tile

/-- The tile before `u` in the bay's order, of those that will take the lanes: refused and skipped tiles are passed over
(R19). -/
def Bay.before (b : Bay) (u : Tile) : Option Tile :=
  (b.tiles.filter fun t => decide (b.place t.seq < b.place u.seq) && (match t.status with
    | .refused _ _ => false
    | .skipped => false
    | _ => true)).foldl (fun o t => match o with
    | none => some t
    | some x => if b.place x.seq < b.place t.seq then some t else some x) none

/-- Does an accepted tile begin an operation of its own: neither the tile before it in the bay nor the operation that the
lanes hold goes on with it (R19, R128)? -/
def Bay.begins (b : Bay) (u : Tile) : Bool :=
  match b.before u with
  | some t => !((t.isAccepted || t.status == .admitted) && u.extends t && !b.endedTile t)
  | none => match b.held with
    | some h => !u.carries h
    | none => true

/-- Bond instances of a bay in flight: the operation in the lanes, and each that an accepted tile begins (R128, R150). -/
def Bay.instances (b : Bay) : Nat :=
  (b.tiles.filter fun t => t.isAccepted && b.begins t).length + (if b.held.isSome then 1 else 0)

/-- Would the acceptance of the tile in a slot, with the entry of its chain, add an instance? It adds none where it goes on
with an operation, or where an accepted tile goes on with it (R150). -/
def Bay.adds (b : Bay) (t : Tile) (words : List W64) : Bool :=
  decide (b.instances < (b.mapTile t.slot fun u => { u with status := .accepted, words := words }).instances)

/-- Bond instances in flight in the block (R150). -/
def State.instances (s : State) : Nat := (s.bays.map Bay.instances).sum

/-- An operation of a bay as the conflict table sees it (R129): the courses of 256 contexts that it names. -/
structure OpView where
  courses : List Nat
  chain : BitVec 12
  bgrp : BitVec 8
  overwrite : Bool
  chunks : List Nat

/-- Does the operation name context `c`? -/
def OpView.names (o : OpView) (c : Nat) : Bool := o.courses.any fun b => inCourse b c

/-- The operations of a bay in flight: accepted tiles, and the operation in the lanes with every course that its tiles have
named (R20, R128, R147). -/
def State.bayOps (s : State) (n : Nat) : List OpView :=
  let b := s.bay n
  ((b.tiles.filter Tile.isAccepted).map fun t =>
    ⟨t.courses (chainOf t.words), t.chain, t.bgrp, t.overwrite, t.chunks (s.group t.bgrp.toNat).chunkSize⟩)
  ++ (match b.held with
      | none => []
      | some h => [⟨h.courses, h.chain, h.bgrp, h.overwrite, h.chunks⟩])

/-- Is context `c` in flight (R20, R128, R201)? -/
def State.ctxInFlight (s : State) (c : Nat) : Bool :=
  (List.range 32).any (fun n => (s.bayOps n).any fun o => o.names c)
  || s.groups.any (fun g => g.2.open && g.2.names c)
  || s.runs.any (fun r => r.ctx == some (BitVec.ofNat 18 c))
  || s.stxNamesCtx c

/-! ### Totals in flight (R128, R201, R225) -/

/-- Total ranges (first, count) that a chain's stages add into for a tile: its COL and TALLY stages (R140, R207). -/
def chainTotals (t : Tile) (c : Chain) : List (Nat × Nat) :=
  c.stages.filterMap fun w =>
    if stOp w = opCOL then
      let a := t.arg (stArgi w)
      some (a % 2 ^ 14 + t.e0 - a / 2 ^ 32, t.nbeats)
    else if stOp w = opTALLY then some (4096 + 3 * (t.arg (stArgi w) % 4096) + bits w 25 24, 1)
    else none

/-- Has the chain a summing stage in EXACT mode (R107)? -/
def Chain.exactSum (c : Chain) : Bool := c.stages.any fun w => stOp w == opSUM && bit w 28

/-- The eight words of argument set `n` (R154). -/
def State.argWords (s : State) (m : List Host.Cell) (n : Nat) : List W64 :=
  (List.range 8).map fun i => BitVec.ofNat 64 (memRead m (s.ctl.argsetBase.toNat + 64 * n + 8 * i) 8)

/-- The tile with its argument words: those it has taken, or, before the argument read, those that its set holds in memory
(R128, notes/assumptions/135). -/
def State.withArgs (s : State) (t : Tile) : Tile :=
  if t.argArrived then t else { t with args := s.argWords s.mem t.argset.toNat }

/-- Does total `i` lie in one of some ranges? -/
def inRanges (rs : List (Nat × Nat)) (i : Nat) : Bool := rs.any fun p => decide (p.1 ≤ i) && decide (i < p.1 + p.2)

/-- Does a context of some courses name total `i` in its ETX? -/
def State.coursesName (s : State) (bs : List Nat) (i : Nat) : Bool :=
  bs.any fun b => (List.range 256).any fun r => (s.ctx (b + r)).etx.toNat == i

/-- Does the tile's operation add into total `i`: by a column or tally stage, or by EXACT runs into the total that its
contexts name (R107, R128)? -/
def State.tileAdds (s : State) (t : Tile) (i : Nat) : Bool :=
  let c := chainOf t.words
  inRanges (chainTotals (s.withArgs t) c) i || (c.exactSum && s.coursesName (t.courses c) i)

/-- Does the operation that the lanes hold add into total `i`: until its write-back, also for its tiles that have retired
(R128)? -/
def State.heldAdds (s : State) (h : HeldOp) (i : Nat) : Bool :=
  inRanges h.totals i || ((chainOf h.tile.words).exactSum && s.coursesName h.courses i)

/-- Is exact total `i` in flight (R128), as far as the accepted tiles that `counts` names go? -/
def State.totalInFlightOf (s : State) (counts : Tile → Bool) (i : Nat) : Bool :=
  s.bays.any (fun b => b.tiles.any fun t =>
    (t.isAccepted && counts t || t.status == .admitted) && s.tileAdds t i)
  || s.bays.any (fun b => match b.held with
      | some h => s.heldAdds h i
      | none => false)
  || s.runs.any (fun r => r.total == i)
  || (s.xp.foldArm && decide (s.xp.foldBase.toNat ≤ i)
      && decide (i < s.xp.foldBase.toNat + s.xp.foldCount.toNat))
  || s.stxNamesTotal i

/-- Is exact total `i` in flight (R128)? -/
def State.totalInFlight (s : State) (i : Nat) : Bool := s.totalInFlightOf (fun _ => true) i

/-! ### Mortar (R107, R108) -/

/-- The source of runs that comes from XP (R108). -/
def xpSource : Nat := 32

/-- Sources in the order that a unit serves next after `last`: the bays in rotating order, then XP. -/
def serveOrder (last : Nat) : List Nat := (List.range 32).map (fun k => (last + 1 + k) % 32) ++ [xpSource]

/-- The unit that serves exact total `i`: unit i mod 16, or the first unit upward from it that is not retired (R108,
R331). -/
def State.mortarUnit (s : State) (i : Nat) : Nat :=
  (((List.range 16).map fun k => (i + k) % 16).find? fun u => !bit s.spare.mortar.toNat u).getD 16

/-- The first run of unit `u` from the first source that has one, with the rest. -/
def pickRun (unitOf : Nat → Nat) (u : Nat) (runs : List MRun) : List Nat → Option (MRun × List MRun)
  | [] => none
  | src :: t =>
    match runs.findIdx? fun r => unitOf r.total == u && r.source == src with
    | some i => (runs[i]?).map fun r => (r, runs.eraseIdx i)
    | none => pickRun unitOf u runs t

/-- A Mortar unit takes one waiting run or term and adds it into its total (R108, R111). No run: no event. -/
def execMortarRunAdd (u : Fin 16) (s : State) : Host.Outcome State Fault Refusal :=
  match pickRun s.mortarUnit u.val s.runs (serveOrder (s.served.getD u.val 31)) with
  | none => .next s
  | some (r, rest) =>
    let s := { s with
      runs := rest
      served := if r.source < 32 then s.served.set u.val r.source else s.served }
    .next (s.setTotal r.total ((s.total r.total).addAll r.terms))

end Sys2Proof.Machine
end

