-- ==== Sys2Proof/Machine/Bond.lean ====
section
/-! DEFINITION. The bond tree, its store and its spill region (R132 to R139, R186, R193, R222 to R224), the memory write
queues (R28, R244), frames leaving on XP (R209, R210), and the merge of top-k records (R143, R144). -/

namespace Sys2Proof.Machine

/-! ### Writes to memory and frames on XP -/

/-- Put a write in the queue of port `p`. -/
def State.queueWrite (s : State) (p : Nat) (w : MemWrite) : State :=
  { s with mpq := s.mpq.modify p (· ++ [w]) }

/-- The port that takes a request whose home is `home`: the first in rotating order whose queue has room, if any has
(R28, R29). -/
def State.portFor (s : State) (home : Nat) : Option Nat :=
  ((List.range 4).map fun k => (home + k) % 4).find? fun p => decide ((s.mpq.getD p []).length < 64)

/-- A write enters the memory switch, or waits with its agent while every queue is full (R28). -/
def State.switchWrite (s : State) (home : Nat) (w : MemWrite) : State :=
  match s.portFor (home % 4) with
  | some p => s.queueWrite p w
  | none => { s with mpWait := s.mpWait ++ [(home % 4, w)] }

/-- A write of an agent (R28); one with no bytes is none. -/
def State.memWrite (s : State) (home : Nat) (w : MemWrite) : State :=
  if w.cells.isEmpty then s else s.switchWrite home w

/-- The writes that wait with their agents enter the queues as far as these have room, the oldest first (R28). -/
def State.admitWrites (s : State) : State :=
  s.mpWait.foldl (fun (s : State) x => s.switchWrite x.1 x.2) { s with mpWait := [] }

/-- Writes that stand before the memory fabric: in the queues, or with their agents. -/
def State.writes (s : State) : List MemWrite := s.mpq.flatten ++ s.mpWait.map Prod.snd

/-- The state without the waiting writes that `drop` names. -/
def State.dropWrites (s : State) (drop : MemWrite → Bool) : State :=
  State.admitWrites { s with
    mpq := s.mpq.map fun q => q.filter fun w => !drop w
    mpWait := s.mpWait.filter fun x => !drop x.2 }

/-- The waiting writes of `who` reach memory as far as `land` says, by their place among them, and none waits any more. -/
def State.landWrites (s : State) (who : Writer) (land : Nat → Bool) : State :=
  let ws := s.writes.filter fun w => w.writer == who
  { s.dropWrites (fun w => w.writer == who) with
    mem := (ws.zipIdx.filter fun p => land p.2).foldl (fun m p => memSetMasked m p.1.cells) s.mem }

/-- Records of some tiles of bay `n`, which a loss of the tiles discards (R325, R341). -/
def MemWrite.recordOf (w : MemWrite) (n : Nat) (seqs : List W32) : Bool :=
  match w.writer with
  | .record m q => m == n && seqs.contains q
  | _ => false

/-- The list, segment and leaf-pivot records that some unretired tiles of bay `n` have left are discarded (R325, R341). -/
def State.dropRecords (s : State) (n : Nat) (seqs : List W32) : State :=
  { s.dropWrites (fun w => w.recordOf n seqs) with
    topks := s.topks.filter fun r => !(r.bay == n && seqs.contains r.seq) }

/-- The header beat of a frame (R209). -/
def XpFrame.header (f : XpFrame) : BitVec 512 :=
  let r := f.reserved.toNat
  BitVec.ofNat 512 (f.kind.toNat + 2 ^ 4 * (r % 2 ^ 4) + 2 ^ 8 * f.len.toNat + 2 ^ 32 * f.shard.toNat
    + 2 ^ 52 * (r / 2 ^ 4 % 2 ^ 12) + 2 ^ 64 * f.roundId.toNat + 2 ^ 96 * f.addr.toNat + 2 ^ 160 * f.wcount.toNat
    + 2 ^ 173 * (r / 2 ^ 16))

/-- The frame whose header beat is `w`, with its payload words (R209). -/
def XpFrame.ofHeader (w : BitVec 512) (words : List W32) : XpFrame :=
  let h := w.toNat
  { kind := BitVec.ofNat 4 (bits h 3 0)
    len := BitVec.ofNat 24 (bits h 31 8)
    shard := BitVec.ofNat 20 (bits h 51 32)
    roundId := BitVec.ofNat 32 (bits h 95 64)
    addr := BitVec.ofNat 64 (bits h 159 96)
    wcount := BitVec.ofNat 13 (bits h 172 160)
    reserved := BitVec.ofNat 355 (bits h 7 4 + 2 ^ 4 * bits h 63 52 + 2 ^ 16 * bits h 511 173)
    words := words }

/-- A frame leaves on XP (R209). -/
def State.sendFrame (s : State) (f : XpFrame) : State := { s with xp := { s.xp with out := s.xp.out ++ [f] } }

/-! ### Groups -/

/-- Course of context `c` in a group (R132). -/
def Bgrp.course (g : Bgrp) (c : Nat) : Nat := (c - g.base.toNat) / 256

/-- First chunk and chunk count of the tree of context `c`: the group's range, or under SEGCTX the span that the
segment touches (R134, R193). -/
def Bgrp.span (g : Bgrp) (c : Nat) : Nat × Nat :=
  match g.spans.find? fun p => p.1 == g.course c with
  | some p => p.2
  | none => (g.c0.toNat, g.n.toNat)

/-- Entries that arming a group reserves (R139). -/
def reservation (courses n : Nat) : Nat := 256 * courses * cdiv n 2 + cdiv (courses * n) 128

/-- Entries reserved by the groups armed and not DONE (R139). -/
def State.reserved (s : State) : Nat :=
  (s.groups.map fun p => if p.2.open then reservation p.2.courses.toNat p.2.n.toNat else 0).sum

/-- The marks of a tile in the acceptance bitmap, as (course, chunk) pairs (R133). -/
def Bgrp.addMarks (g : Bgrp) (course : Nat) (chunks : List Nat) : Bgrp :=
  { g with marks := g.marks ++ chunks.map fun q => (course, q) }

def Bgrp.dropMarks (g : Bgrp) (course : Nat) (chunks : List Nat) : Bgrp :=
  { g with marks := g.marks.filter fun m => !(m.1 == course && chunks.contains m.2) }

/-- Is chunk `q` of a row marked by a LEAF entry for that row (R224)? -/
def Bgrp.leafMarked (g : Bgrp) (row q : Nat) : Bool :=
  g.leaves.any fun x => x.1 == row && decide (x.2.1 ≤ q) && decide (q < x.2.1 + x.2.2)

/-- Is the (course, chunk) pair marked, by a tile or by a LEAF entry for some row of the course (R133, R224)? -/
def Bgrp.marked (g : Bgrp) (course q : Nat) : Bool :=
  g.marks.contains (course, q)
    || g.leaves.any fun x => x.1 / 256 == course && decide (x.2.1 ≤ q) && decide (q < x.2.1 + x.2.2)

/-! ### The tree (R134 to R137) -/

/-- The merge of two nodes' pivots and sums (R135). A NaN leaves it as the canonical one (R45). -/
def mergeNode (k1 : BitVec 24) (s1 : W32) (k2 : BitVec 24) (s2 : W32) : BitVec 24 × W32 :=
  if k1 = KNONE then (k2, canonF32 s2)
  else if k2 = KNONE then (k1, canonF32 s1)
  else
    let k := Max.max k1.toInt k2.toInt
    let t1 := ofF32 (rescale s1 (k1.toInt - k))
    let t2 := ofF32 (rescale s2 (k2.toInt - k))
    (BitVec.ofInt 24 k, toF32 (Num.add false t1 t2))

/-- A node as a bond-store entry's 128 bits (R137). -/
def BondEntry.word (e : BondEntry) : Nat :=
  e.ctx.toNat + 2 ^ 18 * e.node.toNat + 2 ^ 42 * e.level.toNat + 2 ^ 48 * e.bgrp.toNat + 2 ^ 64 * e.pivot.toNat
    + 2 ^ 88 * b2n e.nanSeen + 2 ^ 89 * b2n e.infSeen + 2 ^ 96 * e.psum.toNat

/-- The entry that 128 bits hold (R137). -/
def BondEntry.ofWord (w : Nat) : BondEntry :=
  ⟨BitVec.ofNat 18 w, BitVec.ofNat 24 (bits w 41 18), BitVec.ofNat 5 (bits w 46 42), BitVec.ofNat 8 (bits w 55 48),
    BitVec.ofNat 24 (bits w 87 64), bit w 88, bit w 89, BitVec.ofNat 32 (bits w 127 96)⟩

/-- A LEAF frame of one entry: three padding entries fill its beat (R210, notes/assumptions/8). -/
def leafFrame (shard : BitVec 20) (e : BondEntry) : XpFrame :=
  { kind := 2, len := 1, shard := shard, roundId := 0, addr := 0, wcount := 0, reserved := 0
    words := (List.range 16).map fun i => BitVec.ofNat 32 (e.word >>> (32 * i)) }

/-- A row's root merges into its context, ROOTS_LEFT falls, and at 0 the group is DONE; a SEND group also sends its
root as a node of the owner's tree (R136, R223). -/
def State.mergeRoot (s : State) (e : BondEntry) : State :=
  let g := s.group e.bgrp.toNat
  let c := s.ctx e.ctx.toNat
  let m := mergeNode c.pivot c.psum e.pivot e.psum
  let left := g.rootsLeft - 1
  let s := s.setCtx e.ctx.toNat { c with
    pivot := m.1, psum := m.2, nanSeen := c.nanSeen || e.nanSeen, infSeen := c.infSeen || e.infSeen }
  let s := s.setGroup e.bgrp.toNat { g with rootsLeft := left, done := g.done || decide (left = 0) }
  if g.send then
    let l := clog2 g.n.toNat
    s.sendFrame (leafFrame s.xp.shard { e with
      ctx := BitVec.ofNat 18 (e.ctx.toNat - g.base.toNat)
      level := BitVec.ofNat 5 l
      node := BitVec.ofNat 24 ((g.c0.toNat - g.ownerC0.toNat) / 2 ^ l) })
  else s

/-- The level and index that a node takes once every right sibling that covers no chunk is passed over (R134). -/
def promote (n : Nat) : Nat → Nat → Nat → Nat × Nat
  | 0, l, j => (l, j)
  | fuel + 1, l, j =>
    if l < clog2 n ∧ j % 2 = 0 ∧ n ≤ (j + 1) * 2 ^ l then promote n fuel (l + 1) (j / 2) else (l, j)

/-- Entries of the on-chip store (R24). -/
def storeSize : Nat := 131072

/-- Nodes that wait for room enter the store as far as it has room, the oldest first (R138). -/
def State.letIn (s : State) : State :=
  { s with
    store := s.store ++ s.formed.take (storeSize - s.store.length)
    formed := s.formed.drop (storeSize - s.store.length) }

/-- A node is formed: the root merges into the context, any other waits for its sibling in the store, or, while the store is
full, for the spill that makes room for it (R134, R136, R138, notes/assumptions/28). -/
def State.addNode (s : State) (e : BondEntry) : State :=
  let n := ((s.group e.bgrp.toNat).span e.ctx.toNat).2
  let p := promote n 25 e.level.toNat e.node.toNat
  let e := { e with level := BitVec.ofNat 5 p.1, node := BitVec.ofNat 24 p.2 }
  if p.1 = clog2 n then s.mergeRoot e
  else if s.store.length < storeSize then { s with store := s.store ++ [e] }
  else { s with formed := s.formed ++ [e] }

/-- The leaf of chunk `q` for context `c` of group `g` (R127, R134). -/
def State.addLeaf (s : State) (g c q : Nat) (pivot : BitVec 24) (psum : W32) (nan inf : Bool) : State :=
  let c0 := ((s.group g).span c).1
  s.addNode ⟨BitVec.ofNat 18 c, BitVec.ofNat 24 (q - c0), 0, BitVec.ofNat 8 g, pivot, nan, inf, psum⟩

/-- Is this the store entry of a node of group `g`'s trees? -/
def BondEntry.isNode (e : BondEntry) (g : BitVec 8) (c : BitVec 18) (l j : Nat) : Bool :=
  e.bgrp == g && e.ctx == c && e.level.toNat == l && e.node.toNat == j

/-- Is the block in a drain, where no memory request and no frame proceeds (R323), or past Run on its way into Stop, where
what needed Mortar or the cores has ended (R313, R315)? -/
def Phase.draining : Phase → Bool
  | .drain _ => true
  | .entering _ => true
  | .saved => true
  | _ => false

/-- BOND_TREE_MERGE: with both children of node (level, node) in the store, the node is formed (R134, R135). -/
def execBondTreeMerge (g : BitVec 8) (ctx : BitVec 18) (level : BitVec 5) (node : BitVec 24) (s : State) :
    Host.Outcome State Fault Refusal :=
  if level = 0 ∨ s.pwr.phase.draining = true then .next s
  else
    let l := level.toNat - 1
    match s.store.find? fun e => e.isNode g ctx l (2 * node.toNat),
          s.store.find? fun e => e.isNode g ctx l (2 * node.toNat + 1) with
    | some a, some b =>
      let m := mergeNode a.pivot a.psum b.pivot b.psum
      let rest := s.store.filter fun e => !(e.isNode g ctx l (2 * node.toNat) || e.isNode g ctx l (2 * node.toNat + 1))
      let s := State.letIn { s with store := rest }
      .next (s.addNode ⟨ctx, node, level, g, m.1, a.nanSeen || b.nanSeen, a.infSeen || b.infSeen, m.2⟩)
    | _, _ => .next s

/-- BOND_STORE_SPILL: with the store full, a waiting node is written to slot `slot` of the spill region in the format
of R137; the write goes to the port of its chunk index modulo 4 (R28, R138). A node that covers several chunks has the
index of the first of them (notes/assumptions/125). -/
def execBondStoreSpill (row : TreeRow) (level : BitVec 5) (node : BitVec 24) (slot : W32) (s : State) :
    Host.Outcome State Fault Refusal :=
  match s.store.find? fun e => e.isNode row.bgrp row.ctx level.toNat node.toNat with
  | none => .next s
  | some e =>
    if s.coresRun = false ∨ s.pwr.phase.draining = true ∨ s.store.length < storeSize
        ∨ s.spilled.any (fun x => x.slot == slot) = true ∨ s.ctl.spillSize.toNat ≤ slot.toNat then
      .next s
    else
      let s := State.letIn { s with
        store := s.store.filter (fun x => !x.isNode row.bgrp row.ctx level.toNat node.toNat)
        spilled := s.spilled ++ [Spilled.mk e slot false false] }
      let first := ((s.group e.bgrp.toNat).span row.ctx.toNat).1 + node.toNat * 2 ^ level.toNat
      .next (s.memWrite first ⟨.spill slot, leCells (s.ctl.spillBase.toNat + 16 * slot.toNat) e.word 16⟩)

/-- SPILL_RETURN: a spilled node whose write is acknowledged and whose read has returned comes back once its sibling
has arrived and the store has room for it (R138, R244). -/
def execSpillReturn (row : TreeRow) (level : BitVec 5) (node : BitVec 24) (s : State) : Host.Outcome State Fault Refusal :=
  let sib := if node.toNat % 2 = 0 then node.toNat + 1 else node.toNat - 1
  match s.spilled.find? fun x => x.entry.isNode row.bgrp row.ctx level.toNat node.toNat with
  | none => .next s
  | some x =>
    if s.coresRun && !s.pwr.phase.draining && decide (s.store.length < storeSize) && x.acked && x.arrived
        && (s.store.any (fun e => e.isNode row.bgrp row.ctx level.toNat sib)
          || s.formed.any (fun e => e.isNode row.bgrp row.ctx level.toNat sib)
          || s.spilled.any (fun y => y.entry.isNode row.bgrp row.ctx level.toNat sib)) then
      .next { s with
        spilled := s.spilled.filter (fun y => !y.entry.isNode row.bgrp row.ctx level.toNat node.toNat)
        store := s.store ++ [x.entry] }
    else .next s

/-! ### Top-k records (R143, R144) -/

/-- A list record as bytes from address `a` (R143). -/
def topkRecord (a ctx chain k : Nat) (cands : List (W32 × W32)) : List (Nat × Byte × Byte) :=
  let c := cands.take k
  leCells a (ctx % 2 ^ 18 + k * 2 ^ 18 + c.length * 2 ^ 25 + chain * 2 ^ 32) 8
    ++ ((List.range k).map fun e =>
      let p := c.getD e (0x7FC00000, 0xFFFFFFFF)
      leCells (a + 8 + 8 * e) (p.1.toNat + 2 ^ 32 * p.2.toNat) 8).flatten

/-- Is a tile of the group that covers the row a bond instance that has yet to retire (R144, R150)? -/
def State.rowTiles (s : State) (g ctx : Nat) : Bool :=
  s.bays.any fun b => b.tiles.any fun t => (t.isAccepted || t.status == .admitted) && t.bgrp.toNat == g
    && (t.courses (chainOf t.words)).any fun x => inCourse x ctx

/-- Has the group's last tile that covers the row retired (R144)? The row's tiles cover the group's whole range, under SEGCTX
too, where each segment's tree spans a part of it (R133, R193). Its context may still stand in the lanes. -/
def State.rowComplete (s : State) (g ctx : Nat) : Bool :=
  let gr := s.group g
  !s.rowTiles g ctx
    && (gr.done || (List.range gr.n.toNat).all fun q => gr.marked (gr.course ctx) (gr.c0.toNat + q))

/-- Does a waiting write set a byte that `cells` names? -/
def State.writing (s : State) (cells : List (Nat × Byte × Byte)) : Bool :=
  s.writes.any fun w => w.cells.any fun x => cells.any fun y => y.1 == x.1

/-- The list records of a row that merge next: those of the earliest arming of its group, each of which is a row of its own
(R132, R144). -/
def State.rowRecords (s : State) (g : BitVec 8) (ctx : BitVec 18) : List TopkRec :=
  let recs := s.topks.filter fun r => r.bgrp == g && r.ctx == ctx
  recs.filter fun r => recs.all fun x => decide (x.past ≤ r.past)

/-- TOPK_MERGE: the cores merge the list records of a bonded row's operations and write the merged record in place of
the partial ones, once the group's last tile that covers the row has retired and no write to the records waits (R144,
R244). A candidate that stands in several records of one operation counts once. The records are those of this chip's
bays (notes/assumptions/148). Its K and CHAIN are those of the oldest record that waits, where the row's operations ran different
chains (notes/assumptions/167). -/
def execTopkMerge (g : BitVec 8) (ctx : BitVec 18) (s : State) : Host.Outcome State Fault Refusal :=
  let recs := s.rowRecords g ctx
  match recs with
  | [] => .next s
  | r :: _ =>
    if s.coresRun && !s.pwr.phase.draining && (decide (r.past ≠ 0) || s.rowComplete g.toNat ctx.toNat) then
      let all := ((recs.map TopkRec.cands).flatten).dedup
      let merged := all.foldl (fun acc c => topkInsert c acc) []
      let cells := (((recs.map TopkRec.addr).dedup).map fun a =>
        topkRecord a ctx.toNat r.chain.toNat r.k merged).flatten
      if s.writing cells then .next s
      else .next ({ s with topks := s.topks.filter fun x => !(x.bgrp == g && x.ctx == ctx && x.past == r.past) }.memWrite 0
        ⟨.core, cells⟩)
    else .next s

end Sys2Proof.Machine
end

