-- ==== Sys2Proof/Machine/Issue.lean ====
section
/-! DEFINITION. The passage of a tile through its bay: loading and writing back the lanes (R19, R127, R192), an issue
group in a lane pass (R17, R237), the output on SO, to memory and on XP (R162, R213, R243), chunk ends (R127, R164),
the end of a tile, and the NaN trap (R67 to R72). -/

namespace Sys2Proof.Machine

/-! ### The NaN trap -/

/-- Is condition a of R70 before condition b: element, row, stage? A condition is (element, row, stage, cause). -/
def trapBefore (a b : Nat × Nat × Nat × Nat) : Bool :=
  decide (a.1 < b.1) || (a.1 == b.1 && (decide (a.2.1 < b.2.1) || (a.2.1 == b.2.1 && decide (a.2.2.1 < b.2.2.1))))

/-- The first of some conditions in the order of R70. -/
def firstTrap : List (Nat × Nat × Nat × Nat) → Option (Nat × Nat × Nat × Nat)
  | [] => none
  | a :: t =>
    match firstTrap t with
    | none => some a
    | some b => if trapBefore b a then some b else some a

/-- The trap conditions of one issue group: each counts, and the first is recorded while VALID is 0 (R70). -/
def State.nanTraps (s : State) (n : Nat) (t : Tile) (ctxOf : Nat → Nat) (cs : List (Nat × Nat × Nat × Nat)) : State :=
  match firstTrap cs with
  | none => s
  | some c =>
    let x := { s.nan with count := satAdd s.nan.count cs.length }
    { s with nan :=
      if x.valid then x
      else { x with
        valid := true, xp := false, bay := BitVec.ofNat 5 n, chain := t.chain, stage := BitVec.ofNat 4 c.2.2.1
        cause := BitVec.ofNat 3 c.2.2.2, row := BitVec.ofNat 8 c.2.1, context := BitVec.ofNat 18 (ctxOf c.2.1)
        element := BitVec.ofNat 32 c.1, tileSeq := t.seq } }

/-! ### Contexts and lanes -/

/-- The initial state of a row context; ETX and ETV keep their values (R121). -/
def RowCtx.initial (c : RowCtx) : RowCtx :=
  ⟨KNONE, false, false, 0, 0, 0, 0x7FC00000, 0x7FC00000, 0, c.etx, c.etv, 0⟩

/-- The context of lane `r` of a held operation (R19, R147). -/
def HeldOp.ctxOf (h : HeldOp) (r : Nat) : Nat :=
  match h.segCtx with
  | some (q, sg) => q + 256 * sg + r
  | none => h.ctxBase.toNat + r

/-- What a lane starts from, by the tile's operation (R127). -/
def startCtx (t : Tile) (stored : RowCtx) : RowCtx :=
  if t.overwrite || t.bgrp != 0 then stored.initial else stored

/-- The accumulators of the chain's stages of an opcode at a pivot (R118). -/
def freshSums (c : Chain) (op : Nat) (k : BitVec 24) : List SumSt := (c.ofOp op).map fun p => ⟨p.1, [], k, k, []⟩

/-- A lane loaded with context `id` at admission; a NORM with XSRC ≠ 0 reads its total then (R163, R368). -/
def State.mkLane (s : State) (c : Chain) (t : Tile) (id : Nat) (stored : RowCtx) : Lane :=
  let x := startCtx t stored
  { ctx := x, frozen := stored, tag := s.ctag id
    etRead := if c.stages.any (fun w => stOp w == opNORM && bits w 28 27 != 0) then (s.total stored.etx.toNat).read
      else 0
    leafNan := false, leafInf := false, sums := freshSums c opSUM x.pivot, segs := [], topk := [], elems := [], block := []
    xpWords := [], invSeen := false }

/-- A context written back by an operation: as it stands, or merged into the stored one for a bonded operation
(R127). -/
def mergeBack (bonded : Bool) (stored mine : RowCtx) : RowCtx :=
  if bonded then { stored with
    maxv := toF32 (Num.max (ofF32 stored.maxv) (ofF32 mine.maxv))
    minv := toF32 (Num.min (ofF32 stored.minv) (ofF32 mine.minv))
    count := satAdd stored.count mine.count.toNat
    blockloss := satAdd stored.blockloss mine.blockloss.toNat
    nanSeen := stored.nanSeen || mine.nanSeen
    infSeen := stored.infSeen || mine.infSeen }
  else mine

/-- The lanes' contexts go back to the Scaffold (R19). -/
def State.writeLanes (s : State) (h : HeldOp) : Nat → List Lane → State
  | _, [] => s
  | r, l :: t =>
    let c := h.ctxOf r
    (s.setCtx c (mergeBack (h.bgrp != 0) (s.ctx c) l.ctx)).writeLanes h (r + 1) t

/-- The lanes with the contexts of segment `sg` in place of those they hold (R192). `enters` says that the tile has not yet
been in the segment, which then starts as its operation says (R127); a later lane pass of an ONETILE tile finds it as
the pass before left it (R172). The tag that stochastic rounding draws with is the segment context's own
(notes/assumptions/153). -/
def State.segLanes (s : State) (t : Tile) (c : Chain) (enters : Bool) (q sg : Nat) (lanes : List Lane) : List Lane :=
  lanes.mapIdx fun r l =>
    let id := q + 256 * sg + r
    let x := if enters then startCtx t (s.ctx id) else s.ctx id
    l.withCtx c { l with
      ctx := x
      frozen := s.ctx id
      tag := s.ctag id
      sums := freshSums c opSUM x.pivot
      leafNan := false
      leafInf := false }

/-- The contexts in the lanes go back, and those of segment `sg` come in (R192), with the tag that stochastic rounding draws with
(notes/assumptions/153). -/
def State.swapSegment (s : State) (n : Nat) (t : Tile) (c : Chain) (h : HeldOp) (enters : Bool) (q sg : Nat) : State :=
  let s := if h.segCtx.isSome then s.writeLanes h 0 (s.bay n).lanes else s
  s.mapBay n fun b => { b with
    held := some { h with segCtx := some (q, sg) }
    lanes := s.segLanes t c enters q sg b.lanes }

/-! ### Output (R39, R59, R155, R162, R213, R242, R243) -/

/-- Head of a token: SEQ and SEGIX (R242). -/
def tokenHead (seq : W32) (segix : Nat) : Nat := seq.toNat + segix % 2 ^ 24 * 2 ^ 32

def soItem (kind : BitVec 3) (v : Nat) : SoItem := ⟨kind, BitVec.ofNat 8192 v⟩

/-- OPEN (R242). -/
def tokenOpen (t : Tile) (c : Chain) : SoItem :=
  soItem 1 (tokenHead t.seq 0 + t.chain.toNat * 2 ^ 64 + t.elem0.toNat * 2 ^ 76
    + c.outBeats t.nbeats % 2 ^ 14 * 2 ^ 108 + c.outFmt % 16 * 2 ^ 122 + b2n t.eor * 2 ^ 126)

/-- A list of values in fields of `w` bits from bit 64. -/
def tokenFields (w : Nat) (vs : List Nat) : Nat :=
  (vs.foldl (fun (acc : Nat × Nat) v => (acc.1 + (v % 2 ^ w) <<< (64 + w * acc.2), acc.2 + 1)) (0, 0)).1

/-- RESCALE, SCALES, SKIP, REPLAY and ERROR (R242). -/
def tokenRescale (seq : W32) (segix : Nat) (ds : List Nat) : SoItem :=
  soItem 2 (tokenHead seq segix + tokenFields 24 ds)
def tokenScales (seq : W32) (cs : List Nat) : SoItem := soItem 3 (tokenHead seq 0 + tokenFields 8 cs)
def tokenSkip (seq : W32) (first len : Nat) : SoItem :=
  soItem 4 (tokenHead seq 0 + first % 2 ^ 32 * 2 ^ 64 + len % 2 ^ 40 * 2 ^ 96)
def tokenReplay (seq : W32) (shift : Nat) : SoItem :=
  soItem 5 (tokenHead seq 0 + shift % 4 * 2 ^ 64 + b2n (decide (shift = 3)) * 2 ^ 66)
def tokenError (seq : W32) (cause chain : Nat) : SoItem :=
  soItem 6 (tokenHead seq 0 + cause % 256 * 2 ^ 64 + chain % 4096 * 2 ^ 72)

/-- What is to leave on SO: the egress queue, and what stands behind it. -/
def Bay.egress (b : Bay) : List SoItem := b.soq ++ b.stalled

/-- A bay that is to send `xs` on SO: the oldest 32 stand in the egress queue (R29, R241). -/
def Bay.sends (b : Bay) (xs : List SoItem) : Bay :=
  { b with
    soq := xs.take 32
    stalled := xs.drop 32 }

/-- Transfers enter the egress queue of SO n, or stall behind it while it is full (R29, R162). -/
def State.pushSo (s : State) (n : Nat) (xs : List SoItem) : State := s.mapBay n fun b => b.sends (b.egress ++ xs)

/-- Does an address lie in an aperture (R213)? -/
def inAperture (w : W64) (a : Nat) : Bool :=
  let base := bits w.toNat 47 0
  decide (base ≤ a) && decide (a < base + bits w.toNat 63 48 * 65536)

/-- The aperture that an output row goes to, with its offset there, by the address of its first word (R213,
notes/assumptions/140). -/
def State.aperture (s : State) (a : Nat) : Option (Bool × Nat) :=
  if inAperture s.xp.aper0 a then some (false, a - bits s.xp.aper0.toNat 47 0)
  else if inAperture s.xp.aper1 a then some (true, a - bits s.xp.aper1.toNat 47 0)
  else none

/-- The cells of the tile's MASK stage with SKIPTOK (R183): its address, range and anchor. -/
def State.skipCells (s : State) (t : Tile) (c : Chain) : Option (Nat × Cells) :=
  c.skiptok.map fun w =>
    let addr := argAddr (t.arg (stArgi w))
    let d := readDesc t.view addr
    let g := s.group t.bgrp.toNat
    let range := if t.bgrp = 0 then (0, d.ncell) else (g.c0.toNat, g.c0.toNat + g.n.toNat)
    (addr, cellsOf t.view addr range.1 range.2)

/-- The skip runs that the tile owns: (first element, elements, comes before its beats) (R185). -/
def State.ownedRuns (s : State) (t : Tile) (c : Chain) : List (Nat × Nat × Bool) :=
  match s.skipCells t c with
  | none => []
  | some (addr, x) =>
    let b := (readDesc t.view addr).cell
    let first := t.e0 / b
    let last := (t.e0 + t.nbeats - 1) / b
    let pre := x.before first last
    let post := x.after t.view addr last
    (if pre.2 = 0 then [] else [(pre.1 * b, pre.2 * b, true)])
      ++ (if post.2 = 0 then [] else [(post.1 * b, post.2 * b, false)])

/-- The RESCALE tokens of an output beat from the rows' rises by segment: one for each segment that some row's rise names, in the
order of the segments, each row's rises in it added up (R117, R192, R242, notes/assumptions/59). SEGIX is 0 but under SEGCTX. -/
def rescaleTokens (seq : W32) (rises : List (List (Nat × Nat))) : List SoItem :=
  ((rises.flatten.map Prod.fst).dedup.mergeSort).map fun sg =>
    tokenRescale seq sg (rises.map fun ds => ((ds.filter fun d => d.1 == sg).map Prod.snd).sum)

/-- One output beat `j` of the tile: tokens and beat on SO, bytes to memory, words for an aperture. `outs` holds the
lanes' (output index, code, rise); `scales` their block codes. -/
def State.emitBeat (s : State) (n : Nat) (t : Tile) (c : Chain) (outs : List (List (Nat × Nat × List (Nat × Nat))))
    (scales : List (List (Nat × Nat))) (j : Nat) : State :=
  let pick := outs.map fun os => (os.find? fun o => o.1 == j).map Prod.snd
  let codes := pick.map fun o => (o.getD (0, [])).1
  let rises := pick.map fun o => (o.getD (0, [])).2
  let sc := scales.map fun ss => (ss.find? fun p => p.1 == j).map Prod.snd
  let f := c.outFmt
  let s :=
    if c.toSo then
      s.pushSo n (
        (if j = 0 then ((s.ownedRuns t c).filter fun x => x.2.2).map fun x => tokenSkip t.seq x.1 x.2.1 else [])
        ++ (if sc.any Option.isSome then [tokenScales t.seq (sc.map fun o => o.getD 0)] else [])
        ++ rescaleTokens t.seq rises
        ++ [⟨0, packBeat f codes⟩])
    else s
  let s := s.mapBay n fun b => { b with act := b.act.map fun a => { a with outBeats := a.outBeats + 1 } }
  if c.toMem then
    let lay := t.arg c.outarg
    let rows := codes.zipIdx
    let cells := (rows.map fun p =>
      if (s.aperture (argRow lay p.2)).isSome then [] else bitCells (argRow lay p.2) (fmtWidth f * j) (fmtWidth f) p.1).flatten
    let codeCells := match c.outStage with
      | some w =>
        if stScale w = 1 then (sc.zipIdx.map fun p => match p.1 with
          | some code => leCells (argAddr (t.arg (bits w 30 28)) + p.2 + 256 * ((t.e0 + j) / 32)) code 1
          | none => []).flatten
        else []
      | none => []
    let s := s.mapBay n fun b => { b with lanes := b.lanes.mapIdx fun r l =>
      if (s.aperture (argRow lay r)).isSome then { l with xpWords := l.xpWords ++ [BitVec.ofNat 32 (codes.getD r 0)] }
      else l }
    s.memWrite (n / 8) ⟨.tile n t.seq, cells ++ codeCells⟩
  else s

/-- The output beats that a lane's work has completed leave in order. -/
def State.emitAll (s : State) (n : Nat) (t : Tile) (c : Chain) (ws : List LaneW) : State :=
  if c.emits then
    let js := match ws with
      | [] => []
      | w :: _ => w.outs.map Prod.fst
    js.foldl (fun s j => s.emitBeat n t c (ws.map LaneW.outs) (ws.map LaneW.scales) j) s
  else s

/-! ### A beat in a lane pass -/

/-- The shared part of the lanes for the tile in them (R51, R95). -/
def State.laneEnv (s : State) (n : Nat) (t : Tile) (a : Active) : LaneEnv :=
  let c := chainOf t.words
  { ch := c, tile := t, tables := (s.wingImage (westBay n)).tables, seed := a.seed, step := a.step, mem := s.mem
    masks := (c.ofOp opMASK).map fun p => (p.1, maskView t.view (argAddr (t.arg (stArgi p.2))) t.e0 t.nbeats) }

/-- The term of a COL stage for a beat, unless no lane is present (R140). -/
def colTerm (kind : Nat) (vs : List Num) : W32 :=
  match kind with
  | 0 => toF32 (sumNums vs)
  | 1 => toF32 (sumNums (vs.map fun v => v.mul v))
  | 2 => toF32 (vs.foldl Num.max .nan)
  | _ => toF32 (vs.foldl Num.min .nan)

/-- The column operands that the lanes give in a beat: for each COL stage and element index, the values of the present
lanes in row order; no entry where no lane is present (R140). -/
def columnsOf (c : Chain) (ws : List LaneW) : List ((Nat × Nat) × Nat × List Num) :=
  ((c.ofOp opCOL).map fun p =>
    let all := (ws.map fun w => (w.cols.filter fun x => x.1 == p.1).map Prod.snd).flatten
    ((all.map Prod.fst).dedup).map fun e => (p, e, (all.filter fun x => x.1 == e).map Prod.snd)).flatten

/-! ### Shadow samples (R18, R74, R336) -/

/-- The lane passes that the issue of a group takes in pass `p`: that one, or all of them at the last where beats take them one
after another (R192, R237, notes/assumptions/9). -/
def Chain.issued (c : Chain) (p : Nat) : List Nat :=
  if c.segctx.isSome && !c.oneTile then (if p + 1 < c.passes then [] else List.range c.passes) else [p]

/-- The value stages of a chain, whose operands the lanes latch (R165, R336). -/
def Chain.valueStages (c : Chain) : List Nat := (c.indexed.filter fun x => isValueStage x.2).map Prod.fst

/-- The entry of a rising list after `x`, or its first. -/
def nextOf (xs : List Nat) (x : Nat) : Nat := (xs.find? fun y => decide (x < y)).getD (xs.headD 0)

/-- The shadow sample after the sample (lane, stage, slot): the next lane in service, the next value stage of the chain, and the
next element slot of the issue group (R336). -/
def nextSample (lanes stages : List Nat) (slots : Nat) (x : Nat × Nat × Nat) : Nat × Nat × Nat :=
  (nextOf lanes x.1, nextOf stages x.2.1, (x.2.2 + 1) % slots)

/-- The sample that a bay takes at a lane, a value stage and an element slot of an issue group (R336), with the target format of
the lane's result: SFMT under Staged; under Once the target of the bond's ROUND, with its scale policy, or the FP32 of SPLIT for
the final value stage (R99, R166), and bond format for the rest (R74, notes/assumptions/120). -/
def State.sampleAt (s : State) (n : Nat) (t : Tile) (c : Chain) (a : Active) (x : Nat × Nat × Nat) : Sample :=
  let v := s.laneEnv n t a
  let row := (s.spare.lanes (s.physBay n)).idxOf x.1
  let b := min (a.group * c.group + x.2.2) (t.nbeats - 1)
  let e := t.e0 + b / c.gathered (x.2.1 + 1)
  let w := c.stage x.2.1
  let y : Sample := ⟨x.1, row, x.2.1, e, t.chain.toNat, t.seq.toNat, 0xC, 0, 0, false, .none, []⟩
  if c.staged then { y with
    fmt := stSfmt w
    mode := stRnd w }
  else
    match c.outStage with
    | some o =>
      if c.final ≠ some x.2.1 then y
      else if stOp o = opSPLIT then { y with
        fmt := 0
        mode := stRnd o }
      else { y with
        fmt := stSfmt o
        mode := stRnd o
        wrap := bit o 27
        scale := match stScale o with
          | 0 => .none
          | 3 => .row (v.word32 (bits o 30 28) row)
          | _ => .block none }
    | none => y

/-- A sample after a lane's work: the reference results of its stage, with the draw that the lane took (R49, R74), and the
code of its SX8 block (R63). The draw's CTAG is that of the value stage, as the block's may differ (notes/assumptions/176). -/
def Sample.latch (x : Sample) (c : Chain) (t : Tile) (a : Active) (w : LaneW) : Sample :=
  let x := match w.latched.find? fun y => y.1 == x.stage && y.2.1 == x.element with
    | some y =>
      if x.refs.isEmpty then
        let draws := if c.staged then x.stage else c.stages.findIdx fun o => stOp o == opROUND || stOp o == opSPLIT
        { x with
          refs := y.2.2.map toFp64
          draw := if x.mode = 4 then srDraw a.seed (BitVec.ofNat 32 x.element) w.lane.tag (srC2 t.chain.toNat draws) a.step
            else 0 }
      else x
    | none => x
  match x.scale, w.scales.find? fun p => decide ((t.e0 + p.1) / 32 = x.element / 32) with
  | .block none, some p => { x with scale := .block (some (BitVec.ofNat 8 p.2)) }
  | _, _ => x

/-- The samples of a bay after its lanes have worked. -/
def State.latchSamples (s : State) (n : Nat) (t : Tile) (c : Chain) (ws : List LaneW) : State :=
  match (s.bay n).act with
  | none => s
  | some a => { s with spare := { s.spare with sampled := s.spare.sampled.modify (s.physBay n) (List.map fun x =>
      match ws[x.row]? with
      | some w => if x.seq = t.seq.toNat then x.latch c t a w else x
      | none => x) } }

/-! ### The work of all lanes -/

/-- What the lanes' work leaves beside the lanes: runs and terms for Mortar, column terms, segment records, and trap
conditions. -/
def State.collect (s : State) (n : Nat) (t : Tile) (c : Chain) (h : HeldOp) (ws : List LaneW) : State :=
  let rows := ws.zipIdx
  let runs := (rows.map fun p => p.1.terms.map fun x =>
    (⟨n, x.1, x.2.1, if x.2.2 then some (BitVec.ofNat 18 (h.ctxOf p.2)) else none, t.chain, t.bgrp⟩ : MRun)).flatten
  let cols := columnsOf c ws
  let colRuns := cols.map fun q =>
    let a := t.arg (stArgi q.1.2)
    (⟨n, a % 2 ^ 14 + q.2.1 - a / 2 ^ 32, [colTerm (bits q.1.2 25 24) q.2.2], none, t.chain, t.bgrp⟩ : MRun)
  let colTraps := (cols.filter fun q =>
      (ofF32 (colTerm (bits q.1.2 25 24) q.2.2)).isNan && !q.2.2.any Num.isNan).map fun q =>
    (q.2.1, ((rows.find? fun p => p.1.cols.any fun x => x.1 == q.1.1 && x.2.1 == q.2.1).map Prod.snd).getD 0, q.1.1, 0)
  let traps := (rows.map fun p => p.1.traps.map fun x => (x.1, p.2, x.2.1, x.2.2)).flatten
  let s := { s with runs := s.runs ++ runs ++ colRuns }
  let s := (s.nanTraps n t h.ctxOf (traps ++ colTraps)).latchSamples n t c ws
  s.memWrite (n / 8) ⟨.record n t.seq, (ws.map LaneW.cells).flatten⟩

/-- Lanes at work on each row: apply `f` to every lane, collect and emit. -/
def State.workLanes (s : State) (n : Nat) (t : Tile) (c : Chain) (h : HeldOp)
    (f : Nat → LaneW → LaneW) : State :=
  let ws := (s.bay n).lanes.mapIdx fun r l => f r (LaneW.start l)
  let s := s.mapBay n fun b => { b with lanes := ws.map LaneW.lane }
  (s.collect n t c h ws).emitAll n t c ws

/-- Index of the element that the beat of index `e` goes into, by which the chunks of a bonded tile count (R133, R193). -/
def Tile.leafIndex (t : Tile) (c : Chain) (e : Nat) : Nat := t.e0 + (e - t.e0) / c.chunkBeats

/-- The leaf pivots of chunk `q` go to the array of each PIVOT stage with PIVREC = 1 (R164). -/
def State.writePivots (s : State) (n : Nat) (t : Tile) (c : Chain) (q : Nat) (pivots : List (BitVec 24)) : State :=
  let k := q - (s.group t.bgrp.toNat).c0.toNat
  c.pivrecs.foldl (fun (s : State) w =>
    let a := argAddr (t.arg (stArgi w))
    s.memWrite (n / 8) ⟨.record n t.seq, (pivots.zipIdx.map fun (p : BitVec 24 × Nat) =>
      leCells (a + 4 * (256 * k + p.2)) (wrapInt 32 p.1.toInt) 4).flatten⟩) s

/-- The end of a chunk of a bonded tile at the beat of index `e`: each row's leaf goes to the bond tree, with its leaf pivots under
PIVREC, and PIVOT and PSUM start afresh (R127, R164, R369). Elements before the first segment give no leaf (R193). Of the two segments
that one chunk touches, the later's leaf pivot stands (notes/assumptions/152). -/
def State.chunkEnd (s : State) (n : Nat) (t : Tile) (c : Chain) (v : LaneEnv) (h : HeldOp) (e : Nat) : State :=
  let q := t.leafIndex c e / (s.group t.bgrp.toNat).chunkSize
  let s := s.workLanes n t c h fun _ x => closeRow v e c.indexed x
  let lanes := (s.bay n).lanes
  let s := (if c.segctx.isSome && h.segCtx.isNone then [] else lanes.zipIdx).foldl (fun (s : State) (p : Lane × Nat) =>
    s.addLeaf t.bgrp.toNat (h.ctxOf p.2) q p.1.ctx.pivot p.1.ctx.psum p.1.leafNan p.1.leafInf) s
  let s := s.writePivots n t c q (lanes.map fun l => l.ctx.pivot)
  s.mapBay n fun b => { b with lanes := b.lanes.map fun l => { l with
    ctx := { l.ctx with pivot := KNONE, psum := 0 }
    sums := l.sums.map (fun x => { x with kEnd := KNONE, kPrev := KNONE })
    leafNan := false
    leafInf := false } }

/-- The stages whose groups and runs a segment completes when the beats before its end have taken lane passes `ps`: those of
these passes (R369), and under ONETILE, where a pass takes the whole row, all of them (R172, R237). -/
def Chain.closing (c : Chain) (ps : List Nat) : List (Nat × Nat) :=
  if c.oneTile then c.indexed else c.indexed.filter fun x => ps.contains (stPass x.2)

/-- The segment in the lanes closes at the beat before index `e`, whose beats have taken lane passes `ps`: its groups close, its
runs are sent, and a bonded row gives its leaf of the chunk so far (R107, R192, R193, R369). -/
def State.closeSegment (s : State) (n : Nat) (t : Tile) (c : Chain) (v : LaneEnv) (h : HeldOp) (ps : List Nat) (e : Nat) :
    State :=
  let s := s.workLanes n t c h fun _ x => sendRuns (c.closing ps) (closeRow v (e - 1) (c.closing ps) x)
  if t.bgrp ≠ 0 ∧ ps.contains (c.passes - 1) = true ∧ t.leafIndex c e % (s.group t.bgrp.toNat).chunkSize ≠ 0 then
    s.chunkEnd n t c v h (e - 1)
  else s

/-- Before beat `b` of a SEGCTX tile in lane pass `p`, one of `ps`: at a boundary the segment in the lanes closes and the next
segment's contexts come in (R192). The first beat of a later lane pass closes the last segment of the pass before. -/
def State.segBoundary (s : State) (n : Nat) (t : Tile) (c : Chain) (v : LaneEnv) (ps : List Nat) (p b : Nat) : State :=
  match c.segctx, (s.bay n).held with
  | some w, some h =>
    match t.segOfBeat c b with
    | 0 => s
    | j + 1 =>
      if h.segCtx.map Prod.snd = some j then s
      else
        let s := if h.segCtx = none then s
          else s.closeSegment n t c v h ps (if b = 0 then t.e0 + t.nbeats else t.e0 + b)
        s.swapSegment n t c h (decide (p = 0)) (t.segBase w) j
  | _, _ => s

/-- The chunks of a bonded tile's range that hold no element of segment `j`, although the segment's span does: after RECOMB the
tile's elements fill only the first of its indices (R100, R193, notes/assumptions/160). -/
def State.emptyChunks (s : State) (t : Tile) (c : Chain) (j : Nat) : List Nat :=
  let g := s.group t.bgrp.toNat
  let filled := ((List.range t.nbeats).filter fun b => t.segOfBeat c b == j + 1).map fun b =>
    t.leafIndex c (t.e0 + b) / g.chunkSize
  ((g.spans.filter fun p => p.1 == j).flatMap fun p => (t.chunks g.chunkSize).filter fun q =>
    decide (p.2.1 ≤ q) && decide (q < p.2.1 + p.2.2)).filter fun q => !filled.contains q

/-- At the end of a bonded SEGCTX tile after RECOMB, each chunk of its range that a segment's tree spans and that holds none of its
elements gives the segment an empty leaf, and a chunk without any element leaf pivots of KNONE (R164, R193,
notes/assumptions/160). -/
def State.emptyLeaves (s : State) (n : Nat) (t : Tile) (c : Chain) : State :=
  if c.segctx.isSome && c.chunkBeats != 1 then
    let gi := t.bgrp.toNat
    let g := s.group gi
    let last := t.leafIndex c (t.e0 + t.nbeats - 1) / g.chunkSize
    let s := (g.spans.map Prod.fst).foldl (fun (s : State) j =>
      (s.emptyChunks t c j).foldl (fun (s : State) q =>
        (List.range 256).foldl (fun (s : State) r => s.addLeaf gi (g.base.toNat + 256 * j + r) q KNONE 0 false false) s) s) s
    ((t.chunks g.chunkSize).filter fun q => decide (last < q)).foldl (fun (s : State) q =>
      s.writePivots n t c q (List.replicate 256 KNONE)) s
  else s

/-- After beat `b` has taken its last lane pass, a chunk that ends with it closes (R127). Chunks end with the tile's own beats, so an
output of RECOMB whose beats lie on both sides counts in the later one (notes/assumptions/179). -/
def State.beatEnd (s : State) (n : Nat) (t : Tile) (c : Chain) (v : LaneEnv) (h : HeldOp) (p b : Nat) : State :=
  if t.bgrp = 0 ∨ p + 1 ≠ c.passes then s
  else
    let size := (s.group t.bgrp.toNat).chunkSize
    let e := t.e0 + b
    let s := if t.leafIndex c e / size ≠ t.leafIndex c (e + 1) / size ∨ b + 1 = t.nbeats then s.chunkEnd n t c v h e else s
    if b + 1 = t.nbeats then s.emptyLeaves n t c else s

/-- Beat `b` of the tile in lane pass `p`, one of the passes `ps` that its group takes (R17, R148). A beat goes through all lane
positions of its pass before the next one enters: of two conditions that different beats of a bay meet, the earlier beat's is
met first (R72, notes/assumptions/177). -/
def State.issueBeat (s : State) (n : Nat) (t : Tile) (c : Chain) (a : Active) (ps : List Nat) (p b : Nat) : State :=
  let v := s.laneEnv n t a
  let s := s.segBoundary n t c v ps p b
  match (s.bay n).held with
  | none => s
  | some h =>
    let outside := c.segctx.isSome && t.segOfBeat c b == 0
    let s := s.workLanes n t c h fun r x => laneBeat v r b p outside x.lane
    s.beatEnd n t c v h p b

/-- The PAIRROT stage of some lane passes whose pair a segment boundary before beat `b` parts, with the segments before and
after it (R162, R192). -/
def State.partedPair (s : State) (n : Nat) (t : Tile) (c : Chain) (ps : List Nat) (b : Nat) :
    Option ((Nat × Nat) × HeldOp × Nat × Nat) :=
  match (ps.flatMap c.passStages).find? fun x => stOp x.2 == opPAIRROT, c.segctx, (s.bay n).held, t.segOfBeat c b with
  | some x, some w, some h, j + 1 =>
    if b % 2 = 1 ∧ h.segCtx.isSome = true ∧ h.segCtx.map Prod.snd ≠ some j then some (x, h, t.segBase w, j) else none
  | _, _, _, _ => none

/-- Beat `b` in lane passes `ps` where a segment boundary parts the pair that PAIRROT takes: the beat's own element meets the
stages before PAIRROT with the next segment's contexts, the waiting element of the beat before finishes with those of
its own segment, which then closes, and the beat's element goes on with the next segment's (R162, R192). -/
def State.partedBeat (s : State) (n : Nat) (t : Tile) (c : Chain) (a : Active) (ps : List Nat) (b : Nat)
    (x : Nat × Nat) (h : HeldOp) (q j : Nat) : State :=
  let v := s.laneEnv n t a
  let h' := { h with segCtx := some (q, j) }
  let before := (s.bay n).lanes
  let waiting := before.map fun l => l.elems.find? fun el => el.waitsAt x.1 (b - 1)
  let later := ps.filter fun p => decide (stPass x.2 ≤ p)
  let s := s.mapBay n fun y => { y with
    held := some h'
    lanes := (s.segLanes t c (ps.contains 0) q j before).map fun l => { l with
      elems := l.elems.filter fun el => !el.waitsAt x.1 (b - 1) } }
  let s := ps.foldl (fun s p => s.workLanes n t c h' fun r y => laneBeat v r b p false y.lane) s
  let next := (s.bay n).lanes
  let own := next.map fun l => l.elems.find? fun el => el.waitsAt x.1 b
  let s := s.mapBay n fun y => { y with
    held := some h
    lanes := (next.zip before).map fun (l : Lane × Lane) => { l.1.withCtx c l.2 with
      elems := l.1.elems.filter fun el => !el.waitsAt x.1 b } }
  let s := s.workLanes n t c h fun r y => pairOn v r x.1 x.2 b later false (waiting.getD r none) (own.getD r none) y
  let s := s.closeSegment n t c v h ps (t.e0 + b)
  let s := s.writeLanes h 0 (s.bay n).lanes
  let s := s.mapBay n fun y => { y with
    held := some h'
    lanes := (y.lanes.zip next).map fun (l : Lane × Lane) => l.1.withCtx c l.2 }
  let s := s.workLanes n t c h' fun r y => pairOn v r x.1 x.2 b later true (waiting.getD r none) (own.getD r none) y
  ps.foldl (fun s p => s.beatEnd n t c v h' p b) s

/-- Beat `b` of the tile in some lane passes, one after another (R17, R148). -/
def State.issuePasses (s : State) (n : Nat) (t : Tile) (c : Chain) (a : Active) (ps : List Nat) (b : Nat) : State :=
  match s.partedPair n t c ps b with
  | some (x, h, q, j) => s.partedBeat n t c a ps b x h q j
  | none => ps.foldl (fun s p => s.issueBeat n t c a ps p b) s

/-! ### The end of a tile -/

/-- max(SFMT) of R173 as a number. -/
def fmtMax (f : Nat) : Num :=
  match floatFmt f with
  | some p => .fin false p.maxM p.maxE
  | none => Num.ofInt (2 ^ (fmtWidth f - 1) - 1)

/-- The scale that SCALEOUT writes (R173). -/
def scaleOut (c : RowCtx) (f : Nat) : W32 :=
  match Num.max (ofF32 c.maxv).abs (ofF32 c.minv).abs, fmtMax f with
  | .fin _ m e, .fin _ mm me =>
    if m = 0 then 0x3F800000
    else
      let k : Int := (Nat.log2 m : Int) + e - ((Nat.log2 mm : Int) + me)
      let k := if magGt m (e - k) mm me then k + 1 else k
      toF32 (.pow2 (Max.max (-126) (Min.min k 127)))
  | _, _ => 0x3F800000

/-- The aperture words of a row leave as one STORE or FOLD frame (R209, R213). -/
def State.sendRow (s : State) (t : Tile) (c : Chain) (r : Nat) (ws : List W32) : State :=
  match s.aperture (argRow (t.arg c.outarg) r) with
  | none => s
  | some (fold, off) =>
    if ws.isEmpty then s
    else
      let len := cdiv ws.length 16
      let addr := if fold then bits s.xp.remote1.toNat 13 0 + off / 4 else bits s.xp.remote0.toNat 47 0 + off
      s.sendFrame
        { kind := if fold then 3 else 4, len := BitVec.ofNat 24 len, shard := s.xp.shard, roundId := 0, reserved := 0
          addr := BitVec.ofNat 64 (if fold then addr % 2 ^ 14 else addr), wcount := BitVec.ofNat 13 ws.length
          words := ws ++ List.replicate (16 * len - ws.length) 0 }

/-- The contexts that a skipped chunk `q` gives a leaf: the 256 of the course, or under SEGCTX those of each segment whose
span holds the chunk (R186, R193). -/
def Bgrp.skipped (g : Bgrp) (c : Chain) (h : HeldOp) (q : Nat) : List Nat :=
  if c.segctx.isSome then
    ((g.spans.filter fun p => decide (p.2.1 ≤ q) && decide (q < p.2.1 + p.2.2)).map fun p =>
      (List.range 256).map fun r => g.base.toNat + 256 * p.1 + r).flatten
  else (List.range 256).map h.ctxOf

/-- The leaves, marks and leaf pivots that the owner of skip runs supplies (R186). -/
def State.skipLeaves (s : State) (n : Nat) (t : Tile) (c : Chain) (h : HeldOp) : State :=
  if t.bgrp = 0 then s
  else
    let gi := t.bgrp.toNat
    (s.ownedRuns t c).foldl (fun s run =>
      let g := s.group gi
      let qs := (List.range (run.2.1 / g.chunkSize)).map (run.1 / g.chunkSize + ·)
      let s := s.setGroup gi (g.addMarks (g.course t.base) qs)
      qs.foldl (fun s q =>
        let s := (g.skipped c h q).foldl (fun s x => s.addLeaf gi x q KNONE 0 false false) s
        s.writePivots n t c q (List.replicate 256 KNONE)) s) s

/-- The list records of a tile's rows as its operation stands, kept for the merge of a bonded row (R143, R144). A bay cannot
know at a tile's retirement whether the next tile will carry its registers over, and every list record has to be written
by then (R227): so each tile writes them, and a tile that carries over writes them again with what it adds
(notes/assumptions/29). -/
def State.writeTopk (s : State) (n : Nat) (t : Tile) (c : Chain) : State :=
  (c.ofOp opTOPK).foldl (fun (s : State) p =>
    let k := bits p.2 30 24
    let recs := ((s.bay n).lanes.zipIdx).map fun (q : Lane × Nat) =>
      (⟨t.bgrp, BitVec.ofNat 18 (t.base + q.2), t.chain, k, argRow (t.arg (stArgi p.2)) q.2, q.1.topk.take k, n, t.seq, 0⟩ :
        TopkRec)
    let s := s.memWrite (n / 8) ⟨.record n t.seq,
      (recs.map fun r => topkRecord r.addr r.ctx.toNat r.chain.toNat r.k r.cands).flatten⟩
    if t.bgrp = 0 then s else { s with topks := s.topks ++ recs }) s

/-- The end of a tile after its last beat's last pass: groups close, a short block leaves, segments are recorded, those
of an ended row as closed, runs go to Mortar, aperture rows leave, SCALEOUT and the list records are written, and owned
skip runs are told (R59, R103, R107, R143, R146, R173, R185, R186, R213). SCALEOUT of a bonded tile takes the lanes' MAXV and MINV,
not merged with the row's (notes/assumptions/150), and under SEGCTX those of the segment then in the lanes
(notes/assumptions/180). -/
def State.finishTile (s : State) (n : Nat) (t : Tile) (c : Chain) (a : Active) : State :=
  let v := s.laneEnv n t a
  match (s.bay n).held with
  | none => s
  | some h =>
    let e := t.e0 + t.nbeats - 1
    let s := s.workLanes n t c h fun r x =>
      let x := closeAll v e c.indexed x
      let x := c.indexed.foldl (fun x p => if stOp p.2 = opROUND then flushBlock v r p.1 p.2 x else x) x
      let x := (c.ofOp opSEG).foldl (fun x p =>
        if t.eor then endSegment v r p.1 p.2 (v.indexAt p.1 e) x else leaveSegment v r p.1 p.2 x) x
      sendRuns c.indexed x
    -- the absent elements of a short last block are written as zero (R59)
    let nOut := c.outBeats t.nbeats
    let w := fmtWidth c.outFmt
    let pad := if c.blocky && c.toMem then (32 - (t.e0 + nOut) % 32) % 32 else 0
    let s := s.memWrite (n / 8) ⟨.tile n t.seq, ((List.range (if pad = 0 then 0 else 256)).map fun r =>
      bitCells (argRow (t.arg c.outarg) r) (w * nOut) (w * pad) 0).flatten⟩
    let s := ((s.bay n).lanes.zipIdx).foldl (fun (s : State) (p : Lane × Nat) => s.sendRow t c p.2 p.1.xpWords) s
    let s := s.mapBay n fun b => { b with lanes := b.lanes.map fun l => { l with
      xpWords := []
      invSeen := false
      elems := [] } }
    let s := if t.eor then
        c.stages.foldl (fun s w =>
          if stOp w = opROUND ∧ bit w 31 = true then
            s.memWrite (n / 8) ⟨.tile n t.seq, ((s.bay n).lanes.zipIdx.map fun (p : Lane × Nat) =>
              leCells (argAddr (t.arg (stArgi w)) + 4 * p.2) (scaleOut p.1.ctx (stSfmt w)).toNat 4).flatten⟩
          else s) s
      else s
    let s := s.writeTopk n t c
    let s := if c.toSo then
        s.pushSo n (((s.ownedRuns t c).filter fun x => !x.2.2).map fun x => tokenSkip t.seq x.1 x.2.1)
      else s
    s.skipLeaves n t c h

/-! ### ISSUE_GROUP -/

/-- Issue groups of a tile (R17). -/
def groupsOf (t : Tile) (c : Chain) : Nat := cdiv t.nbeats c.group

/-- Has the tile in the lanes issued every group in every pass (R237)? -/
def Active.done (a : Active) (t : Tile) (c : Chain) : Bool :=
  a.ended || (if c.oneTile then decide (c.passes ≤ a.pass) else decide (groupsOf t c ≤ a.group))

/-- The group and pass after this one: every pass of a group before the next group, but under ONETILE every group of a
pass before the next pass (R237). -/
def Active.advance (a : Active) (t : Tile) (c : Chain) : Active :=
  if c.oneTile then
    (if a.group + 1 < groupsOf t c then { a with group := a.group + 1 } else { a with group := 0, pass := a.pass + 1 })
  else (if a.pass + 1 < c.passes then { a with pass := a.pass + 1 } else { a with group := a.group + 1, pass := 0 })

/-- The tile that holds the lanes of bay `n`. -/
def Bay.activeTile (b : Bay) : Option (Active × Tile) :=
  match b.act with
  | none => none
  | some a => (b.tile? (a.seq.toNat % 64)).map fun t => (a, t)

/-- The shadow samples that a bay takes of an issued group: RATE, or fewer when its check path is busy, which is open
(R336, R345, notes/assumptions/3). They are chosen at the group's first lane pass, among the value stages of all its passes, and each
has its operands once its own stage has run (notes/assumptions/120). Those that have them stay until they are compared; one of
another tile that has yet to get them never will. -/
def State.sample (s : State) (n : Nat) (t : Tile) (c : Chain) (a : Active) : State :=
  let p := s.physBay n
  let stages := c.valueStages
  if s.patrolsBay p && !stages.isEmpty && a.pass == 0 then
    let k := s.takeFree
    let taken := k.1 % (s.spare.rate.toNat + 1)
    let lanes := s.spare.lanes p
    let seen := ((List.range taken).foldl (fun (xs : List (Nat × Nat × Nat)) _ =>
      nextSample lanes stages c.group (xs.headD (0, 0, 0)) :: xs) [s.spare.rot.getD p (0, 0, 0)])
    { k.2 with spare := { k.2.spare with
      bays := k.2.spare.bays.modify p fun m => { m with samples := satAdd m.samples taken }
      rot := k.2.spare.rot.set p (seen.headD (0, 0, 0))
      sampled := k.2.spare.sampled.modify p fun xs =>
        (xs.filter fun x => x.ready || x.seq == t.seq.toNat) ++ (seen.take taken).map (s.sampleAt n t c a) } }
  else s

/-- The beats of an issue group in the lane pass in progress (R17, R237). Where a segment boundary may lie inside a group
(R192), each beat takes all its passes at the group's last pass: the order changes no bit (R237, notes/assumptions/9).
The last group of a pass of an ONETILE tile closes the groups of the pass's sums, so that a later pass reads them whole
(R172). -/
def State.issueGroup (s : State) (n : Nat) (t : Tile) (c : Chain) (a : Active) (beats : List Nat) : State :=
  if c.oneTile then
    let s := beats.foldl (fun s b => s.issuePasses n t c a [a.pass] b) s
    if groupsOf t c ≤ a.group + 1 then
      match (s.bay n).held with
      | none => s
      | some h => s.workLanes n t c h fun _ x =>
          closeAll (s.laneEnv n t a) (t.e0 + t.nbeats - 1) (c.passStages a.pass) x
    else s
  else if c.segctx.isSome then
    beats.foldl (fun s b => s.issuePasses n t c a (c.issued a.pass) b) s
  else beats.foldl (fun s b => s.issueBeat n t c a [a.pass] a.pass b) s

/-- The beats of the issue group that stands at the lanes (R17). -/
def Active.beats (a : Active) (t : Tile) (c : Chain) : List Nat :=
  (List.range (min ((a.group + 1) * c.group) t.nbeats - a.group * c.group)).map (a.group * c.group + ·)

/-- What the beats of the group that a protocol error interrupts do in the lane passes that they have been issued in already, where
the model leaves a group's passes to its last one (R369, notes/assumptions/9). -/
def State.finishIssued (s : State) (n : Nat) : State :=
  match (s.bay n).activeTile with
  | none => s
  | some (a, t) =>
    let c := chainOf t.words
    if c.segctx.isSome && !c.oneTile then
      (if a.pass = 0 then [] else a.beats t c).foldl (fun s b => s.issuePasses n t c a (List.range a.pass) b) s
    else s

/-- ISSUE_GROUP: one issue group of beats passes through the lane positions for one lane pass (R17, R237). Nothing
happens while the lanes are empty, the tile has issued everything, a beat of the group or of its second input has not
arrived (R236), or the SO egress queue is full (R245). -/
def execIssueGroup (n : Fin 32) (s : State) : Host.Outcome State Fault Refusal :=
  match (s.bay n.val).activeTile with
  | none => .next s
  | some (a, t) =>
    let c := chainOf t.words
    let hi := min ((a.group + 1) * c.group) t.nbeats
    if a.done t c || decide (t.data.length < hi) || (c.secen && decide (t.secondRead < hi))
        || decide (32 ≤ (s.bay n.val).soq.length) then .next s
    else
      let s := (s.sample n.val t c a).issueGroup n.val t c a (a.beats t c)
      let a' := a.advance t c
      let s := s.mapBay n.val fun b => { b with
        act := b.act.map fun x => { a' with outBeats := x.outBeats } }
      .next (if a'.done t c then s.finishTile n.val t c a else s)

end Sys2Proof.Machine
end

