-- ==== Sys2Proof/Machine/Accept.lean ====
section
/-! DEFINITION. Refusal: the cause codes of R270 that a tile can meet, checks 1 to 8 of R239 in their order, what a refusal
undoes (R240), and the conflict table of R129 with R130, R131 and R368. -/

namespace Sys2Proof.Machine

/-! ### Cause codes (R270, R328, R348) -/

def cHDRFMT : Nat := 0x01
def cNOCHAIN : Nat := 0x02
def cWING : Nat := 0x03
def cGENMIX : Nat := 0x04
def cHODSIZE : Nat := 0x05
def cCTXSTATE : Nat := 0x06
def cPLACEMENT : Nat := 0x07
def cGEOMETRY : Nat := 0x08
def cSEQLIMIT : Nat := 0x09
def cREPLAYMIS : Nat := 0x0A
def cREPLAYSAT : Nat := 0x0B
def cMASKDESC : Nat := 0x0C
def cSEGORDER : Nat := 0x0D
def cSKIPPED : Nat := 0x0E
def cMASKGEOM : Nat := 0x0F
def cSEGLIMIT : Nat := 0x10
def cAPERTURE : Nat := 0x11
def cCONFLICT : Nat := 0x12
def cSIPROTO : Nat := 0x13
def cSEQWIN : Nat := 0x14
def cLATERISK : Nat := 0x15
def cCTXLOST : Nat := 0x62
def cSTOPDROP : Nat := 0x63
def cECCLOSS : Nat := 0x72
def cBAYLOST : Nat := 0x74

/-- The cause of the first case that holds: only the first failed check is recorded (R239). -/
def firstCause : List (Bool × Nat) → Option Nat
  | [] => none
  | (c, k) :: t => if c then some k else firstCause t

/-! ### Checks 1 to 7 (R239) -/

/-- Is the wing of bay `n` READY (R293)? -/
def State.wingReady (s : State) (n : Nat) : Bool := if westBay n then s.img.westReady else s.img.eastReady

/-- Check 1: the header's fields and format (R35, R230, R284). -/
def checkHeader (im : WingImage) (t : Tile) : Option Nat :=
  firstCause [(t.reserved, cHDRFMT), (decide (0xE ≤ t.infmt.toNat), cHDRFMT),
    (!bit im.fmtEnable.toNat t.infmt.toNat, cHDRFMT), (decide (t.nbeats = 0), cHDRFMT),
    (decide (4096 < t.nbeats), cHDRFMT), (decide (2 ^ 32 < t.e0 + t.nbeats), cHDRFMT)]

/-- Checks 3 to 5: the wing and generations, the chain's format and modes, and the Hod size (R127, R158, R174, R238). -/
def checkChain (west genDiff : Bool) (t : Tile) (c : Chain) : Option Nat :=
  firstCause [(!bit c.wings (b2n west), cWING), (decide (c.wings = 3) && genDiff, cGENMIX),
    (decide (t.infmt.toNat ≠ c.infmt), cHDRFMT), (decide (t.shift ≠ 0) && !c.has opOVFCHK, cHDRFMT),
    (decide (t.bgrp ≠ 0) && t.overwrite, cHDRFMT),
    ((c.has opOVFCHK || c.oneTile) && decide (512 < t.nbeats), cHODSIZE)]

/-- Does the chain need ETV of each of its rows: a summing stage in EXACT mode, or NORM with XSRC ≠ 0 (R107, R163)? -/
def Chain.needsEtv (c : Chain) : Bool :=
  c.exactSum || c.stages.any fun w => stOp w == opNORM && bits w 28 27 != 0

/-- The state part of check 6 (R107, R124, R133, R163). Of the ETX that an EXACT SUM sends to, the tile's own contexts are checked
for ETV, those of its segments are not (notes/assumptions/144). -/
def State.checkContexts (s : State) (t : Tile) (c : Chain) : Option Nat :=
  firstCause [
    (anyFrom t.base 256 fun x => decide (2 ^ 18 ≤ x) || !s.allocated x, cCTXSTATE),
    (decide (t.bgrp ≠ 0) && !(s.group t.bgrp.toNat).open, cCTXSTATE),
    (c.needsEtv && anyFrom t.base 256 fun x => !(s.ctx x).etv, cCTXSTATE)]

/-- The placement part of check 6 (R171, R172, R176). -/
def checkPlacement (t : Tile) (c : Chain) : Option Nat :=
  firstCause [(c.skim && (t.overwrite || decide (t.bgrp ≠ 0)), cPLACEMENT),
    (c.oneTile && (decide (t.e0 ≠ 0) || !t.eor || decide (t.bgrp ≠ 0)), cPLACEMENT)]

/-- Does a stage take its elements in groups of R102: SUM, TALLY and the sums of SEG? -/
def isGrouped (w : Nat) : Bool :=
  stOp w == opSUM || stOp w == opTALLY || (stOp w == opSEG && decide (bits w 25 24 < 2))

/-- The geometry of a bonded tile (R133). -/
def Bgrp.misfit (g : Bgrp) (t : Tile) : Bool :=
  let size := g.chunkSize
  let stop := g.c0.toNat + g.n.toNat
  decide (t.chunk.toNat ≠ t.e0 / size) || decide (t.e0 % size ≠ 0)
    || (decide (t.nbeats % size ≠ 0) && decide (t.e0 + t.nbeats ≠ stop * size))
    || decide (t.e0 / size < g.c0.toNat) || decide (stop < cdiv (t.e0 + t.nbeats) size)
    || decide (t.base < g.base.toNat) || decide ((t.base - g.base.toNat) % 256 ≠ 0)
    || decide (g.courses.toNat ≤ (t.base - g.base.toNat) / 256)
    || (t.chunks size).any fun q => g.marked (g.course t.base) q

/-- The geometry part of check 6 (R59, R100, R102, R133, R162). -/
def State.checkGeometry (s : State) (t : Tile) (c : Chain) : Option Nat :=
  firstCause [(c.blocky && decide (t.e0 % 32 ≠ 0), cGEOMETRY),
    (decide (t.nbeats % c.recomb ≠ 0), cGEOMETRY),
    (c.stages.any (fun w => isGrouped w && (decide (t.e0 % stGroup w ≠ 0)
      || (decide (t.nbeats % stGroup w ≠ 0) && !t.eor))), cGEOMETRY),
    (decide (t.bgrp ≠ 0) && (s.group t.bgrp.toNat).misfit t, cGEOMETRY),
    (c.has opPAIRROT && (decide (t.e0 % 2 ≠ 0) || decide (t.nbeats % 2 ≠ 0)), cGEOMETRY)]

/-- Is the stage a SUM in SEQ mode (R106)? -/
def isSeqSum (w : Nat) : Bool := stOp w == opSUM && !bit w 28

/-- Does the index limit of R106 apply to the stage: a sum in SEQ mode, but not a PSUM that goes through the bond tree
(R106, R134, R176)? The sums of a SEG stage have the limit of R191. -/
def seqLimited (bonded : Bool) (w : Nat) : Bool := isSeqSum w && !(bonded && decide (bits w 25 24 = 2))

/-- Does the stage form SUM or SUMSQ in SEQ mode, of the row or of its segments (R106, R145)? -/
def isSeqPlain (w : Nat) : Bool := (isSeqSum w || stOp w == opSEG) && decide (bits w 25 24 < 2)

/-- The SEQ-mode limit and the replay shift of check 6 (R106, R175). -/
def checkSeq (b : Bay) (t : Tile) (c : Chain) : Option Nat :=
  firstCause [(c.stages.any (seqLimited (decide (t.bgrp ≠ 0))) && decide (65536 < t.e0 + t.nbeats), cSEQLIMIT),
    (decide (t.bgrp ≠ 0) && c.stages.any isSeqPlain, cSEQLIMIT),
    ((match b.replay with
      | some r => r.1 == t.seq && r.2 != t.shift
      | none => false), cREPLAYMIS)]

/-- May a tile join an operation that is in flight on a common context in another bay: bonded ADD of one chain and one
group over disjoint chunks (R129)? -/
def joins (t : Tile) (chunks : List Nat) (o : OpView) : Bool :=
  decide (t.bgrp ≠ 0) && o.bgrp == t.bgrp && o.chain == t.chain && !o.overwrite && !t.overwrite
    && !chunks.any fun q => o.chunks.contains q

/-- The contexts of the course from `base` that an operation, a group, a waiting run or a transfer pass in conflict with
tile `t` of bay `n` shares with it, each the lowest of its source (R128 to R131, R201, R368). Contexts that an earlier tile of
the tile's own bay holds never meet R129, though another group is open over them (R130). -/
def State.courseConflicts (s : State) (n : Nat) (t : Tile) (base : Nat) : List Nat :=
  let chunks := t.chunks (s.group t.bgrp.toNat).chunkSize
  let ops := ((List.range 32).filter (· != n)).flatMap fun m =>
    ((s.bayOps m).filter fun o => !joins t chunks o).flatMap fun o =>
      (o.courses.filter fun b => coursesMeet b base).map fun b => Max.max b base
  let b := s.bay n
  let own := fun (g : Nat) =>
    b.tiles.any (fun u => u.isAccepted && u.bgrp.toNat == g && decide (b.place u.seq < b.place t.seq)
      && (u.courses (chainOf u.words)).any fun x => coursesMeet x base)
    || match b.held with
      | some h => h.bgrp.toNat == g && h.courses.any fun x => coursesMeet x base
      | none => false
  let groups := (s.groups.filter fun p => p.1 != t.bgrp.toNat && p.2.open && !own p.1
      && decide (base < p.2.base.toNat + 256 * p.2.courses.toNat) && decide (p.2.base.toNat < base + 256)).map
    fun p => Max.max p.2.base.toNat base
  let runs := s.runs.filterMap fun r => match r.ctx with
    | some x =>
      if r.source ≠ n ∧ inCourse base x.toNat = true ∧ !(decide (t.bgrp ≠ 0) && r.bgrp == t.bgrp && r.chain == t.chain)
      then some x.toNat else none
    | none => none
  let stx := ((List.range 256).map (base + ·)).filter fun x => s.stxNamesCtx x
  ops ++ groups ++ runs ++ stx

/-- The contexts that check 7 finds in conflict: those of the course that the header names (R129, R131). -/
def State.conflicts (s : State) (n : Nat) (t : Tile) : List Nat := s.courseConflicts n t t.base

/-- The conflicts of the segment contexts that a SEGCTX tile names, which its argument set shows (R129, R147,
notes/assumptions/124). -/
def State.segConflicts (s : State) (n : Nat) (t : Tile) (c : Chain) : List Nat :=
  (t.segCourses c).flatMap fun base => s.courseConflicts n t base

/-- The least of a list. -/
def leastOf : List Nat → Option Nat
  | [] => none
  | a :: t => some (t.foldl Nat.min a)

/-- Checks 1 to 7 of R239 on a tile of bay `n`, with the entry's WHERE (R270). -/
def State.checkAccept (s : State) (n : Nat) (t : Tile) : Option (Nat × Nat) :=
  let im := s.wingImage (westBay n)
  match checkHeader im t with
  | some k => some (k, t.base)
  | none =>
    match im.find t.chain with
    | none => some (cNOCHAIN, t.base)
    | some ws =>
      let c := chainOf ws
      match checkChain (westBay n) s.img.genDiff t c <|> s.checkContexts t c <|> checkPlacement t c
          <|> s.checkGeometry t c <|> checkSeq (s.bay n) t c with
      | some k => some (k, t.base)
      | none => (leastOf (s.conflicts n t)).map fun x => (cCONFLICT, x)

/-! ### Check 8 (R239) -/

/-- Address of the descriptor that a MASK stage names. -/
def Tile.maskAddr (t : Tile) (w : Nat) : Nat := argAddr (t.arg (stArgi w))

/-- The descriptor rules of R178 for one MASK stage: MASKDESC. -/
def maskDescBad (t : Tile) (w : Nat) : Bool :=
  let d := readDesc t.view (t.maskAddr w)
  decide (t.arg (stArgi w) % 64 ≠ 0) || d.bad || (d.doc && decide (d.segCount = 0))

/-- The order of the segment table in the tile's read ranges (R178, R181): SEGORDER. -/
def segTableBad (t : Tile) (c : Chain) (w : Nat) : Bool :=
  let mv := maskView t.view (t.maskAddr w) t.e0 t.nbeats
  (mv.desc.doc && !segOrdered t.view mv.desc mv.q)
    || ((mv.desc.doc || c.segread.isSome) && !segOrdered t.view mv.desc mv.k)

/-- Mask geometry (R184): MASKGEOM. -/
def State.skipGeometryBad (s : State) (t : Tile) (w : Nat) : Bool :=
  let d := readDesc t.view (t.maskAddr w)
  let g := s.group t.bgrp.toNat
  decide (t.e0 % d.cell ≠ 0) || (decide (t.nbeats % d.cell ≠ 0) && !t.eor)
    || (decide (t.bgrp ≠ 0) && (decide (g.chunkSize ≠ d.cell) || decide (d.ncell < g.c0.toNat + g.n.toNat)))

/-- Does the tile cover a cell of a skip run (R184)? -/
def State.coversSkip (s : State) (t : Tile) (c : Chain) : Bool :=
  match s.skipCells t c with
  | none => false
  | some (addr, x) =>
    let b := (readDesc t.view addr).cell
    (List.range (cdiv t.nbeats b)).any fun i => x.skipped t.view addr (t.e0 / b + i)

/-- Element index of the first element of the run that entry `j` belongs to, as far as the read range shows
(R178, R190, R191). -/
def runStart (m : List Host.Cell) (d : MaskDesc) (lo : Nat) : Nat → Nat
  | 0 => segStart m d 0 - d.kpos0
  | j + 1 => if lo < j + 1 ∧ segId m d j = segId m d (j + 1) then runStart m d lo j else segStart m d (j + 1) - d.kpos0

/-- Does the tile hold an element 65,536 or more places into its run (R191)? A gap, whose elements are absent for every SEG
stage, is no run (notes/assumptions/136). -/
def segRunLong (t : Tile) (c : Chain) : Bool :=
  match c.segread with
  | none => false
  | some w =>
    let mv := maskView t.view (t.maskAddr w) t.e0 t.nbeats
    (List.range t.nbeats).any fun b =>
      match t.segOfBeat c b with
      | 0 => false
      | j + 1 => decide (segId t.view mv.desc j ≠ NOSEG)
        && decide (65536 ≤ t.e0 + b / c.segBeats - runStart t.view mv.desc mv.k.lo j)

/-- Under SEGCTX, do two adjacent entries of the tile's elements have one SEGID (R192)? NOSEG is such a SEGID
(notes/assumptions/138). -/
def segCtxRepeats (t : Tile) (c : Chain) : Bool :=
  match c.segctx, c.segread with
  | some _, some w =>
    let d := readDesc t.view (t.maskAddr w)
    (List.range t.nbeats).any fun b =>
      match t.segOfBeat c b with
      | 0 => false
      | j + 1 => decide (b + 1 < t.nbeats) && decide (t.segOfBeat c (b + 1) = j + 2)
        && decide (segId t.view d j = segId t.view d (j + 1))
  | _, _ => false

/-- Under SEGCTX, does the tile name a segment beyond the contexts allocated from Q, or beyond the group's COURSES
(R147, R193)? A gap between Q and a named segment puts none beyond (notes/assumptions/146). -/
def State.segBeyond (s : State) (t : Tile) (c : Chain) : Bool :=
  match c.segctx with
  | none => false
  | some w =>
    let q := t.arg (bits w 31 29) % 2 ^ 18
    (((List.range t.nbeats).map fun b => t.segOfBeat c b).dedup).any fun j1 =>
      decide (j1 ≠ 0) && ((decide (t.bgrp ≠ 0) && decide ((s.group t.bgrp.toNat).courses.toNat ≤ j1 - 1))
        || anyFrom (q + 256 * (j1 - 1)) 256 fun x => decide (2 ^ 18 ≤ x) || !s.allocated x)

/-- The aperture rules of R213: an output in an aperture is FP32, and a FOLD row starts on 64 bytes. -/
def State.apertureBad (s : State) (t : Tile) (c : Chain) : Bool :=
  c.toMem && (List.range 256).any fun r =>
    let a := argRow (t.arg c.outarg) r
    match s.aperture a with
    | none => false
    | some (fold, _) => decide (c.outFmt ≠ 0) || (fold && decide (a % 64 ≠ 0))

/-- The total mode that a column stage needs (R140). -/
def colMode (kind : Nat) : BitVec 2 :=
  match kind with
  | 2 => 1
  | 3 => 2
  | _ => 0

/-- The column index and mode rule of R140; an index below 0 breaks it as one above 4,095 does (notes/assumptions/132), and
after a RECOMB stage the tile's BEATS indices count (notes/assumptions/149). -/
def State.columnBad (s : State) (t : Tile) (w : Nat) : Bool :=
  let a := t.arg (stArgi w)
  let lo : Int := (a % 2 ^ 14 : Nat) + (t.e0 : Int) - (a / 2 ^ 32 : Nat)
  decide (lo < 0) || decide (4095 < lo + t.nbeats - 1)
    || anyFrom lo.toNat t.nbeats fun i => (s.total i).mode != colMode (bits w 25 24)

/-- The chunk range of an ALIGN stage (R164). -/
def alignBad (t : Tile) (w : Nat) : Bool :=
  decide (t.e0 / (if bit w 24 then 256 else 128) < t.arg (bits w 27 25) % 2 ^ 24)

/-- Check 8 of R239 on a tile whose copies have been read. -/
def State.checkArgs (s : State) (t : Tile) (c : Chain) : Option Nat :=
  let masks := (c.ofOp opMASK).map Prod.snd
  let skips := masks.filter fun w => bit w 25
  firstCause [(masks.any (maskDescBad t), cMASKDESC), (masks.any (segTableBad t c), cSEGORDER),
    (skips.any (s.skipGeometryBad t), cMASKGEOM), (s.coversSkip t c, cSKIPPED),
    (c.has opSEG && segRunLong t c, cSEQLIMIT), (segCtxRepeats t c, cSEGORDER), (s.segBeyond t c, cSEGLIMIT),
    (s.apertureBad t c, cAPERTURE),
    (((c.ofOp opCOL).map Prod.snd).any (s.columnBad t), cGEOMETRY),
    (((c.ofOp opALIGN).map Prod.snd).any (alignBad t), cGEOMETRY)]

/-! ### What a refusal undoes (R133, R175, R240) -/

/-- The marks that an accepted bonded tile made are removed. -/
def State.unmark (s : State) (t : Tile) : State :=
  if t.bgrp = 0 then s
  else
    let g := s.group t.bgrp.toNat
    s.setGroup t.bgrp.toNat (g.dropMarks (g.course t.base) (t.chunks g.chunkSize))

/-- A tile is refused: its acceptance is undone, its beats are discarded, and its retirement makes one error-log entry with
the WHERE and AUX given (R240, R270). -/
def State.refuseAs (s : State) (n : Nat) (t : Tile) (cause where_ aux : Nat) : State :=
  let s := if t.isAccepted then s.unmark t else s
  s.mapBay n fun b => b.mapTile t.slot fun x =>
    { x with status := .refused (BitVec.ofNat 8 cause) (some (BitVec.ofNat 32 where_, BitVec.ofNat 32 aux))
             staged := [], data := [], args := [], view := [] }

/-- The same with the entry that most causes have: CTXBASE and ELEM0, or the lowest conflicting context. -/
def State.refuse (s : State) (n : Nat) (t : Tile) (cause where_ : Nat) : State :=
  s.refuseAs n t cause where_ (if cause = cCONFLICT then 0 else t.e0)

/-- The chain of a tile: the entry taken at acceptance, otherwise the one that the wing's image holds. -/
def State.tileChain (s : State) (n : Nat) (t : Tile) : Chain :=
  chainOf (if t.words.isEmpty then ((s.wingImage (westBay n)).find t.chain).getD [] else t.words)

end Sys2Proof.Machine
end

