-- ==== Sys2Proof/Machine/Tiles.lean ====
section
/-! DEFINITION. The life of a tile in its bay but for its issue: SI and the beat credits (R228 to R235, R369), acceptance
with the prefetch and the argument read (R19, R154, R219, R227, R239), admission and the replay discard (R174, R175,
R236), retirement and refusal (R232, R240), write-back (R19, R127), SO (R241), the memory ports (R244), and the droop
counters (R247, R248). -/

namespace Sys2Proof.Machine

/-! ### SI -/

/-- Do headers meet STOPDROP: from ENTERING onward, and in the drain of a fault Stop (R313, R315)? -/
def Phase.dropsHeaders : Phase → Bool
  | .entering _ => true
  | .saved => true
  | .drain .faultStop => true
  | _ => false

/-- Does the bay hear its SI port: not while STOPPED or SI_RST is 1, nor under EXTEST or INTEST (R228, R229, R321,
R354)? -/
def State.siOpen (s : State) (n : Nat) : Bool := !s.pwr.stopped && !(s.bay n).siRst && !s.testing

/-- The tile that a header describes (R230). -/
def parseHeader (x : Beat) : Tile :=
  let h := x.toNat
  { seq := BitVec.ofNat 32 (bits h 31 0), chain := BitVec.ofNat 12 (bits h 43 32)
    ctxBase := BitVec.ofNat 18 (bits h 61 44), elem0 := BitVec.ofNat 32 (bits h 95 64)
    beats := BitVec.ofNat 13 (bits h 108 96), eor := bit h 109, overwrite := bit h 110
    shift := BitVec.ofNat 2 (bits h 112 111), infmt := BitVec.ofNat 4 (bits h 116 113)
    bgrp := BitVec.ofNat 8 (bits h 127 120), chunk := BitVec.ofNat 24 (bits h 151 128)
    argset := BitVec.ofNat 16 (bits h 167 152)
    reserved := decide (bits h 63 62 ≠ 0) || decide (bits h 119 117 ≠ 0) || decide (bits h 8191 168 ≠ 0)
    status := .waiting, granted := 0, arrived := 0, lastSeen := false, ovf := false, data := [], secondRead := 0
    words := [], argArrived := false, argDone := false, args := [], view := [], staged := [] }

/-- SI_HEADER: the header takes the slot of its SEQ, or is discarded with SEQWIN or STOPDROP (R232, R234, R235, R313).
A discarded header's credit comes back under SEQWIN and is not returned under STOPDROP. -/
def execSiHeader (n : Fin 32) (hdr : Beat) (s : State) : Host.Outcome State Fault Refusal :=
  let t := parseHeader hdr
  let b := s.bay n.val
  if !s.siOpen n.val then .next s
  else if s.pwr.phase.dropsHeaders then
    .next ((s.logE cSTOPDROP 0 n.val 0 0 t.seq.toNat t.base t.chain.toNat).mapBay n.val fun b =>
      { b with hdrCredits := b.hdrCredits - 1 })
  else if 64 ≤ b.place t.seq ∨ (b.tile? t.slot).isSome then
    .next (s.logE cSEQWIN 0 n.val t.chain.toNat 0 t.seq.toNat t.base t.e0)
  else
    .next (s.mapBay n.val fun b => { b with tiles := b.tiles ++ [t], hdrCredits := b.hdrCredits - 1 })

/-- A SIPROTO entry for a transfer: the tile's fields, or free values where its tag names no tile (R234, R270,
notes/assumptions/10). -/
def State.logSiproto (s : State) (n : Nat) (o : Option Tile) : State :=
  match o with
  | some t => s.logE cSIPROTO 0 n t.chain.toNat 0 t.seq.toNat t.base t.e0
  | none =>
    let a := s.takeFree
    let b := a.2.takeFree
    let c := b.2.takeFree
    let d := c.2.takeFree
    d.2.logE cSIPROTO 0 n a.1 0 b.1 c.1 d.1

/-- A protocol error on a tile that still awaits beats: a tile not admitted is refused, an admitted one is ended at
once, if it is not ended already, and the beats already issued make their effects (R234, R369). A discarded LAST still ends the
beats that a refused tile awaits (notes/assumptions/11). -/
def State.protoError (s : State) (n : Nat) (t : Tile) (last : Bool) : State :=
  let mark := fun (s : State) => s.mapBay n fun b => b.mapTile t.slot fun x => { x with lastSeen := x.lastSeen || last }
  match t.status with
  | .waiting => mark (s.refuse n t cSIPROTO t.base)
  | .accepted => mark (s.refuse n t cSIPROTO t.base)
  | .admitted =>
    if (s.bay n).endedTile t then mark (s.logSiproto n (some t))
    else ((s.logSiproto n (some t)).finishIssued n).mapBay n fun b => { b with act := b.act.map fun a => { a with ended := true } }
  | .refused _ _ => mark (s.logSiproto n (some t))
  | .skipped => mark (s.logSiproto n (some t))

/-- A beat stored in its tile, or discarded when the tile is refused, skipped or ended (R231, R233, R240, R369). -/
def Tile.take (t : Tile) (keep last ovf : Bool) (data : Beat) : Tile :=
  { t with
    arrived := t.arrived + 1
    data := if keep then t.data ++ [data] else t.data
    lastSeen := t.lastSeen || last
    ovf := if last then ovf else t.ovf }

/-- A BEAT or LAST transfer (R231, R233, R234). A lost bay discards those of its tiles, and a LAST still ends the beats that a tile
refused before the loss awaits (R341). What an ended tile still awaits is discarded on arrival (R369). -/
def State.siTransfer (s : State) (n : Nat) (tag : Nat) (last ovf : Bool) (data : Beat) : State :=
  let b := s.bay n
  if !s.siOpen n then s
  else
    match b.tile? tag with
    | none => s.logSiproto n none
    | some t =>
      if s.isLost n then s.mapBay n fun b => b.mapTile tag fun x => { x with lastSeen := x.lastSeen || last }
      else if t.nbeats ≤ t.arrived ∨ t.lastSeen = true then
        match t.status with
        | .refused _ _ =>
          (s.logSiproto n (some t)).mapBay n fun b => b.mapTile tag fun x => { x with lastSeen := x.lastSeen || last }
        | _ => s.logSiproto n (some t)
      else if t.granted ≤ t.arrived ∨ last ≠ decide (t.arrived + 1 = t.nbeats) then s.protoError n t last
      else
        let keep := t.status == .accepted || (t.status == .admitted && !b.endedTile t)
        s.mapBay n fun b => b.mapTile tag fun x => x.take keep last ovf data

/-- SI_BEAT: a BEAT transfer (R231). -/
def execSiBeat (n : Fin 32) (tag : BitVec 6) (data : Beat) (s : State) : Host.Outcome State Fault Refusal :=
  .next (s.siTransfer n.val tag.toNat false false data)

/-- SI_LAST: the final beat of a tile, with its SI_OVF (R228, R231). -/
def execSiLast (n : Fin 32) (tag : BitVec 6) (ovf : Bool) (data : Beat) (s : State) :
    Host.Outcome State Fault Refusal :=
  .next (s.siTransfer n.val tag.toNat true ovf data)

/-- SI_RESERVED_KIND: the transfer is discarded and logged (R234). -/
def execSiReservedKind (n : Fin 32) (tag : BitVec 6) (s : State) : Host.Outcome State Fault Refusal :=
  if !s.siOpen n.val then .next s
  else .next (s.logSiproto n.val ((s.bay n.val).tile? tag.toNat))

/-! ### Beat credits (R233) -/

/-- Beats of the tile in the lanes whose issue group has been issued in its last lane pass (R233). -/
def Active.freed (a : Active) (t : Tile) (c : Chain) : Nat :=
  if c.oneTile ∧ a.pass + 1 < c.passes then 0
  else if c.oneTile ∧ c.passes ≤ a.pass then t.nbeats
  else min (a.group * c.group) t.nbeats

/-- Hod entries that a tile has taken: one for each beat granted, or read from memory (R231, R233). -/
def Tile.taken (t : Tile) : Nat := if (chainOf t.words).insrc then t.arrived else t.granted

/-- Hod entries that a tile holds or has granted (R233). Those of a tile that an error ended stay until it retires
(notes/assumptions/182). -/
def Bay.entriesOf (b : Bay) (t : Tile) : Nat :=
  match t.status with
  | .accepted => t.taken
  | .admitted => match b.act with
    | some a => t.taken - a.freed t (chainOf t.words)
    | none => 0
  | _ => 0

/-- Beat entries held or granted: STORED of HOD_WINDOW (R250). -/
def Bay.stored (b : Bay) : Nat := (b.tiles.map b.entriesOf).sum

/-- The same for the tiles other than NEXT. -/
def Bay.storedOthers (b : Bay) : Nat := ((b.tiles.filter fun t => t.seq != b.next).map b.entriesOf).sum

/-- Has every accepted tile between NEXT and `t` its entries (R233)? -/
def Bay.earlierGranted (b : Bay) (t : Tile) : Bool :=
  b.tiles.all fun u => u.seq == b.next || !u.isAccepted
    || decide (b.place t.seq ≤ b.place u.seq) || decide (u.taken = u.nbeats)

/-- Is there room in the Hod for `k` more beats of the tile (R233)? -/
def Bay.room (b : Bay) (t : Tile) (k : Nat) : Bool :=
  decide (b.stored + k ≤ 1024) && (t.seq == b.next || (decide (b.storedOthers + k ≤ 512) && b.earlierGranted t))

/-- May a grant of `k` beats go to the tile (R34, R233, R240, R334, R341)? -/
def State.mayGrant (s : State) (n : Nat) (t : Tile) (k : Nat) : Bool :=
  let b := s.bay n
  let prepared := s.spare.preps.all fun q => q.2 != n
  decide (1 ≤ k) && decide (k ≤ 32) && decide (t.granted + k ≤ t.nbeats) && s.bayOn n && prepared
    && !(s.tileChain n t).insrc && !b.endedTile t && (match t.status with
      | .refused c _ => c.toNat != cBAYLOST
      | .skipped => true
      | .waiting => false
      | _ => b.room t k)

/-- BEAT_CREDIT_GRANT: the Hod grants `k` credits to a tag (R233). -/
def execBeatCreditGrant (n : Fin 32) (tag : BitVec 6) (k : BitVec 6) (s : State) : Host.Outcome State Fault Refusal :=
  match (s.bay n.val).tile? tag.toNat with
  | none => .next s
  | some t =>
    if s.pwr.phase = .run ∧ s.mayGrant n.val t k.toNat = true then
      .next (s.mapBay n.val fun b => b.mapTile tag.toNat fun x => { x with granted := x.granted + k.toNat })
    else .next s

/-! ### The prefetch (R19, R130, R338) -/

/-- Must the prefetch of `t` wait for a write-back of its own bay (R130)? An earlier tile of a SEGCTX chain may hold
contexts that its argument set names, so it is waited for. -/
def Bay.prefetchWaits (b : Bay) (t : Tile) : Bool :=
  (match b.held with
    | some h => coursesMeet h.ctxBase.toNat t.base || (chainOf h.tile.words).segctx.isSome
    | none => false)
  || b.tiles.any fun u => (u.status == .accepted || u.status == .admitted)
      && decide (b.place u.seq < b.place t.seq)
      && (coursesMeet u.base t.base || (chainOf u.words).segctx.isSome)

/-- A tile whose prefetch meets the poisoned context `x`: its acceptance is undone, and it is answered as a refused tile with
cause ECCLOSS, whose one entry names the context's bank (R240, R338, R348). -/
def State.eccRefuse (s : State) (n : Nat) (t : Tile) (x : Nat) : State :=
  let kui := 2 + 2 ^ 8 * (s.spare.ctxBank x).1 + 2 ^ 16 * (s.spare.ctxBank x).2
  let s := s.logE cECCLOSS 5 0 t.chain.toNat 0 t.seq.toNat kui x
  (s.unmark t).mapBay n fun b => b.mapTile t.slot fun y =>
    { y with status := .refused (BitVec.ofNat 8 cECCLOSS) none, staged := [], data := [], args := [], view := [] }

/-- The prefetch of one tile: the 256 stored contexts enter its staging copy; a poisoned one refuses the tile with
ECCLOSS (R338). -/
def State.prefetchOne (s : State) (n : Nat) (slot : Nat) : State :=
  match (s.bay n).tile? slot with
  | none => s
  | some t =>
    if !t.isAccepted || !t.staged.isEmpty || (s.bay n).prefetchWaits t then s
    else
      match ((List.range 256).map (t.base + ·)).find? fun x => s.poison.contains x with
      | some x => s.eccRefuse n t x
      | none =>
        let copy := (List.range 256).map fun r => s.ctx (t.base + r)
        s.mapBay n fun b => b.mapTile slot fun y => { y with staged := copy }

/-- Every prefetch of a bay that may run now, in canonical order. -/
def State.prefetch (s : State) (n : Nat) : State :=
  (List.range 64).foldl (fun (s : State) i => s.prefetchOne n (((s.bay n).next.toNat + i) % 64)) s

/-! ### Acceptance (R219, R227, R341) -/

/-- A gated tile under STATE SKIP is discarded: its instance credit is released, and it waits to retire in its place
(R219). -/
def State.skipGated (s : State) (n : Nat) : State :=
  let skip := fun (t : Tile) =>
    if t.isAccepted && s.gated t.chain then { t with status := .skipped, staged := [], data := [], args := [], view := [] }
    else t
  if s.gn.state = 3 then s.mapBay n fun b => { b with tiles := b.tiles.map skip } else s

/-- The tile in `slot` becomes a bond instance: its marks are made, its prefetch begins, and a later tile of the bay
that shares its contexts prefetches again (R130, R133, R150, R227). -/
def State.accept (s : State) (n : Nat) (t : Tile) (words : List W64) : State :=
  let s :=
    if t.bgrp = 0 then s
    else
      let g := s.group t.bgrp.toNat
      s.setGroup t.bgrp.toNat (g.addMarks (g.course t.base) (t.chunks g.chunkSize))
  let change := fun (b : Bay) (u : Tile) =>
    if u.slot = t.slot then { u with status := .accepted, words := words }
    else if u.isAccepted && decide (b.place t.seq < b.place u.seq) && coursesMeet t.base u.base then
      { u with staged := [] }
    else u
  let s := s.mapBay n fun b => { b with tiles := b.tiles.map (change b) }
  (s.skipGated n).prefetch n

/-- TILE_ACCEPTANCE: with the bay powered and its wing READY, checks 1 to 7 are made on the header in `slot`; a header
whose acceptance would make a 1,025th instance waits, and a lost bay refuses with BAYLOST (R150, R239, R294, R341). -/
def execTileAcceptance (n : Fin 32) (slot : BitVec 6) (s : State) : Host.Outcome State Fault Refusal :=
  match (s.bay n.val).tile? slot.toNat with
  | none => .next s
  | some t =>
    if t.status ≠ .waiting ∨ s.pwr.phase ≠ .run then .next s
    else if s.isLost n.val then .next (s.refuse n.val t cBAYLOST t.base)
    else if !s.bayOn n.val || !s.wingReady n.val then .next s
    else
      match s.checkAccept n.val t with
      | some (cause, where_) => .next ((s.refuse n.val t cause where_).prefetch n.val)
      | none =>
        let words := ((s.wingImage (westBay n.val)).find t.chain).getD []
        if 1024 ≤ s.instances ∧ (s.bay n.val).adds t words = true then .next s else .next (s.accept n.val t words)

/-! ### The argument read (R154, R178, R193, R239) -/

/-- The chunk span of each segment of a bonded SEGCTX group, from the descriptor of its first tile (R193): (course,
first chunk, chunks). The last entry's segment has every element from its START on, to the end of the group's range
(R181). -/
def segSpans (g : Bgrp) (t : Tile) (c : Chain) : List (Nat × Nat × Nat) :=
  match c.segread with
  | none => []
  | some w =>
    let d := readDesc t.view (t.maskAddr w)
    (List.range (min g.courses.toNat d.segCount)).map fun j =>
      let lo := segStart t.view d j - d.kpos0
      let hi := if j + 1 < d.segCount then segStart t.view d (j + 1) - d.kpos0
        else (g.c0.toNat + g.n.toNat) * g.chunkSize
      let first := Max.max g.c0.toNat (lo / g.chunkSize)
      let stop := min (g.c0.toNat + g.n.toNat) (cdiv hi g.chunkSize)
      (j, first, stop - first)

/-- Why the argument read refuses a tile, with the entry's WHERE: check 8, then a conflict of the segment contexts that only
the argument set shows (R131, R147, R239, notes/assumptions/124). -/
def State.argCause (s : State) (n : Nat) (t : Tile) (c : Chain) : Option (Nat × Nat) :=
  match s.checkArgs t c with
  | some k => some (k, t.base)
  | none => (leastOf (s.segConflicts n t c)).map fun x => (cCONFLICT, x)

/-- ARGUMENT_READ: with the copies read, check 8 is made; a failing tile is refused and its acceptance undone (R227,
R239, R240). -/
def execArgumentRead (n : Fin 32) (slot : BitVec 6) (s : State) : Host.Outcome State Fault Refusal :=
  match (s.bay n.val).tile? slot.toNat with
  | none => .next s
  | some t =>
    if !t.isAccepted || !t.argArrived || t.argDone then .next s
    else
      let c := chainOf t.words
      match s.argCause n.val t c with
      | some (cause, where_) => .next ((s.refuse n.val t cause where_).prefetch n.val)
      | none =>
        let g := s.group t.bgrp.toNat
        let s := if t.bgrp ≠ 0 ∧ c.segctx.isSome ∧ g.spans = [] then
            s.setGroup t.bgrp.toNat { g with spans := segSpans g t c }
          else s
        .next (s.mapBay n.val fun b => b.mapTile slot.toNat fun x => { x with argDone := true })

/-! ### Admission (R19, R174, R175, R219, R236) -/

/-- May the tile still turn out to carry over: under SEGCTX its argument set decides (R192)? -/
def Tile.mayCarry (t : Tile) (h : HeldOp) : Bool :=
  t.carries h || (h.carry && t.ctxBase == h.tile.ctxBase && t.chain == h.tile.chain && t.bgrp == h.tile.bgrp && !t.overwrite
    && (chainOf t.words).segctx.isSome && !t.argDone)

/-- The discard of a delivery for replay: the token leaves, the slot and entries are freed, the credit comes back, the
marks are removed, and NEXT stays (R174, R175, R232). -/
def State.replayDiscard (s : State) (n : Nat) (t : Tile) : State :=
  let s := (s.unmark t).pushSo n [tokenReplay t.seq (t.shift.toNat + 1)]
  (s.mapBay n fun b => { b.dropTile t.slot with
    hdrCredits := b.hdrCredits + 1
    replay := some (t.seq, t.shift + 1) }).prefetch n

/-- A lane that goes on with an operation that was written back before the header of its next tile came: with its top-k buffer
and segment runs, and in a bonded operation with MAXV and MINV, which run on across its tiles and which SCALEOUT reads;
they merge into the stored context again without a change (R19, R127, R173, R253, notes/assumptions/29). -/
def Lane.resumed (l : Lane) (bonded : Bool) (o : Option Lane) : Lane :=
  match o with
  | some k => { l with
    ctx := if bonded then { l.ctx with
        maxv := k.ctx.maxv
        minv := k.ctx.minv }
      else l.ctx
    topk := k.topk
    segs := k.segs }
  | none => l

/-- The tile takes the lanes: the staging copy, or the registers that carry over, and OPEN leaves (R19, R51, R163,
R236, R243). An operation that goes on after its write-back finds the contexts of its open segment in the Scaffold (R192).
A NORM with XSRC ≠ 0 reads the total that the contexts then in the lanes name (R368, notes/assumptions/145). -/
def State.takeLanes (s : State) (n : Nat) (t : Tile) (c : Chain) : State :=
  let b := s.bay n
  let chunks := t.chunks (s.group t.bgrp.toNat).chunkSize
  let t := { t with status := .admitted }
  let fresh : HeldOp :=
    ⟨t.ctxBase, t.chain, t.bgrp, t.overwrite, none, chunks, t.courses c, chainTotals t c, true, t⟩
  let totals := fun (l : Lane) => (s.total l.ctx.etx.toNat).read
  let reads := c.stages.any fun w => stOp w == opNORM && bits w 28 27 != 0
  let kept := match b.resume with
    | some (h, ls) => if t.carries h then some (h, ls) else none
    | none => none
  let start := match kept with
    | some (h, _) => { fresh with segCtx := h.segCtx }
    | none => fresh
  let lanes := match b.held with
    | some _ => b.lanes.map fun l => { l with etRead := if reads then totals l else 0 }
    | none => t.staged.mapIdx fun r x =>
      (s.mkLane c t (start.ctxOf r) (if start.segCtx.isSome then s.ctx (start.ctxOf r) else x)).resumed
        (decide (t.bgrp ≠ 0)) (kept.bind fun k => k.2[r]?)
  let held := match b.held with
    | some h => { h with
      chunks := h.chunks ++ chunks
      courses := h.courses ++ t.courses c
      totals := h.totals ++ chainTotals t c
      tile := t }
    | none => start
  let s := s.mapBay n fun b => { b.mapTile t.slot (fun _ => { t with staged := [] }) with
    act := some ⟨t.seq, s.ctl.srSeed, s.ctl.srStep, 0, 0, 0, false⟩
    held := some held
    lanes := lanes
    resume := none }
  if c.toSo then s.pushSo n [tokenOpen t c] else s

/-- The first poisoned context among those of the segments that a tile brings in, but for the segment that the lanes hold
already and that the tile carries on (R192, R338). -/
def State.segPoison (s : State) (n : Nat) (t : Tile) (c : Chain) : Option Nat :=
  let inLanes := match (s.bay n).held with
    | some h => h.segCtx.map fun p => p.1 + 256 * p.2
    | none => none
  (((t.segCourses c).filter fun x => inLanes != some x).flatMap fun x => (List.range 256).map (x + ·)).find?
    fun x => s.poison.contains x

/-- TILE_ADMISSION: the tile whose SEQ is NEXT takes the lanes when the conditions of R236 hold. Under STATE SKIP a gated
tile is discarded instead, a tile whose prefetch of its segments meets a poisoned context is refused (R192, R338,
notes/assumptions/159), and a delivery whose overflow flag is set with SHIFT below 3 is discarded for replay. -/
def execTileAdmission (n : Fin 32) (s : State) : Host.Outcome State Fault Refusal :=
  let s := s.skipGated n.val
  let b := s.bay n.val
  match b.nextTile? with
  | none => .next s
  | some t =>
    let c := chainOf t.words
    let ready := match b.held with
      | some h => t.carries h
      | none => !t.staged.isEmpty
    let prepared := s.spare.preps.all fun q => q.2 != n.val
    if s.pwr.phase = .run ∧ t.isAccepted = true ∧ b.act = none ∧ t.argDone = true ∧ ready = true ∧ prepared = true
        ∧ s.bayOn n.val = true ∧ (s.gated t.chain = true → s.gn.state = 2)
        ∧ (c.has opOVFCHK = true → t.lastSeen = true) then
      match s.segPoison n.val t c with
      | some x => .next ((s.eccRefuse n.val t x).prefetch n.val)
      | none =>
        if c.has opOVFCHK && t.ovf then
          if t.shift.toNat < 3 then .next (s.replayDiscard n.val t)
          else .next ((s.logE cREPLAYSAT 0 n.val t.chain.toNat 0 t.seq.toNat t.base t.e0).takeLanes n.val t c)
        else .next (s.takeLanes n.val t c)
    else .next s

/-! ### Retirement and write-back -/

/-- NEXT advances past the tile, and its header credit comes back (R227, R232, R235). -/
def State.advance (s : State) (n : Nat) (t : Tile) : State :=
  (s.mapBay n fun b => { b.dropTile t.slot with
    next := b.next + 1
    hdrCredits := b.hdrCredits + 1
    replay := none }).prefetch n

/-- Has the tile's last output entered the egress queue, is every memory write and record of it acknowledged, and every run of
the bay taken (R227, R244)? -/
def State.tileQuiet (s : State) (n : Nat) (t : Tile) : Bool :=
  (s.bay n).stalled.isEmpty
    && s.writes.all (fun w => w.writer != .tile n t.seq && w.writer != .record n t.seq)
    && s.runs.all fun r => r.source != n

/-- Is the tile refused with BAYLOST (R341)? -/
def Tile.isLostTile (t : Tile) : Bool :=
  match t.status with
  | .refused c _ => c.toNat == cBAYLOST
  | _ => false

/-- A refused tile retires: its error-log entry, if it has yet to be made, its ERROR token, and NEXT (R240). The token enters the
egress queue of a gated bay too, and stands behind a full one (notes/assumptions/169 and 170). -/
def State.retireRefused (s : State) (n : Nat) (t : Tile) (cause : BitVec 8) (entry : Option (W32 × W32)) : State :=
  let s := match entry with
    | some e => s.logE cause.toNat 0 n t.chain.toNat 0 t.seq.toNat e.1.toNat e.2.toNat
    | none => s
  (s.pushSo n [tokenError t.seq cause.toNat t.chain.toNat]).advance n t

/-- Has a refused or skipped tile nothing more to wait for (R240)? In a lost bay no tile waits for beats, since none gets
credits for them (R34, R341, notes/assumptions/103). -/
def State.leaves (s : State) (n : Nat) (t : Tile) : Bool :=
  t.lastSeen || (s.tileChain n t).insrc || t.isLostTile || s.isLost n

/-- TILE_RETIREMENT: the tile whose SEQ is NEXT retires: a processed tile once its effects are done, a refused tile with
its ERROR token, a skipped one without (R219, R227, R240, R369). -/
def execTileRetirement (n : Fin 32) (s : State) : Host.Outcome State Fault Refusal :=
  let s := if s.pwr.phase = .run then s.skipGated n.val else s
  let b := s.bay n.val
  match b.nextTile? with
  | none => .next s
  | some t =>
    if s.pwr.phase ≠ .run then .next s
    else
      match t.status with
      | .admitted =>
        match b.act with
        | none => .next s
        | some a =>
          if a.done t (chainOf t.words) && s.tileQuiet n.val t then
            let s := s.mapBay n.val fun b => { b with
              act := none
              held := b.held.map fun h => { h with carry := h.carry && !a.ended } }
            let s := if a.ended then s.pushSo n.val [tokenError t.seq cSIPROTO t.chain.toNat] else s
            .next (s.advance n.val t)
          else .next s
      | .refused cause entry =>
        if s.leaves n.val t then .next (s.retireRefused n.val t cause entry) else .next s
      | .skipped => if s.leaves n.val t then .next (s.advance n.val t) else .next s
      | _ => .next s

/-- The registers of the operation that the lanes hold go back to the Scaffold (R19, R127). What the Scaffold does not hold, the
top-k buffers and the runs of SEG stages, stays for a tile that still carries the operation on (notes/assumptions/29); after a
protocol error nothing does (R369). -/
def State.backOp (s : State) (n : Nat) (h : HeldOp) : State :=
  let c := chainOf h.tile.words
  let s := if c.segctx.isSome && h.segCtx.isNone then s else s.writeLanes h 0 (s.bay n).lanes
  s.mapBay n fun b => { b with
    lanes := []
    held := none
    resume := if h.carry then some (h, b.lanes) else none }

/-- The operation that the lanes hold leaves flight, and the prefetches of tiles behind it go on (R19, R130). -/
def State.endOp (s : State) (n : Nat) (h : HeldOp) : State := (s.backOp n h).prefetch n

/-- CONTEXT_WRITE_BACK: the lane context registers return to the Scaffold once no tile holds the lanes and the next tile
does not carry them over (R19). -/
def execContextWriteBack (n : Fin 32) (s : State) : Host.Outcome State Fault Refusal :=
  let b := s.bay n.val
  match b.held with
  | none => .next s
  | some h =>
    let carried := match b.nextTile? with
      | some t => t.isAccepted && t.mayCarry h
      | none => false
    if b.act.isSome || carried || decide (s.pwr.phase ≠ .run) then .next s else .next (s.endOp n.val h)

/-! ### SO, the memory ports and the droop counters -/

/-- SO_TRANSFER: the oldest entry of the egress queue leaves; SO of a gated bay is idle, but for the ERROR tokens of a lost
one (R34, R241). -/
def execSoTransfer (n : Fin 32) (s : State) : Host.Outcome State Fault Refusal :=
  if s.pwr.stopped || s.testing || !(s.bayOn n.val || s.isLost n.val) then .next s
  else .next (s.mapBay n.val fun b => b.sends b.egress.tail)

/-- MEMORY_WRITE_ACK: the oldest write of the port is visible to every later read (R244), and its place in the queue is
free. -/
def execMemoryWriteAck (port : Fin 4) (s : State) : Host.Outcome State Fault Refusal :=
  match s.mpq.getD port.val [] with
  | [] => .next s
  | w :: rest =>
    if s.pwr.stopped then .next s
    else
      .next (State.admitWrites { s with
        mem := memSetMasked s.mem w.cells
        mpq := s.mpq.set port.val rest
        spilled := match w.writer with
          | .spill slot => s.spilled.map fun x => if x.slot = slot then { x with acked := true } else x
          | _ => s.spilled })

/-- A memory-input beat: element `i` of every row under argument word INARG (R155, R231). -/
def inputBeat (m : List Host.Cell) (t : Tile) (c : Chain) (i : Nat) : Beat :=
  packBeat c.infmt ((List.range 256).map fun r => layoutCode m (t.arg c.inarg) c.infmt r i)

/-- MEMORY_READ_RESPONSE: the bytes that memory returned are what the block sees of memory from now on, and the read's
target takes them: the argument set with every copy that R154, R161 and R178 name, one input beat, the second input of
one beat, or a spilled node. -/
def execMemoryReadResponse (_port : Fin 4) (target : ReadTarget) (data : List (Nat × Byte)) (s : State) :
    Host.Outcome State Fault Refusal :=
  if s.pwr.stopped then .next s
  else
    let m := memSetMany s.mem data
    match target with
    | .argSet n slot =>
      match (s.bay n.val).tile? slot.toNat with
      | none => .next s
      | some t =>
        if t.isAccepted && !t.argArrived && (!s.gated t.chain || s.gn.state == 2) then
          .next ({ s with mem := m }.mapBay n.val fun b => b.mapTile slot.toNat fun x =>
            { x with argArrived := true, args := s.argWords m t.argset.toNat, view := m })
        else .next s
    | .inputBeat n slot =>
      match (s.bay n.val).tile? slot.toNat with
      | none => .next s
      | some t =>
        let c := chainOf t.words
        if (t.isAccepted || t.status == .admitted) && t.argDone && c.insrc && decide (t.arrived < t.nbeats)
            && !(s.bay n.val).endedTile t && (s.bay n.val).room t 1 then
          .next ({ s with mem := m }.mapBay n.val fun b => b.mapTile slot.toNat fun x =>
            x.take true (decide (t.arrived + 1 = t.nbeats)) x.ovf (inputBeat m t c t.arrived))
        else .next s
    | .second n slot =>
      match (s.bay n.val).tile? slot.toNat with
      | none => .next s
      | some t =>
        if (t.isAccepted || t.status == .admitted) && t.argDone && (chainOf t.words).secen
            && decide (t.secondRead < t.nbeats) then
          .next ({ s with mem := m }.mapBay n.val fun b => b.mapTile slot.toNat fun x =>
            { x with secondRead := x.secondRead + 1 })
        else .next s
    | .spill g ctx level node =>
      match s.spilled.find? fun x => x.entry.isNode g ctx level.toNat node.toNat with
      | none => .next s
      | some x =>
        if x.acked && !x.arrived then
          .next { s with
            mem := m
            spilled := s.spilled.map fun y =>
              if y.slot = x.slot then
                { y with
                  arrived := true
                  entry := BondEntry.ofWord (memRead m (s.ctl.spillBase.toNat + 16 * x.slot.toNat) 16) }
              else y }
        else .next s

/-- DROOP_STRETCH: one stretch event of a powered bay (R247, R248, R250), but in the commit window of a Stop entry
(notes/assumptions/157). -/
def execDroopStretch (n : Fin 32) (s : State) : Host.Outcome State Fault Refusal :=
  if s.bayOn n.val && decide (s.pwr.phase ≠ .committed) then
    .next (s.mapBay n.val fun b => { b with
      events := satAdd b.events 1
      window := b.window + 1 })
  else .next s

/-- Has the physical bay that serves logical bay `n` no good droop comparator left, so that it stretches every ac (R340)? -/
def State.stretchesAll (s : State) (n : Nat) : Bool :=
  let m := s.spare.bay (s.physBay n)
  m.cmp && m.cmpx

/-- LATERISK_WINDOW: a window of 1,024 ac ends; more events than ALLOW set LATE and make an entry (R248, R250, R270). A bay
without a comparator has stretched each of them (R340). In the commit window of a Stop entry the bays are being isolated, and
nothing comes of it (R272, R314, notes/assumptions/157). -/
def execLateriskWindow (n : Fin 32) (s : State) : Host.Outcome State Fault Refusal :=
  if s.bayOn n.val && decide (s.pwr.phase ≠ .committed) then
    let w := if s.stretchesAll n.val then 1024 else (s.bay n.val).window
    let late := decide (s.ctl.allow.toNat < w)
    let s := if late then s.logE cLATERISK 0 n.val 0 0 0 w s.ctl.allow.toNat else s
    .next (s.mapBay n.val fun b => { b with
      events := satAdd b.events (w - b.window)
      window := 0
      worst := BitVec.ofNat 11 (Max.max b.worst.toNat w)
      late := b.late || late })
  else .next s

/-! ### A Lath reset (R325) -/

/-- A tile that a Lath reset ends: one CTXLOST entry, and it retires as a refused tile (R325, R328). -/
def State.loseTile (s : State) (n : Nat) (t : Tile) : State :=
  (s.logE cCTXLOST 0 n 0 0 t.seq.toNat t.base t.chain.toNat).mapBay n fun b => b.mapTile t.slot fun x =>
    { x with status := .refused (BitVec.ofNat 8 cCTXLOST) none, staged := [], data := [], args := [], view := [] }

/-- Every tile of a bay that is accepted and not retired is ended with its records, and the lanes hold nothing (R325). -/
def State.loseTiles (s : State) (n : Nat) : State :=
  let b := s.bay n
  let hit := b.tiles.filter fun t => t.isAccepted || t.status == .admitted
  ((hit.foldl (fun (s : State) t => s.loseTile n t) s).dropRecords n (hit.map Tile.seq)).mapBay n fun b => { b with
    act := none
    held := none
    lanes := []
    resume := none }

end Sys2Proof.Machine
end

