-- ==== Sys2Proof/Machine/Flags.lean ====
section
/-! DEFINITION. Flags and status that follow other state: the spare pools (R331, R340, R342, R345), the interrupt sources
and lines (R71, R249, R273), the status words of R274, and the conditions that a Stop, a wing start and EXTEST ask for
(R302, R313). -/

namespace Sys2Proof.Machine

/-! ### The spare map -/

/-- The physical bays in service: those that the map gives to a logical bay that is not lost. -/
def Spare.inService (x : Spare) : List Nat :=
  ((List.range 32).filter fun n => !x.isLost n).map x.mapped

/-- Number of set bits below `n`. -/
def popCount (n x : Nat) : Nat := ((List.range n).filter fun i => bit x i).length

/-- Is the pool of a KIND exhausted (R340)? -/
def Spare.exhausted (x : Spare) (kind : Nat) : Bool :=
  match kind with
  | 0 => x.inService.any fun p => decide (8 ≤ (x.bay p).lanes.length)
  | 1 => x.eUse || bit x.retired.toNat 32 || x.wUse || bit x.retired.toNat 33
  | 2 => decide (x.scf0 ≠ 0x1F) || x.scf0x || decide (x.scf1 ≠ 0x1F) || x.scf1x
  | 3 => decide (x.bond ≠ 0x1F) || x.bondx
  | 4 => x.inService.any fun p => decide (16 ≤ (x.bay p).rows.length)
  | 5 => decide (2 ≤ popCount 10 x.cores.toNat)
  | 6 => decide (x.mortar ≠ 0)
  | 7 => x.inService.any fun p => (x.bay p).cmp || (x.bay p).cmpx
  | _ => false

/-- SPARE_STATUS.EXHAUST. -/
def Spare.exhaust (x : Spare) : Nat := ((List.range 8).map fun k => b2n (x.exhausted k) * 2 ^ k).sum

/-- SPARE_STATUS.LOST. -/
def Spare.lost (x : Spare) : Nat := ((List.range 32).map fun n => b2n (x.isLost n) * 2 ^ n).sum

/-- DEGRADED of BLK_STATUS (R342). -/
def Spare.degraded (x : Spare) : Bool := decide (x.exhaust ≠ 0) || decide (x.lost ≠ 0)

/-- SPARE_STATUS.PENDING. -/
def Spare.pending (x : Spare) : Bool :=
  !x.waiting.isEmpty || !x.copies.isEmpty || !x.preps.isEmpty || !x.unwritten.isEmpty

/-! ### Status words and interrupts -/

/-- The LATE bits of the logical bays: DROOP_TOTAL.LATE (R250). -/
def State.lateBits (s : State) : Nat := ((List.range 32).map fun n => b2n (s.bay n).late * 2 ^ n).sum

/-- IRQ_STATUS.SOURCES (R273). -/
def State.irqSources (s : State) : Nat :=
  b2n s.nan.valid + 2 * b2n (decide (s.lateBits ≠ 0))
    + 4 * b2n (!s.log.ring.isEmpty || decide (s.log.ovf ≠ 0)) + 8 * b2n s.route.done + 16 * b2n s.stx.done
    + 32 * b2n s.gn.decided + 64 * b2n s.xp.foldDone + 128 * b2n (s.sem.lostA || s.sem.lostB)
    + 256 * b2n s.spare.dnew + 512 * b2n s.spare.rnew + 1024 * b2n s.img.event

/-- The level of IRQ_A and of IRQ_B: the OR of the sources, and 0 while STOPPED is 1 (R273, R321). -/
def State.irq (s : State) : Bool := !s.pwr.stopped && decide (s.irqSources ≠ 0)

/-- BLK_STATUS (R274). -/
def State.blkStatus (s : State) : Nat :=
  b2n s.img.eastReady + 2 * b2n s.img.westReady + 4 * b2n s.img.genDiff + 8 * b2n s.spare.degraded
    + 16 * b2n (decide (s.lateBits ≠ 0))

/-! ### Is the block at rest? -/

/-- Does a tile hold beat credits granted and not used (R302, R312, R313)? -/
def Tile.unused (t : Tile) : Bool := decide (t.arrived < t.granted)

/-- Is any bond group armed and not DONE? -/
def State.anyArmed (s : State) : Bool := s.groups.any fun g => g.2.open

/-- Does some pass, round or fold run, or a group stand armed (R302, R313)? -/
def State.working (s : State) : Bool :=
  decide (s.instances ≠ 0) || s.anyArmed || s.xp.foldArm || s.gn.state == 1 || s.route.busy || s.stx.busy

/-- The conditions that make a STOP write BUSY (R313). -/
def State.stopBlocked (s : State) : Bool :=
  s.bays.any (fun b => !b.tiles.isEmpty || !b.soq.isEmpty) || s.working || s.img.busy

/-- The logical bays of a wing. -/
def wingBays (west : Bool) : List Nat := (List.range 16).map fun i => if west then i + 16 else i

/-- The conditions that make RESTART_WING BUSY (R302). -/
def State.wingBusy (s : State) (west : Bool) : Bool :=
  s.working || (wingBays west).any fun n => !(s.bay n).tiles.isEmpty || decide ((s.bay n).hdrCredits ≠ 64)

end Sys2Proof.Machine
end

