-- ==== Sys2Proof/Machine/Regs.lean ====
section
/-! DEFINITION. The Lath address map (R275): which register or window an address names, which writes are guarded (R263),
and what each register reads as (R11, R12 and the register tables of every chapter). -/

namespace Sys2Proof.Machine

/-- A register or window word of the map. -/
inductive Reg where
  | idBlock | blkStatus | irqStatus | lathSelf
  | semOwner | semCmd
  | errHead | errOvf | errPop | errEntry (k : Nat)
  | nanStatus | nanWhere | nanElement | nanCount
  | imgStatus | imgGen | imgHashE (k : Nat) | imgHashW (k : Nat) | imgCmd | imgCopygen (c : Nat) | startInfo
  | startRec (k : Nat)
  | pwrStatus | pwrDomains | pwrCmd | pwrBayoff | wakeCtl | wakeStatus | droopCal (p : Nat)
  | srSeed | srStep | argsetBase
  | routeSrc | routeDst | routeCnt | routeCtl | routeCmd | routeStatus
  | stxSrc | stxDst | stxCmd | stxStatus
  | gnCtl | gnTags | gnGate | gnArgdst | gnCmd | gnStatus | gnResult | gnVote | optStep
  | xpCfg | xpAper (n : Nat) | xpRemote (n : Nat) | xpFold | xpFoldStatus | xpDrops | bgrpXp (g : Nat)
  | hodWindow (n : Nat) | hodDroop (n : Nat) | droopCtl | droopTotal
  | chvSel | chvStatus | chvWord (k : Nat) | chvTotal
  | ctxAlloc | ctxFree | ctxBase | ctxCount | bsStatus | bsSpillBase | bsSpillSize | bsReserved
  | bgrpDef (g : Nat) | bgrpRange (g : Nat) | ctxMap (w : Nat) | ctxTag (w : Nat) | window (k : Nat)
  | etSel | etWord (k : Nat) | etStatus | etCmd | etLoad | etView (i : Nat)
  | spareBays | spareBanks | spareCores | spareStatus | patrolCtl | patrolStatus | spareCmd | bayMap (k : Nat)
  | lcStatus | dbgCmd | dbgStatus | dbgChal (k : Nat) | dbgResp (k : Nat) | dbgViewsel
  | tableView (k : Nat) | coreView (k : Nat)
deriving DecidableEq, Repr

/-- A run of registers: base address, step, count, and what the `i`-th is. -/
structure RegRow where
  base : Nat
  step : Nat
  count : Nat
  reg : Nat → Reg

/-- Identity, semaphore, error log, NaN trap (R68, R264, R271, R274) and the image area (R298). -/
def regRows1 : List RegRow := [
  ⟨0x0000, 8, 1, fun _ => .idBlock⟩, ⟨0x0008, 8, 1, fun _ => .blkStatus⟩, ⟨0x0010, 8, 1, fun _ => .irqStatus⟩,
  ⟨0x0018, 8, 1, fun _ => .lathSelf⟩, ⟨0x1000, 8, 1, fun _ => .semOwner⟩, ⟨0x1008, 8, 1, fun _ => .semCmd⟩,
  ⟨0x2000, 8, 1, fun _ => .errHead⟩, ⟨0x2008, 8, 1, fun _ => .errOvf⟩, ⟨0x2010, 8, 1, fun _ => .errPop⟩,
  ⟨0x2800, 8, 256, .errEntry⟩, ⟨0x3000, 8, 1, fun _ => .nanStatus⟩, ⟨0x3008, 8, 1, fun _ => .nanWhere⟩,
  ⟨0x3010, 8, 1, fun _ => .nanElement⟩, ⟨0x3018, 8, 1, fun _ => .nanCount⟩, ⟨0x4000, 8, 1, fun _ => .imgStatus⟩,
  ⟨0x4008, 8, 1, fun _ => .imgGen⟩, ⟨0x4010, 8, 4, .imgHashE⟩, ⟨0x4030, 8, 4, .imgHashW⟩,
  ⟨0x4050, 8, 1, fun _ => .imgCmd⟩, ⟨0x4058, 8, 3, .imgCopygen⟩, ⟨0x4070, 8, 1, fun _ => .startInfo⟩,
  ⟨0x5000, 8, 512, .startRec⟩]

/-- Power and wake (R327), the seeds and run-controls area (R52, R156, R195, R199, R213, R214, R222), the Hod and droop
registers (R250). -/
def regRows2 : List RegRow := [
  ⟨0x8000, 8, 1, fun _ => .pwrStatus⟩, ⟨0x8008, 8, 1, fun _ => .pwrDomains⟩, ⟨0x8010, 8, 1, fun _ => .pwrCmd⟩,
  ⟨0x8018, 8, 1, fun _ => .pwrBayoff⟩, ⟨0x8020, 8, 1, fun _ => .wakeCtl⟩, ⟨0x8028, 8, 1, fun _ => .wakeStatus⟩,
  ⟨0x8040, 8, 34, .droopCal⟩, ⟨0xC000, 8, 1, fun _ => .srSeed⟩, ⟨0xC008, 8, 1, fun _ => .srStep⟩,
  ⟨0xC010, 8, 1, fun _ => .argsetBase⟩, ⟨0xC018, 8, 1, fun _ => .routeSrc⟩, ⟨0xC020, 8, 1, fun _ => .routeDst⟩,
  ⟨0xC028, 8, 1, fun _ => .routeCnt⟩, ⟨0xC030, 8, 1, fun _ => .routeCtl⟩, ⟨0xC038, 8, 1, fun _ => .routeCmd⟩,
  ⟨0xC040, 8, 1, fun _ => .routeStatus⟩, ⟨0xC048, 8, 1, fun _ => .stxSrc⟩, ⟨0xC050, 8, 1, fun _ => .stxDst⟩,
  ⟨0xC058, 8, 1, fun _ => .stxCmd⟩, ⟨0xC060, 8, 1, fun _ => .stxStatus⟩, ⟨0xC070, 8, 1, fun _ => .gnCtl⟩,
  ⟨0xC078, 8, 1, fun _ => .gnTags⟩, ⟨0xC080, 8, 1, fun _ => .gnGate⟩, ⟨0xC088, 8, 1, fun _ => .gnArgdst⟩,
  ⟨0xC090, 8, 1, fun _ => .gnCmd⟩, ⟨0xC098, 8, 1, fun _ => .gnStatus⟩, ⟨0xC0A0, 8, 1, fun _ => .gnResult⟩,
  ⟨0xC0A8, 8, 1, fun _ => .gnVote⟩, ⟨0xC0B0, 8, 1, fun _ => .optStep⟩, ⟨0xC0B8, 8, 1, fun _ => .xpCfg⟩,
  ⟨0xC0C0, 16, 2, .xpAper⟩, ⟨0xC0C8, 16, 2, .xpRemote⟩, ⟨0xC0E0, 8, 1, fun _ => .xpFold⟩,
  ⟨0xC0E8, 8, 1, fun _ => .xpFoldStatus⟩, ⟨0xC0F0, 8, 1, fun _ => .xpDrops⟩, ⟨0xD000, 8, 256, .bgrpXp⟩,
  ⟨0xE000, 16, 32, .hodWindow⟩, ⟨0xE008, 16, 32, .hodDroop⟩, ⟨0xE200, 8, 1, fun _ => .droopCtl⟩,
  ⟨0xE208, 8, 1, fun _ => .droopTotal⟩]

/-- The chain view (R157), the Scaffold area (R125, R126, R132), the exact totals (R114), the spare map and patrol
(R345), and debug (R356, R363). -/
def regRows3 : List RegRow := [
  ⟨0x10000, 8, 1, fun _ => .chvSel⟩, ⟨0x10008, 8, 1, fun _ => .chvStatus⟩, ⟨0x10010, 8, 17, .chvWord⟩,
  ⟨0x10098, 8, 1, fun _ => .chvTotal⟩, ⟨0x20000, 8, 1, fun _ => .ctxAlloc⟩, ⟨0x20008, 8, 1, fun _ => .ctxFree⟩,
  ⟨0x20010, 8, 1, fun _ => .ctxBase⟩, ⟨0x20018, 8, 1, fun _ => .ctxCount⟩, ⟨0x20020, 8, 1, fun _ => .bsStatus⟩,
  ⟨0x20028, 8, 1, fun _ => .bsSpillBase⟩, ⟨0x20030, 8, 1, fun _ => .bsSpillSize⟩,
  ⟨0x20038, 8, 1, fun _ => .bsReserved⟩, ⟨0x21000, 16, 256, .bgrpDef⟩, ⟨0x21008, 16, 256, .bgrpRange⟩,
  ⟨0x22000, 8, 128, .ctxMap⟩, ⟨0x28000, 8, 4096, .ctxTag⟩, ⟨0x30000, 8, 8192, .window⟩,
  ⟨0x40000, 8, 1, fun _ => .etSel⟩, ⟨0x40008, 8, 5, .etWord⟩, ⟨0x40030, 8, 1, fun _ => .etStatus⟩,
  ⟨0x40038, 8, 1, fun _ => .etCmd⟩, ⟨0x40040, 8, 1, fun _ => .etLoad⟩, ⟨0x60000, 8, 16384, .etView⟩,
  ⟨0x80000, 8, 1, fun _ => .spareBays⟩, ⟨0x80008, 8, 1, fun _ => .spareBanks⟩, ⟨0x80010, 8, 1, fun _ => .spareCores⟩,
  ⟨0x80018, 8, 1, fun _ => .spareStatus⟩, ⟨0x80020, 8, 1, fun _ => .patrolCtl⟩,
  ⟨0x80028, 8, 1, fun _ => .patrolStatus⟩, ⟨0x80030, 8, 1, fun _ => .spareCmd⟩, ⟨0x80100, 8, 272, .bayMap⟩,
  ⟨0xC0000, 8, 1, fun _ => .lcStatus⟩, ⟨0xC0008, 8, 1, fun _ => .dbgCmd⟩, ⟨0xC0010, 8, 1, fun _ => .dbgStatus⟩,
  ⟨0xC0018, 8, 4, .dbgChal⟩, ⟨0xC0038, 8, 8, .dbgResp⟩, ⟨0xC0078, 8, 1, fun _ => .dbgViewsel⟩,
  ⟨0xD0000, 8, 8192, .tableView⟩, ⟨0xE0000, 8, 8192, .coreView⟩]

/-- Does a row hold address `a`, with [2:0] taken as zero (R261)? -/
def RegRow.find (r : RegRow) (a : Nat) : Option Reg :=
  let x := a / 8 * 8
  if r.base ≤ x ∧ (x - r.base) % r.step = 0 ∧ (x - r.base) / r.step < r.count then some (r.reg ((x - r.base) / r.step))
  else none

/-- The register at an address; none where the map is unoccupied (R12, R275). -/
def regOf (a : Nat) : Option Reg := (regRows1 ++ regRows2 ++ regRows3).findSome? fun r => r.find a

/-- Does the register hold a W1C field (R263)? -/
def Reg.isW1c : Reg → Bool
  | .wakeStatus | .routeStatus | .stxStatus | .gnStatus | .xpFoldStatus | .xpDrops | .hodDroop _ | .spareStatus => true
  | _ => false

/-- Is a write to the register at this address guarded (R263)? -/
def guarded (a : Nat) (r : Reg) : Bool := decide (0x8000 ≤ a) && decide (a ≤ 0xBFFFF) && !r.isW1c

/-! ### Reading (R11) -/

/-- The 64-bit words of a context, word 0 first (R120). -/
def RowCtx.word (c : RowCtx) : Nat :=
  c.pivot.toNat + 2 ^ 24 * b2n c.nanSeen + 2 ^ 25 * b2n c.infSeen + 2 ^ 32 * c.psum.toNat + 2 ^ 64 * c.sum.toNat
    + 2 ^ 96 * c.sumsq.toNat + 2 ^ 128 * c.maxv.toNat + 2 ^ 160 * c.minv.toNat + 2 ^ 192 * c.blockloss.toNat
    + 2 ^ 208 * c.etx.toNat + 2 ^ 220 * b2n c.etv + 2 ^ 224 * c.count.toNat

/-- Lifecycle state: default level, ceiling and classes (R351). -/
def lcDefault (lc : BitVec 2) : Nat := match lc.toNat with
  | 0 => 2
  | 1 => 1
  | 2 => 0
  | _ => 1
def lcCeiling (lc : BitVec 2) : Nat := if lc.toNat = 2 then 1 else 2
def lcClasses (lc : BitVec 2) : Nat := match lc.toNat with
  | 1 => 3
  | 2 => 5
  | _ => 1

/-- LC_STATUS (R363). -/
def State.lcStatus (s : State) : Nat :=
  s.dbg.lc.toNat + 4 * lcDefault s.dbg.lc + 16 * s.dbg.level.toNat + 64 * b2n s.dbg.zdone + 256 * lcClasses s.dbg.lc
    + 2048 * lcCeiling s.dbg.lc

/-- DBG_STATUS (R363). -/
def Dbg.status (d : Dbg) : Nat :=
  d.state.toNat + 16 * d.result.toNat + 2 ^ 8 * d.reason.toNat + 2 ^ 16 * d.purpose.toNat + 2 ^ 18 * d.tlevel.toNat
    + 2 ^ 20 * d.target.toNat + 2 ^ 22 * d.source.toNat + 2 ^ 32 * d.refusals.toNat

/-- SEM_OWNER (R264). -/
def Sem.word (x : Sem) : Nat :=
  ownerCode x.owner + 16 * b2n x.lostA + 32 * b2n x.lostB + 2 ^ 32 * x.copy.toNat

/-- ERR_LOG_HEAD (R271). -/
def ErrLog.headWord (l : ErrLog) : Nat := l.head.toNat + 2 ^ 8 * l.ring.length

/-- Word `k` of the entry view: index k / 2, word k mod 2 (R269). -/
def ErrLog.entryWord (l : ErrLog) (k : Nat) : Nat :=
  match l.ring[(k / 2 + 128 - l.head.toNat) % 128]? with
  | none => 0
  | some e => if k % 2 = 0 then e.w0.toNat else e.w1.toNat

/-- Word `k` of 64 bits of a wide value. -/
def word64 (x k : Nat) : Nat := (x >>> (64 * k)) % 2 ^ 64

/-- BGRP_DEF and BGRP_RANGE (R132), BGRP_XP (R222). -/
def Bgrp.defWord (g : Bgrp) : Nat :=
  g.base.toNat + 2 ^ 18 * g.courses.toNat + 2 ^ 29 * b2n g.csize + 2 ^ 30 * b2n g.open + 2 ^ 31 * b2n g.done
    + 2 ^ 32 * g.rootsLeft.toNat
def Bgrp.rangeWord (g : Bgrp) : Nat := g.c0.toNat + 2 ^ 24 * g.n.toNat
def Bgrp.xpWord (g : Bgrp) : Nat := b2n g.send + 2 ^ 8 * g.ownerC0.toNat + 2 ^ 32 * g.ownerN.toNat

/-- Bond instances of one chain in a wing: each operation counts once (R150, R157). -/
def State.chainInstances (s : State) (west : Bool) (id : BitVec 12) : Nat :=
  ((wingBays west).map fun n =>
    ((s.bay n).tiles.filter fun t => t.isAccepted && (s.bay n).begins t && t.chain == id).length
    + (match (s.bay n).held with
      | some h => if h.chain = id then 1 else 0
      | none => 0)).sum

/-- A word of the chain view (R157). -/
def State.chvWord (s : State) (k : Nat) : Nat :=
  match (s.wingImage s.ctl.chvWest).find s.ctl.chvChain with
  | none => 0
  | some ws => if k ≤ (chainOf ws).stages.length then (ws.getD k 0).toNat else 0

/-- A word of the start log view: word w of the j-th newest record (R298). -/
def State.startRecWord (s : State) (k : Nat) : Nat :=
  let slot := (s.img.startNo.toNat + 2 ^ 32 - k / 32) % 16384
  nvmRead s.nvm (0x1800000 + 256 * slot + 8 * (k % 32)) 8

/-- BAYMAP[p] word w (R345). -/
def BayMap.word (m : BayMap) (w : Nat) : Nat :=
  let quad := fun (f : Nat → Option Nat) => ((List.range 4).map fun i => match f i with
    | some x => (x + 2 ^ 15) * 2 ^ (16 * i)
    | none => 0).sum
  if w < 2 then quad fun i => (m.lanes[4 * w + i]?).map BitVec.toNat
  else if w < 6 then quad fun i => (m.rows[4 * (w - 2) + i]?).map BitVec.toNat
  else if w = 6 then b2n m.cmp + 2 * b2n m.cmpx + 4 * m.check.toNat
  else m.soft.toNat + 2 ^ 32 * m.samples.toNat

/-- The spare registers (R345). -/
def Spare.baysWord (x : Spare) : Nat :=
  x.retired.toNat + 2 ^ 34 * b2n x.eUse + 2 ^ 35 * x.eFor.toNat + 2 ^ 39 * b2n x.wUse + 2 ^ 40 * x.wFor.toNat
def Spare.banksWord (x : Spare) : Nat :=
  x.scf0.toNat + 2 ^ 5 * b2n x.scf0x + 2 ^ 8 * x.scf1.toNat + 2 ^ 13 * b2n x.scf1x + 2 ^ 16 * x.bond.toNat
    + 2 ^ 21 * b2n x.bondx + 2 ^ 22 * (x.copies.headD 0).toNat
def Spare.coresWord (x : Spare) : Nat :=
  x.cores.toNat + 2 ^ 16 * (x.activeCores.map fun c => 2 ^ c).sum + 2 ^ 32 * x.mortar.toNat
def Spare.statusWord (x : Spare) : Nat :=
  x.exhaust + 2 ^ 8 * b2n x.dnew + 2 ^ 9 * b2n x.rnew + 2 ^ 10 * b2n x.pending + 2 ^ 32 * x.lost
def Spare.patrolCtlWord (x : Spare) : Nat := b2n x.patrolEn + 2 * x.rate.toNat + 32 * b2n x.spareTest
def Spare.patrolStatusWord (x : Spare) : Nat := x.sweeps.toNat + 2 ^ 32 * x.left.toNat

/-- Word `w` of logical row `i` of a bay's table store: the word of the loaded tables that the row holds there. Which table
lies in which row no rule says (notes/assumptions/5); a place that holds no table is open, but for a store that R362 has
zeroed. -/
def State.tableWord (s : State) (west : Bool) (i w : Nat) : W64 :=
  let im := s.wingImage west
  let place := Config.tablePlace (im.tables.map fun t => (t.id, t.body.length)) i w
  match (im.tables.find? fun t => t.id == place.1).bind fun t => t.body[place.2]? with
  | some x => x
  | none => if s.rowsZero then 0 else Config.tableStoreWord (if west then s.img.genW.toNat else s.img.genE.toNat) i w

/-- The table view: row ROWBASE + k / 64, word k mod 64, of the physical bay selected (R331, R356). A retired row's own
contents are open, but in a store that R362 has zeroed. -/
def State.tableViewWord (s : State) (k : Nat) : Nat :=
  let p := s.dbg.viewBay.toNat
  let row := s.dbg.rowBase.toNat + k / 64
  let west := decide (16 ≤ p ∧ p ≠ 32)
  if 1295 < row ∨ bit s.spare.retired.toNat p ∨ !bit s.pwr.domains.toNat p then 0
  else
    match s.spare.rowHeld p row with
    | some i => (s.tableWord west i (k % 64)).toNat
    | none => if s.rowsZero then 0 else (Config.tableStoreWord (if west then s.img.genW.toNat else s.img.genE.toNat) row (k % 64)).toNat

/-- A word of a core's SRAM: what COREDBG wrote, zero in a data SRAM that R362 has zeroed, otherwise a free value, since no
rule gives the firmware's data (notes/assumptions/3). -/
def State.coreWord (s : State) (core w salt : Nat) : Nat :=
  let c := s.cores.getD core Core.reset
  match c.sram.find? fun p => p.1 == w with
  | some p => p.2.toNat
  | none => if c.zeroed && decide (8192 ≤ w) then 0 else Config.freeValue (s.free + salt) % 2 ^ 32

/-- The core view: two SRAM words of the core selected (R356). -/
def State.coreViewWord (s : State) (k : Nat) : Nat :=
  let c := s.dbg.viewCore.toNat
  if bit s.spare.cores.toNat c then 0 else s.coreWord c (2 * k) 0 + 2 ^ 32 * s.coreWord c (2 * k + 1) 1

/-- What a register reads as; `b` says that the read comes through Lath B. -/
def State.readReg (s : State) (b : Bool) (r : Reg) : Nat :=
  match r with
  | .idBlock => 0x24260
  | .blkStatus => s.blkStatus
  | .irqStatus => s.irqSources
  | .lathSelf => b2n b
  | .semOwner => s.sem.word
  | .errHead => s.log.headWord
  | .errOvf => s.log.ovf.toNat
  | .errEntry k => s.log.entryWord k
  | .nanStatus => b2n s.nan.valid + 2 * b2n s.nan.xp + 2 ^ 8 * s.nan.bay.toNat
  | .nanWhere => s.nan.chain.toNat + 2 ^ 12 * s.nan.stage.toNat + 2 ^ 16 * s.nan.cause.toNat + 2 ^ 24 * s.nan.row.toNat
      + 2 ^ 32 * s.nan.context.toNat
  | .nanElement => s.nan.element.toNat + 2 ^ 32 * s.nan.tileSeq.toNat
  | .nanCount => s.nan.count.toNat
  | .imgStatus => b2n s.img.busy + 2 * s.img.op.toNat + 16 * b2n s.img.event + 2 ^ 8 * s.img.result.toNat
      + 2 ^ 16 * s.img.speed.toNat + 2 ^ 18 * s.img.copyE.toNat + 2 ^ 20 * s.img.copyW.toNat
      + 2 ^ 22 * s.img.fwCopy.toNat + 2 ^ 24 * s.img.preferred.toNat
  | .imgGen => s.img.genE.toNat + 2 ^ 32 * s.img.genW.toNat
  | .imgHashE k => word64 s.img.hashE.toNat k
  | .imgHashW k => word64 s.img.hashW.toNat k
  | .imgCopygen c =>
    let x := s.img.copies.getD c ⟨0, false, false⟩
    x.gen.toNat + 2 ^ 32 * b2n x.valid + 2 ^ 33 * b2n x.failed
  | .startInfo => s.img.startNo.toNat + 2 ^ 32 * s.img.kind.toNat + 2 ^ 36 * s.img.skipMask.toNat
  | .startRec k => s.startRecWord k
  | .pwrStatus => b2n (match s.pwr.phase with
        | .entering _ => true
        | .saved => true
        | _ => false)
      + 2 ^ 4 * s.pwr.lastCause.toNat + 2 ^ 8 * s.pwr.fstop.toNat + 2 ^ 32 * s.pwr.stopCount.toNat
  | .pwrDomains => s.pwr.domains.toNat
  | .pwrBayoff => s.pwr.bayOff.toNat
  | .wakeCtl => s.pwr.thresh.toNat + 16 * b2n s.pwr.pol + 32 * b2n s.pwr.en
  | .wakeStatus => b2n s.pwr.level + 2 * b2n s.pwr.lost + 4 * b2n s.pwr.taken
  | .droopCal p =>
    let x := s.pwr.droopCal.getD p (0, 0)
    x.1.toNat + 64 * x.2.toNat
  | .srSeed => s.ctl.srSeed.toNat
  | .srStep => s.ctl.srStep.toNat
  | .argsetBase => s.ctl.argsetBase.toNat
  | .routeSrc => s.route.src.toNat
  | .routeDst => s.route.dst.toNat
  | .routeCnt => s.route.cnt.toNat
  | .routeCtl => s.route.ctl.toNat
  | .routeStatus => b2n s.route.busy + 2 * b2n s.route.done + 4 * b2n s.route.badIdx + 2 ^ 32 * s.route.doneRecs.toNat
  | .stxSrc => s.stx.src.toNat
  | .stxDst => s.stx.dst.toNat
  | .stxStatus => b2n s.stx.busy + 2 * b2n s.stx.done + 2 ^ 32 * s.stx.doneCnt.toNat
  | .gnCtl => s.gn.ctl.toNat
  | .gnTags => s.gn.tags.toNat
  | .gnGate => s.gn.gate.toNat
  | .gnArgdst => s.gn.argDst.toNat
  | .gnStatus => s.gn.state.toNat + 4 * b2n s.gn.flag + 8 * b2n s.gn.decided + 2 ^ 32 * s.gn.skips.toNat
  | .gnResult => s.gn.sumsq.toNat + 2 ^ 32 * s.gn.clip.toNat
  | .gnVote => s.gn.votes.toNat + 2 ^ 32 * s.gn.shards.toNat
  | .optStep => s.gn.optStep.toNat
  | .xpCfg => s.xp.shard.toNat
  | .xpAper n => if n = 0 then s.xp.aper0.toNat else s.xp.aper1.toNat
  | .xpRemote n => if n = 0 then s.xp.remote0.toNat else s.xp.remote1.toNat
  | .xpFold => s.xp.foldBase.toNat + 2 ^ 14 * s.xp.foldCount.toNat + 2 ^ 27 * s.xp.foldFrames.toNat
      + 2 ^ 51 * b2n s.xp.foldArm
  | .xpFoldStatus => s.xp.left.toNat + 2 ^ 24 * b2n s.xp.foldDone
  | .xpDrops => s.xp.drops.toNat
  | .bgrpXp g => if g = 0 then 0 else (s.group g).xpWord
  | .hodWindow n => (s.bay n).next.toNat + 2 ^ 32 * (s.bay n).tiles.length + 2 ^ 40 * (s.bay n).stored
  | .hodDroop n => (s.bay n).events.toNat + 2 ^ 32 * (s.bay n).worst.toNat + 2 ^ 43 * b2n (s.bay n).late
  | .droopCtl => s.ctl.allow.toNat
  | .droopTotal => s.lateBits
  | .chvSel => s.ctl.chvChain.toNat + 2 ^ 12 * b2n s.ctl.chvWest
  | .chvStatus => b2n ((s.wingImage s.ctl.chvWest).find s.ctl.chvChain).isSome
      + 2 ^ 8 * s.chainInstances s.ctl.chvWest s.ctl.chvChain
  | .chvWord k => s.chvWord k
  | .chvTotal => s.instances + 2 ^ 12 * (s.wingImage s.ctl.chvWest).chains.length
  | .ctxBase => s.ctl.ctxBase.toNat
  | .ctxCount => 32 * s.alloc.length
  | .bsStatus => s.store.length + 2 ^ 18 * s.spilled.length
  | .bsSpillBase => s.ctl.spillBase.toNat
  | .bsSpillSize => s.ctl.spillSize.toNat
  | .bsReserved => s.reserved
  | .bgrpDef g => if g = 0 then 0 else (s.group g).defWord
  | .bgrpRange g => if g = 0 then 0 else (s.group g).rangeWord
  | .ctxMap w => ((List.range 64).map fun b => b2n (s.alloc.contains (64 * w + b)) * 2 ^ b).sum
  | .ctxTag w => (sget 0 s.tags (2 * w)).toNat + 2 ^ 32 * (sget 0 s.tags (2 * w + 1)).toNat
  | .window k =>
    let c := s.ctl.ctxBase.toNat + k / 4
    if s.allocated c then word64 (s.ctx c).word (k % 4) else 0
  | .etSel => s.ctl.etSel.toNat
  | .etWord k => word64 (s.total s.ctl.etSel.toNat).t.toNat k
  | .etStatus => (s.total s.ctl.etSel.toNat).status
  | .etLoad => s.ctl.etLoad.toNat
  | .etView i =>
    let x := s.total i
    x.read.toNat + 2 ^ 32 * b2n x.limit + 2 ^ 33 * b2n x.ovf + 2 ^ 34 * b2n x.pinf + 2 ^ 35 * b2n x.ninf
      + 2 ^ 36 * b2n x.nan + 2 ^ 37 * x.mode.toNat + 2 ^ 39 * b2n (s.totalInFlight i)
  | .spareBays => s.spare.baysWord
  | .spareBanks => s.spare.banksWord
  | .spareCores => s.spare.coresWord
  | .spareStatus => s.spare.statusWord
  | .patrolCtl => s.spare.patrolCtlWord
  | .patrolStatus => s.spare.patrolStatusWord
  | .bayMap k => (s.spare.bay (k / 8)).word (k % 8)
  | .lcStatus => s.lcStatus
  | .dbgStatus => s.dbg.status
  | .dbgChal k => word64 s.dbg.chal.toNat k
  | .dbgResp k => word64 s.dbg.resp.toNat k
  | .dbgViewsel => s.dbg.viewBay.toNat + 2 ^ 16 * s.dbg.rowBase.toNat + 2 ^ 32 * s.dbg.viewCore.toNat
  | .tableView k => s.tableViewWord k
  | .coreView k => s.coreViewWord k
  | .semCmd | .errPop | .imgCmd | .pwrCmd | .routeCmd | .stxCmd | .gnCmd | .ctxAlloc | .ctxFree | .etCmd | .spareCmd
  | .dbgCmd => 0

/-! ### Responses (R260) -/

/-- Who makes an access: a Lath port, or REGACC of the TAP (R355). -/
inductive Req where
  | port (p : Port)
  | tap
deriving DecidableEq, Repr

/-- SRCKIND of a requester (R269). -/
def Req.kind : Req → Nat
  | .port p => portKind p
  | .tap => 7

def codeOK : Nat := 0
def codeDENY : Nat := 1
def codeADDR : Nat := 2
def codePROT : Nat := 3
def codeSTALE : Nat := 4
def codeGENMIX : Nat := 5
def codeBUSY : Nat := 6

/-- The outcome of an access: the state after it, the response code and the response data. -/
structure Reply where
  s : State
  code : Nat
  data : Nat

/-- The access was made. -/
def State.ok (s : State) : Reply := ⟨s, codeOK, 0⟩

/-- The access had no effect, for the reason that the code names. -/
def State.fail (s : State) (code : Nat) : Reply := ⟨s, code, 0⟩

/-- Is the requester the owner, with the current generation (R261, R299, R359)? REGACC needs no semaphore (R355). -/
def State.owns (s : State) (who : Req) (gen : W32) : Bool :=
  match who with
  | .port p => s.sem.owner == some p && gen == s.sem.copy
  | .tap => true

end Sys2Proof.Machine
end

