-- ==== Sys2Proof/Machine/Scaffold.lean ====
section
/-! DEFINITION. Writes to the Scaffold area, the bond group table and the exact totals: allocation (R122 to R124), the
window (R126), arming and disarming (R132, R139, R223), BGRP_RANGE and BGRP_XP (R132, R222), and ET_CMD (R114, R115). -/

namespace Sys2Proof.Machine

/-! ### Allocation (R122 to R124) -/

/-- The store without the `n` keys from `lo`. -/
def sclear {α : Type} (m : List (Nat × α)) (lo n : Nat) : List (Nat × α) :=
  m.filter fun p => decide (p.1 < lo) || decide (lo + n ≤ p.1)

/-- The store with `v`, which is not the default, at the `n` keys from `lo`. -/
def sfill {α : Type} (m : List (Nat × α)) (lo n : Nat) (v : α) : List (Nat × α) :=
  (m.filter fun p => decide (p.1 < lo)) ++ (List.range n).map (fun i => (lo + i, v))
    ++ m.filter fun p => decide (lo + n ≤ p.1)

/-- BASE and STRIPES of CTX_ALLOC and CTX_FREE (R125). -/
def stripeBase (d : Nat) : Nat := bits d 17 0
def stripeCount (d : Nat) : Nat := bits d 31 18

/-- Is the range malformed (R122, R124)? -/
def stripesBad (d : Nat) : Bool :=
  decide (stripeBase d % 32 ≠ 0) || decide (stripeCount d = 0) || decide (262144 < stripeBase d + 32 * stripeCount d)

/-- The context that allocation writes (R121). -/
def RowCtx.fresh : RowCtx := RowCtx.zero.initial

/-- CTX_ALLOC: stripes come into use with contexts in their initial state and with their CTAGs (R122, R123). -/
def State.ctxAllocWrite (s : State) (d : Nat) : Reply :=
  let b := stripeBase d / 32
  let n := stripeCount d
  if stripesBad d then s.fail codePROT
  else if anyFrom b n fun i => s.alloc.contains i then s.fail codeDENY
  else
    State.ok { s with
      ctxs := sfill s.ctxs (32 * b) (32 * n) RowCtx.fresh
      alloc := s.alloc.filter (fun i => decide (i < b)) ++ (List.range n).map (b + ·) ++ s.alloc.filter fun i => decide (b + n ≤ i)
      tags := (List.range n).foldl (fun m i => sset 0 m (b + i) (BitVec.ofNat 32 (bits d 63 32 + 32 * i))) s.tags
      poison := s.poison.filter fun c => decide (c < 32 * b) || decide (32 * (b + n) ≤ c) }

/-- CTX_FREE: stripes leave use (R124). -/
def State.ctxFreeWrite (s : State) (d : Nat) : Reply :=
  let b := stripeBase d / 32
  let n := stripeCount d
  if stripesBad d then s.fail codePROT
  else if anyFrom (32 * b) (32 * n) fun c => s.ctxInFlight c || s.ctxInArmed c then s.fail codeBUSY
  else if anyFrom b n fun i => !s.alloc.contains i then s.fail codeDENY
  else
    State.ok { s with
      ctxs := sclear s.ctxs (32 * b) (32 * n)
      alloc := s.alloc.filter fun i => decide (i < b) || decide (b + n ≤ i) }

/-! ### The window (R126) -/

/-- A context with its word `w` written; reserved bits stay zero (R120, R126). -/
def RowCtx.setWord (c : RowCtx) (w d : Nat) : RowCtx :=
  match w with
  | 0 => { c with
    pivot := BitVec.ofNat 24 (bits d 23 0)
    nanSeen := bit d 24
    infSeen := bit d 25
    psum := BitVec.ofNat 32 (bits d 63 32) }
  | 1 => { c with
    sum := BitVec.ofNat 32 (bits d 31 0)
    sumsq := BitVec.ofNat 32 (bits d 63 32) }
  | 2 => { c with
    maxv := BitVec.ofNat 32 (bits d 31 0)
    minv := BitVec.ofNat 32 (bits d 63 32) }
  | _ => { c with
    blockloss := BitVec.ofNat 16 (bits d 15 0)
    etx := BitVec.ofNat 12 (bits d 27 16)
    etv := bit d 28
    count := BitVec.ofNat 32 (bits d 63 32) }

/-- A write to word `k` of the window (R20, R126, R338). -/
def State.windowWrite (s : State) (k d : Nat) : Reply :=
  let c := s.ctl.ctxBase.toNat + k / 4
  if s.ctxInFlight c then s.fail codeBUSY
  else if !s.allocated c then s.fail codeDENY
  else State.ok { s.setCtx c ((s.ctx c).setWord (k % 4) d) with poison := s.poison.filter (· != c) }

/-! ### Bond groups (R132, R139, R222, R223) -/

/-- The three things that a SEND group requires (R223). -/
def Bgrp.sendOk (g : Bgrp) : Bool :=
  let l := clog2 g.n.toNat
  let d := g.c0.toNat - g.ownerC0.toNat
  decide (g.ownerC0.toNat ≤ g.c0.toNat) && decide (d % 2 ^ l = 0)
    && (decide (g.n.toNat = 2 ^ l) || decide (g.c0.toNat + g.n.toNat = g.ownerC0.toNat + g.ownerN.toNat))

/-- The fields that a BGRP_DEF write gives. -/
def Bgrp.setDef (g : Bgrp) (d : Nat) : Bgrp :=
  { g with
    base := BitVec.ofNat 18 (bits d 17 0)
    courses := BitVec.ofNat 11 (bits d 28 18)
    csize := bit d 29 }

/-- The PROT conditions of an arming write (R132). -/
def Bgrp.armBad (g : Bgrp) : Bool :=
  decide (g.base.toNat % 256 ≠ 0) || decide (g.courses.toNat < 1) || decide (1024 < g.courses.toNat)
    || decide (262144 < g.base.toNat + 256 * g.courses.toNat) || decide (g.n.toNat < 1) || decide (2 ^ 24 < g.n.toNat)
    || decide (2 ^ 24 < g.c0.toNat + g.n.toNat) || (g.send && !g.sendOk)

/-- An arming write of BGRP_DEF[g] (R132, R139). List records that still wait for their merge are those of an earlier row. -/
def State.bgrpArmWrite (s : State) (gi d : Nat) : Reply :=
  let old := s.group gi
  let g := old.setDef d
  if gi = 0 then s.fail codePROT
  else if g.armBad then s.fail codePROT
  else if old.open then s.fail codeBUSY
  else if (anyFrom g.base.toNat (256 * g.courses.toNat) fun c => !s.allocated c)
      || decide (storeSize + s.ctl.spillSize.toNat < s.reserved + reservation g.courses.toNat g.n.toNat) then
    s.fail codeDENY
  else
    State.ok { s.setGroup gi { g with
        arm := true
        done := false
        rootsLeft := BitVec.ofNat 19 (256 * g.courses.toNat)
        marks := []
        leaves := []
        spans := [] } with
      topks := s.topks.map fun r => if r.bgrp.toNat = gi then { r with past := r.past + 1 } else r }

/-- Does an operation that names group `g` stand between the acceptance of its first header and its last write-back
(R132)? -/
def State.groupInFlight (s : State) (gi : Nat) : Bool :=
  (List.range 32).any fun n => (s.bay n).tiles.any (fun t => (t.isAccepted || t.status == .admitted) && t.bgrp.toNat == gi)
    || (s.bayOps n).any fun o => o.bgrp.toNat == gi

/-- A BGRP_DEF[g] write with ARM = 0 (R132). -/
def State.bgrpDisarmWrite (s : State) (gi d : Nat) : Reply :=
  let g := s.group gi
  if gi = 0 then s.fail codePROT
  else if g.open then
    if s.groupInFlight gi then s.fail codeBUSY
    else
      State.ok { s.setGroup gi { g.setDef d with
          arm := false
          marks := []
          leaves := []
          spans := [] } with
        store := s.store.filter fun e => e.bgrp.toNat != gi
        formed := s.formed.filter fun e => e.bgrp.toNat != gi
        spilled := s.spilled.filter fun x => x.entry.bgrp.toNat != gi
        topks := s.topks.filter fun r => r.bgrp.toNat != gi }
  else State.ok (s.setGroup gi { g.setDef d with arm := false })

/-- A BGRP_DEF[g] write: ARM [30] decides which. -/
def State.bgrpDefWrite (s : State) (gi d : Nat) : Reply :=
  if bit d 30 then s.bgrpArmWrite gi d else s.bgrpDisarmWrite gi d

/-- A BGRP_RANGE[g] write (R132). -/
def State.bgrpRangeWrite (s : State) (gi d : Nat) : Reply :=
  if gi = 0 then s.fail codePROT
  else if (s.group gi).open then s.fail codeBUSY
  else
    State.ok (s.setGroup gi { s.group gi with
      c0 := BitVec.ofNat 24 (bits d 23 0)
      n := BitVec.ofNat 25 (bits d 48 24) })

/-- A BGRP_XP[g] write (R222). -/
def State.bgrpXpWrite (s : State) (gi d : Nat) : Reply :=
  if gi = 0 then s.fail codePROT
  else if (s.group gi).open then s.fail codeBUSY
  else
    State.ok (s.setGroup gi { s.group gi with
      send := bit d 0
      ownerC0 := BitVec.ofNat 24 (bits d 31 8)
      ownerN := BitVec.ofNat 25 (bits d 56 32) })

/-- A write to BS_SPILL_BASE or BS_SPILL_SIZE: BUSY while any bond group is armed (R125). -/
def State.spillWrite (s : State) (f : Ctl → Ctl) : Reply :=
  if s.anyArmed then s.fail codeBUSY else State.ok { s with ctl := f s.ctl }

/-! ### Exact totals (R114, R115) -/

/-- ET_CMD: CLEAR, LOAD, or nothing (R114, R115). -/
def State.etCmdWrite (s : State) (d : Nat) : Reply :=
  let op := bits d 1 0
  let mode := bits d 3 2
  let i := s.ctl.etSel.toNat
  if op = 0 ∨ op = 3 then s.ok
  else if mode = 3 then s.fail codePROT
  else if s.totalInFlight i then s.fail codeBUSY
  else
    let x := Total.cleared (BitVec.ofNat 2 mode)
    State.ok (s.setTotal i (if op = 2 then x.add s.ctl.etLoad else x))

end Sys2Proof.Machine
end

