-- ==== Sys2Proof/Machine/Passes.lean ====
section
/-! DEFINITION. The passes that the trowel cores run: the routing pass (R195 to R197) and the statistic transfer pass (R199
to R201). A pass puts its writes to the memory switch as it starts, when a core runs, or else when one does; it is done once
they are all acknowledged, and its arrays are then visible in memory (R27, R244, notes/assumptions/27). -/

namespace Sys2Proof.Machine

/-! ### Routing (R195 to R197) -/

def Route.nrec (x : Route) : Nat := bits x.ctl.toNat 23 0
def Route.experts (x : Route) : Nat := bits x.ctl.toNat 36 24
def Route.rankMajor (x : Route) : Bool := bit x.ctl.toNat 37
def Route.accum (x : Route) : Bool := bit x.ctl.toNat 38
def Route.capacity (x : Route) : Nat := bits x.ctl.toNat 63 40

/-- A write to a routing register: BUSY while a pass runs (R195). -/
def State.routeWrite (s : State) (f : Route → Route) : Reply :=
  if s.route.busy then s.fail codeBUSY else State.ok { s with route := f s.route }

/-- The pairs of a pass in its order (R196). -/
def routePairs (rankMajor : Bool) (nrec : Nat) : List (Nat × Nat) :=
  if rankMajor then (List.range 64).flatMap fun e => (List.range nrec).map fun i => (i, e)
  else (List.range nrec).flatMap fun i => (List.range 64).map fun e => (i, e)

/-- What a pass has done so far: (assigned, dropped) by expert, the entries written, and the first bad index. -/
structure RouteAcc where
  counts : List (Nat × Nat)
  cells : List (List (Nat × Byte × Byte))
  bad : Option (Nat × Nat)

/-- An assignment entry for pair (i, e) (R197). -/
def routeEntry (dst i e slot expert state value : Nat) : List (Nat × Byte × Byte) :=
  leCells (dst + 1024 * i + 16 * e)
    (slot + 2 ^ 32 * expert + 2 ^ 44 * e + 2 ^ 50 * state + 2 ^ 64 * value) 16

/-- One pair of the pass (R196); a NaN value is written as the canonical one (R45). -/
def routeStep (m : List Host.Cell) (x : Route) (acc : RouteAcc) (p : Nat × Nat) : RouteAcc :=
  let rec0 := argAddr x.src.toNat + 64 * bits x.src.toNat 63 48 * p.1
  let v := min (bits (memRead m rec0 8) 31 25) 64
  let entry := memRead m (rec0 + 8 + 8 * p.2) 8
  let value := (canonF32 (BitVec.ofNat 32 (bits entry 31 0))).toNat
  let ix := bits entry 63 32
  let dst := x.dst.toNat
  let put := fun (slot expert state value : Nat) => routeEntry dst p.1 p.2 slot expert state value :: acc.cells
  if v ≤ p.2 then { acc with cells := put 0xFFFFFFFF 0 2 0x7FC00000 }
  else if x.experts ≤ ix then
    { acc with
      cells := put 0xFFFFFFFF 0 3 value
      bad := acc.bad <|> some (p.1, ix) }
  else
    let c := acc.counts.getD ix (0, 0)
    if c.1 < x.capacity then
      { acc with
        counts := acc.counts.set ix (c.1 + 1, c.2)
        cells := put c.1 ix 0 value }
    else
      { acc with
        counts := acc.counts.set ix (c.1, min (c.2 + 1) (2 ^ 32 - 1))
        cells := put 0xFFFFFFFF ix 1 value }

/-- The whole pass (R196). -/
def routePass (m : List Host.Cell) (x : Route) : RouteAcc :=
  let start := (List.range x.experts).map fun i =>
    if x.accum then
      let w := memRead m (x.cnt.toNat + 8 * i) 8
      (bits w 31 0, bits w 63 32)
    else (0, 0)
  (routePairs x.rankMajor x.nrec).foldl (routeStep m x) ⟨start, [], none⟩

/-- The writes of a pass in order: assignment entries, then counts (R196, R197). -/
def RouteAcc.writes (r : RouteAcc) (x : Route) : List MemWrite :=
  (r.cells.reverse ++ r.counts.zipIdx.map fun p =>
    leCells (x.cnt.toNat + 8 * p.2) (p.1.1 + 2 ^ 32 * p.1.2) 8).map fun cells => ⟨.pass false, cells⟩

/-- Writes enter the memory switch one after another; what the trowel cores write but for spilled nodes has no home port, and
takes MP0 first (R28, notes/assumptions/27). -/
def State.memWrites (s : State) (ws : List MemWrite) : State := ws.foldl (fun (s : State) w => s.memWrite 0 w) s

/-- The memory that holds writes one after another. -/
def landAll (m : List Host.Cell) (ws : List MemWrite) : List Host.Cell := ws.foldl (fun m w => memSetMasked m w.cells) m

/-- The routing pass puts its writes to the memory ports, if a core runs (R27, R196). -/
def State.routeIssue (s : State) : State :=
  if s.coresRun then
    let r := routePass s.mem s.route
    { s with route := { s.route with issued := some r.bad } }.memWrites (r.writes s.route)
  else s

/-- A ROUTE_CMD write (R195). -/
def State.routeCmdWrite (s : State) (d : Nat) : Reply :=
  let x := s.route
  if x.busy then s.fail codeBUSY
  else if !bit d 0 then s.ok
  else if x.nrec = 0 ∨ x.experts = 0 ∨ 4096 < x.experts ∨ x.capacity = 0 then s.fail codePROT
  else
    State.ok (State.routeIssue { s with route := { x with
      busy := true
      done := false
      badIdx := false
      doneRecs := 0
      issued := none } })

/-- ROUTING_PASS_DONE: the running pass has written its arrays; DONE is set, and a bad index is logged once (R196,
R197, R270). -/
def execRoutingPassDone (s : State) : Host.Outcome State Fault Refusal :=
  if s.route.busy && s.coresRun then
    let x := s.route
    let r := routePass s.mem x
    let bad := x.issued.getD r.bad
    let s := match bad with
      | some b => s.logE 0x27 5 0 0 0 0 b.1 b.2
      | none => s
    let s := if x.issued.isSome then s.landWrites (.pass false) fun _ => true
      else { s with mem := landAll s.mem (r.writes x) }
    .next { s with
      route := { x with
        busy := false
        done := true
        badIdx := bad.isSome
        doneRecs := BitVec.ofNat 24 x.nrec
        issued := none } }
  else .next s

/-! ### Statistic transfer (R199 to R201) -/

/-- A write to a transfer register: BUSY while a pass runs (R199). -/
def State.stxWrite (s : State) (f : Stx → Stx) : Reply :=
  if s.stx.busy then s.fail codeBUSY else State.ok { s with stx := f s.stx }

/-- Is the combination of KIND, FIELD, DIR and OPER permitted (R200)? -/
def stxPermitted (w : W64) : Bool :=
  if stxImport w then decide (stxKind w = 0) && decide (stxOper w = 0) && decide (stxField w < 6)
  else if stxKind w = 0 then
    decide (stxOper w < 5) && decide (stxField w < 6) && (decide (stxField w ≠ 0) || decide (stxOper w = 0))
  else decide (stxKind w = 1) && decide (stxOper w < 5)

/-- First item of a pass: a context, or an exact total in [13:0] (R199). -/
def stxFirst (w : W64) : Nat := if stxKind w = 1 then stxBase w % 2 ^ 14 else stxBase w

/-- An FP32 pattern with its sign inverted; a NaN gives the canonical NaN (R45, R200). -/
def negF32 (w : W32) : W32 := if (ofF32 w).isNan then 0x7FC00000 else w ^^^ 0x80000000

/-- The word that an operation makes of a value with FP32 bits `w` and exact value `x` (R200). -/
def stxWord (ts : List FuncTable) (oper : Nat) (w : W32) (x : Num) : W32 :=
  match oper with
  | 0 => w
  | 1 => negF32 w
  | 2 => toF32 (fSqrt x)
  | 3 => toF32 (fRsqrt ts x)
  | _ => toF32 (fRcp x)

/-- A FIELD of a context (R199). -/
def RowCtx.field (c : RowCtx) (f : Nat) : W32 :=
  match f with
  | 1 => c.psum
  | 2 => c.sum
  | 3 => c.sumsq
  | 4 => c.maxv
  | 5 => c.minv
  | _ => BitVec.ofNat 32 (wrapInt 32 c.pivot.toInt)

/-- The same field set from a memory word (R200). -/
def RowCtx.setField (c : RowCtx) (f : Nat) (w : W32) : RowCtx :=
  match f with
  | 1 => { c with psum := w }
  | 2 => { c with sum := w }
  | 3 => { c with sumsq := w }
  | 4 => { c with maxv := w }
  | 5 => { c with minv := w }
  | _ => { c with pivot := w.setWidth 24 }

/-- The reference tables that the block holds: those of a wing's image. -/
def State.refTables (s : State) : List FuncTable := if s.img.east.tables.isEmpty then s.img.west.tables else s.img.east.tables

/-- The word exported for item `i` (R200). -/
def State.stxExport (s : State) (w : W64) (i : Nat) : W32 :=
  if stxKind w = 0 then
    let x := (s.ctx (stxFirst w + i)).field (stxField w)
    stxWord s.refTables (stxOper w) x (ofF32 x)
  else
    let t := s.total (stxFirst w + i)
    stxWord s.refTables (stxOper w) t.read (t.value false)

/-- The writes of an export, one for each item (R200). -/
def State.stxWrites (s : State) : List MemWrite :=
  (List.range (stxCount s.stx.src)).map fun i =>
    ⟨.pass true, leCells (s.stx.dst.toNat + 4 * i) (s.stxExport s.stx.src i).toNat 4⟩

/-- An export puts its writes to the memory ports, if a core runs (R27, R200). -/
def State.stxIssue (s : State) : State :=
  if s.coresRun && !stxImport s.stx.src then
    { s with stx := { s.stx with issued := true } }.memWrites s.stxWrites
  else s

/-- A STX_CMD write (R201). A COUNT of 0, which R199 does not allow and R201 does not name, completes with PROT
(notes/assumptions/131). -/
def State.stxCmdWrite (s : State) (d : Nat) : Reply :=
  let w := s.stx.src
  let limit := if stxKind w = 1 then 16384 else 262144
  let first := stxFirst w
  let n := min (stxCount w) (limit - first)
  if s.stx.busy then s.fail codeBUSY
  else if !bit d 0 then s.ok
  else if (decide (stxKind w = 0) && anyFrom first n s.ctxInFlight)
      || (decide (stxKind w = 1) && anyFrom first n s.totalInFlight) then s.fail codeBUSY
  else if decide (stxKind w = 0) && anyFrom first n fun c => !s.allocated c then s.fail codeDENY
  else if stxCount w = 0 ∨ limit < first + stxCount w ∨ stxPermitted w = false then s.fail codePROT
  else
    State.ok (State.stxIssue { s with stx := { s.stx with
      busy := true
      done := false
      doneCnt := 0
      issued := false } })

/-- A reset or a Stop abandons the running passes: of the writes that a pass has put to the memory ports and that none has
acknowledged, free ones have reached memory, and no other does (R195, R201, notes/assumptions/13). -/
def State.cutPasses (s : State) : State :=
  let cut := fun (s : State) (stx : Bool) =>
    let k := s.takeFree
    k.2.landWrites (.pass stx) fun i => bit k.1 i
  let s := if s.route.issued.isSome then cut s false else s
  let s := if s.stx.issued then cut s true else s
  { s with
    route := { s.route with
      busy := false
      issued := none }
    stx := { s.stx with
      busy := false
      issued := false } }

/-- STX_PASS_DONE: the running pass has exported or imported its items, and DONE is set (R200). A NaN that its OPER makes meets no
NaN trap (notes/assumptions/168). -/
def execStxPassDone (s : State) : Host.Outcome State Fault Refusal :=
  if s.stx.busy && s.coresRun then
    let w := s.stx.src
    let dst := s.stx.dst.toNat
    let items := List.range (stxCount w)
    let ends := { s.stx with
      busy := false
      done := true
      doneCnt := BitVec.ofNat 19 (stxCount w)
      issued := false }
    if stxImport w then
      .next (items.foldl (fun (s : State) i =>
        let c := stxFirst w + i
        s.setCtx c ((s.ctx c).setField (stxField w) (BitVec.ofNat 32 (memRead s.mem (dst + 4 * i) 4)))) { s with stx := ends })
    else if s.stx.issued then .next { s.landWrites (.pass true) fun _ => true with stx := ends }
    else .next { s with
      mem := landAll s.mem s.stxWrites
      stx := ends }
  else .next s

end Sys2Proof.Machine
end

