-- ==== Sys2Proof/Machine/Xp.lean ====
section
/-! DEFINITION. XP: which frames are dropped (R209, R212), received STORE, FOLD and LEAF frames (R210, R224, R225), the
trap on received words (R69, R70), and the XP_FOLD register (R213, R225). -/

namespace Sys2Proof.Machine

/-- Do frames proceed: in Run and in ENTERING while STOPPED is 0, and not in a drain (R321, R323)? -/
def Phase.xpOpen : Phase → Bool
  | .run => true
  | .entering _ => true
  | .saved => true
  | _ => false

/-- Are KIND, LEN and WCOUNT in their ranges, and did every payload beat arrive (R209, R212)? -/
def frameOk (f : XpFrame) : Bool :=
  let l := f.len.toNat
  let w := f.wcount.toNat
  f.words.length == 16 * l && match f.kind.toNat with
    | 1 => decide (l = 6) && decide (w = 0)
    | 2 => decide (1 ≤ l) && decide (l ≤ 64) && decide (w = 0)
    | 3 => decide (1 ≤ l) && decide (l ≤ 256) && decide (16 * l ≤ w + 15) && decide (w ≤ 16 * l)
    | 4 => decide (1 ≤ l) && decide (l ≤ 256) && decide (16 * l ≤ w + 15) && decide (w ≤ 16 * l)
    | _ => false

/-- One dropped frame or entry counts (R212). -/
def State.countDrop (s : State) : State := { s with xp := { s.xp with drops := satAdd s.xp.drops 1 } }

/-- A frame is dropped with a cause (R212, R270). -/
def State.dropFrame (s : State) (f : XpFrame) (cause : Nat) : State :=
  (s.logE cause 3 0 0 0 f.roundId.toNat (f.kind.toNat + 2 ^ 8 * f.len.toNat) f.shard.toNat).countDrop

def cXPFRAME : Nat := 0x20
def cXPSTALE : Nat := 0x21
def cXPRANGE : Nat := 0x22
def cXPGROUP : Nat := 0x23
def cDUPLEAF : Nat := 0x24

/-- The data words of a FOLD or STORE frame (R209). -/
def dataWords (f : XpFrame) : List W32 := f.words.take f.wcount.toNat

/-- NaN words of a received frame meet cause XP (R69, R70). -/
def State.xpTraps (s : State) (ws : List W32) : State :=
  let bad := (ws.zipIdx.filter fun p => (ofF32 p.1).isNan).map Prod.snd
  match bad with
  | [] => s
  | i :: _ =>
    let x := { s.nan with count := satAdd s.nan.count bad.length }
    { s with nan := if x.valid then x else
      { x with
        valid := true, xp := true, bay := 0, chain := 0, stage := 0, cause := 3, row := 0, context := 0
        element := BitVec.ofNat 32 i, tileSeq := 0 } }

/-- XP_STORE_FRAME: the data words are written to memory from ADDR, a NaN as the canonical one (R45, R210). -/
def execXpStoreFrame (f : XpFrame) (s : State) : Host.Outcome State Fault Refusal :=
  if !s.pwr.phase.xpOpen || f.kind != 4 then .next s
  else if !frameOk f then .next (s.dropFrame f cXPFRAME)
  else
    let cells := ((dataWords f).zipIdx.map fun p => leCells (f.addr.toNat + 4 * p.2) (canonF32 p.1).toNat 4).flatten
    .next ((s.xpTraps (dataWords f)).memWrite 0 ⟨.core, cells⟩)

/-- XP_FOLD_FRAME: the data words go to Mortar as terms of the armed totals, and LEFT falls; at 0 the fold is done
(R108, R212, R213, R225). -/
def execXpFoldFrame (f : XpFrame) (s : State) : Host.Outcome State Fault Refusal :=
  let first := f.addr.toNat % 2 ^ 14
  if !s.pwr.phase.xpOpen || f.kind != 3 then .next s
  else if !frameOk f then .next (s.dropFrame f cXPFRAME)
  else if !s.xp.foldArm || decide (first < s.xp.foldBase.toNat)
      || decide (s.xp.foldBase.toNat + s.xp.foldCount.toNat < first + f.wcount.toNat) then
    .next (s.dropFrame f cXPRANGE)
  else
    let s := s.xpTraps (dataWords f)
    let runs := (dataWords f).zipIdx.map fun p => (⟨xpSource, first + p.2, [p.1], none, 0, 0⟩ : MRun)
    let left := s.xp.left - 1
    .next { s with
      runs := s.runs ++ runs
      xp := { s.xp with
        left := left
        foldDone := s.xp.foldDone || decide (left = 0)
        foldArm := decide (left ≠ 0) } }

/-- The entries of a LEAF frame that are not padding (R210). -/
def leafEntries (f : XpFrame) : List BondEntry :=
  ((List.range (f.words.length / 4)).map fun i =>
    BondEntry.ofWord ((List.range 4).map fun j => (f.words.getD (4 * i + j) 0).toNat * 2 ^ (32 * j)).sum).filter
    fun e => e.bgrp != 0

/-- One entry enters the tree of its group, unless a chunk that its node covers is already marked for its row; an entry
that names no row or node of the tree has no place to enter (R212, R224, notes/assumptions/12). A NaN enters as the
canonical one (R45). -/
def State.takeLeaf (s : State) (e : BondEntry) : State :=
  let gi := e.bgrp.toNat
  let g := s.group gi
  let l := e.level.toNat
  let lo := e.node.toNat * 2 ^ l
  let hi := min (lo + 2 ^ l) g.n.toNat
  let row := e.ctx.toNat
  if 256 * g.courses.toNat ≤ row ∨ hi ≤ lo ∨ clog2 g.n.toNat < l then s
  else if (List.range (hi - lo)).any fun i =>
      g.marks.contains (row / 256, g.c0.toNat + lo + i) || g.leafMarked row (g.c0.toNat + lo + i) then
    (s.logE cDUPLEAF 3 0 0 0 0 row (e.node.toNat + 2 ^ 24 * l)).countDrop
  else
    (s.setGroup gi { g with leaves := g.leaves ++ [(row, g.c0.toNat + lo, hi - lo)] }).addNode
      { e with
        ctx := BitVec.ofNat 18 (g.base.toNat + row)
        psum := canonF32 e.psum }

/-- XP_LEAF_FRAME: the entries enter the trees of armed LOCAL groups; an entry for any other group drops the frame
(R212, R224). -/
def execXpLeafFrame (f : XpFrame) (s : State) : Host.Outcome State Fault Refusal :=
  if !s.pwr.phase.xpOpen || f.kind != 2 then .next s
  else if !frameOk f then .next (s.dropFrame f cXPFRAME)
  else
    let es := leafEntries f
    if es.any fun e => !(s.group e.bgrp.toNat).open || (s.group e.bgrp.toNat).send then
      .next (s.dropFrame f cXPGROUP)
    else .next (es.foldl State.takeLeaf s)

/-- XP_FRAME_INVALID: a frame that R209 does not allow, or that is not complete, is dropped (R212). -/
def execXpFrameInvalid (f : XpFrame) (complete : Bool) (s : State) : Host.Outcome State Fault Refusal :=
  if !s.pwr.phase.xpOpen || (frameOk f && complete) then .next s else .next (s.dropFrame f cXPFRAME)

/-- The fields of an XP_FOLD write (R213). -/
def Xp.setFold (x : Xp) (d : Nat) : Xp :=
  { x with
    foldBase := BitVec.ofNat 14 (bits d 13 0)
    foldCount := BitVec.ofNat 13 (bits d 26 14)
    foldFrames := BitVec.ofNat 24 (bits d 50 27)
    foldArm := bit d 51 }

/-- An XP_FOLD write with ARM = 1 (R225). -/
def State.xpFoldArmWrite (s : State) (d : Nat) : Reply :=
  let x := s.xp.setFold d
  if s.xp.foldArm || anyFrom x.foldBase.toNat x.foldCount.toNat s.totalInFlight then s.fail codeBUSY
  else if decide (4096 < x.foldBase.toNat + x.foldCount.toNat) || decide (x.foldFrames = 0) || decide (x.foldCount = 0) then
    s.fail codePROT
  else State.ok { s with xp := { x with left := x.foldFrames } }

/-- An XP_FOLD write: ARM = 0 sets the fields and disarms (R225). -/
def State.xpFoldWrite (s : State) (d : Nat) : Reply :=
  if bit d 51 then s.xpFoldArmWrite d else State.ok { s with xp := s.xp.setFold d }

end Sys2Proof.Machine
end

