-- ==== Sys2Proof/Machine/Gn.lean ====
section
/-! DEFINITION. The global-norm round (R214 to R221): START and the shard partial, ABORT, and the summed frame with the
vote, the clip factor and the gate's decision. -/

namespace Sys2Proof.Machine

def Gn.roundId (x : Gn) : Nat := bits x.ctl.toNat 31 0
def Gn.maxNorm (x : Gn) : W32 := BitVec.ofNat 32 (bits x.ctl.toNat 63 32)
def Gn.tagLo (x : Gn) : Nat := bits x.tags.toNat 11 0
def Gn.tagHi (x : Gn) : Nat := bits x.tags.toNat 23 12
def Gn.expect (x : Gn) : Nat := bits x.tags.toNat 44 24

/-- A write to GN_CTL, GN_TAGS, GN_GATE, GN_ARGDST or OPT_STEP: BUSY while a round is OPEN (R214). -/
def State.gnWrite (s : State) (f : Gn → Gn) : Reply :=
  if s.gn.state = 1 then s.fail codeBUSY else State.ok { s with gn := f s.gn }

/-- Does either wing's image hold a chain with WINGS = 3 in a range of chain IDs (R260)? -/
def State.spansWings (s : State) (lo hi : Nat) : Bool :=
  (s.img.east.chains ++ s.img.west.chains).any fun c =>
    decide (lo ≤ c.1.toNat) && decide (c.1.toNat ≤ hi) && decide ((chainOf c.2).wings = 3)

/-- A GN_GATE write, with the GENMIX case of R260; BUSY comes before it (notes/assumptions/155). A tile accepted
before the write is gated from the write on, and leaves at the bay's next turn (notes/assumptions/181). -/
def State.gnGateWrite (s : State) (d : Nat) : Reply :=
  if s.gn.state = 1 then s.fail codeBUSY
  else if bit d 24 && s.img.genDiff && s.spansWings (bits d 11 0) (bits d 23 12) then s.fail codeGENMIX
  else State.ok { s with gn := { s.gn with gate := BitVec.ofNat 64 (d % 2 ^ 25) } }

/-- The gradient tallies of the shard (R216). -/
def Gn.tallies (x : Gn) : List Nat := (List.range (x.tagHi + 1 - x.tagLo)).map fun i => 4096 + 3 * (x.tagLo + i) + 1

/-- The shard partial: FLAG and the sum, taken as zero under FLAG (R216). -/
def State.shardPartial (s : State) : Bool × Int :=
  let ts : List Total := s.gn.tallies.map s.total
  let sum : Int := (ts.map fun (x : Total) => x.t.toInt).sum
  let flag := ts.any (fun x => x.nan || x.pinf || x.ninf || x.ovf) || decide (sum < -2 ^ 319) || decide (2 ^ 319 ≤ sum)
  (flag, if flag then 0 else sum)

/-- Limb `j` of a 320-bit integer (R217). -/
def limb (t : Int) (j : Nat) : Int :=
  let v := wrapInt 320 t / 16 ^ j % 16
  if j = 79 ∧ 8 ≤ v then (v : Int) - 16 else v

/-- The words of the NORM frame (R210, R216, R217). -/
def normWords (flag : Bool) (t : Int) : List W32 :=
  (List.range 80).map (fun j => toF32 (Num.ofInt (limb t j)))
    ++ [if flag then 0x3F800000 else 0, 0x3F800000] ++ List.replicate 14 0

/-- A START write (R215, R216). Gated tiles that are accepted and wait for the round do not delay it; under PASS they do not wait
(R219). -/
def State.gnStartWrite (s : State) : Reply :=
  let x := s.gn
  if x.state = 1 ∨ s.bays.any (fun b => b.tiles.any fun t => t.status == .admitted && s.gated t.chain)
      ∨ x.tallies.any (s.totalInFlightOf fun t => !s.gated t.chain || x.state == 2) then s.fail codeBUSY
  else if x.tagHi < x.tagLo ∨ x.expect < 1 ∨ 1048576 < x.expect then s.fail codePROT
  else
    let p := s.shardPartial
    State.ok ({ s with gn := { x with
      state := 1
      flag := p.1 } }.sendFrame
        { kind := 1, len := 6, shard := s.xp.shard, roundId := BitVec.ofNat 32 x.roundId, addr := 0, wcount := 0, reserved := 0
          words := normWords p.1 p.2 })

/-- Gated tiles of every bay are discarded when a round ends in SKIP (R219). -/
def State.skipAll (s : State) : State := (List.range 32).foldl (fun (s : State) n => s.skipGated n) s

/-- A round ends in SKIP (R214, R218, R220). -/
def State.gnSkip (s : State) : State :=
  { s with gn := { s.gn with
    state := 3
    decided := true
    skips := s.gn.skips + 1 } }.skipAll

/-- An ABORT write (R220). -/
def State.gnAbortWrite (s : State) (who : Req) : Reply :=
  if s.gn.state = 1 then State.ok (s.logE 0x26 who.kind 0 0 0 s.gn.roundId 0 0).gnSkip else s.ok

/-- A GN_CMD write (R215). -/
def State.gnCmdWrite (s : State) (who : Req) (d : Nat) : Reply :=
  if bit d 0 && bit d 1 then s.fail codePROT
  else if bit d 0 then s.gnStartWrite
  else if bit d 1 then s.gnAbortWrite who
  else s.ok

/-- A finite FP32 integer of magnitude below 2^24, if the word is one (R218). -/
def wordInt (w : W32) : Option Int :=
  match ofF32 w with
  | .fin neg m e =>
    let i : Int := if 0 ≤ e then m * 2 ^ e.toNat else m / 2 ^ (-e).toNat
    let exact := decide (0 ≤ e) || decide (m % 2 ^ (-e).toNat = 0)
    if exact ∧ i < 2 ^ 24 then some (if neg then -i else i) else none
  | _ => none

/-- Does word `i` of a summed frame pass its check (R218)? -/
def normWordOk (i : Nat) (w : W32) : Bool :=
  match wordInt w with
  | none => false
  | some v => decide (i < 80) || decide (0 ≤ v)

/-- CLIP for the global sum T (R218). -/
def clipFactor (ts : List FuncTable) (maxNorm : W32) (t : Int) : W32 :=
  if maxNorm = 0 ∨ t ≤ 0 then 0x3F800000
  else
    let z := evalFunc ts 0x05 ((Num.ofInt t).scale (-149)) 0
    toF32 (Num.min .one (ofF32 (toF32 ((ofF32 maxNorm).mul z))))

/-- The summed frame's words are good: VOTES, SHARDS, SUMSQ and CLIP are set, CLIP goes to memory, and the round is
decided (R218). -/
def State.gnDecide (s : State) (words : List W32) : State :=
  let v := fun i => (wordInt (words.getD i 0)).getD 0
  let t := ((List.range 80).map fun j => v j * 16 ^ j).sum
  let votes := v 80
  let shards := v 81
  let clip := clipFactor s.refTables s.gn.maxNorm t
  let dst := bits s.gn.argDst.toNat 47 0
  let s := if shards ≠ s.gn.expect then s.logE 0x25 3 0 0 0 s.gn.roundId shards.toNat s.gn.expect else s
  let s := if t < 0 then s.logE 0x28 3 0 0 0 s.gn.roundId shards.toNat s.gn.expect else s
  let s := { s with
    gn := { s.gn with
      votes := BitVec.ofInt 32 votes
      shards := BitVec.ofInt 32 shards
      sumsq := toF32 ((Num.ofInt t).scale (-149))
      clip := clip }
    mem := if dst = 0 then s.mem else memSetMany s.mem (leBytes dst clip.toNat 8) }
  if votes = 0 ∧ shards = s.gn.expect ∧ 0 ≤ t then
    { s with gn := { s.gn with
      state := 2
      decided := true
      optStep := s.gn.optStep + 1 } }
  else s.gnSkip

/-- GN_SUMMED_FRAME: the summed NORM frame of the open round arrives (R212, R218). -/
def execGnSummedFrame (f : XpFrame) (s : State) : Host.Outcome State Fault Refusal :=
  if !s.pwr.phase.xpOpen || f.kind != 1 then .next s
  else if !frameOk f then .next (s.dropFrame f cXPFRAME)
  else if s.gn.state ≠ 1 ∨ f.roundId.toNat ≠ s.gn.roundId then .next (s.dropFrame f cXPSTALE)
  else
    match ((f.words.take 82).zipIdx).find? fun p => !normWordOk p.2 p.1 with
    | some (w, i) => .next (s.logE 0x29 3 0 0 0 s.gn.roundId i w.toNat).gnSkip
    | none => .next (s.gnDecide f.words)

end Sys2Proof.Machine
end

