-- ==== Sys2Proof/Machine/Image.lean ====
section
/-! DEFINITION. The configuration image as the NVM device holds it (R279 to R284, R92 to R96): CRC-32, SHA-256 of
FIPS 180-4, checks 1 to 4 of R289, and what the wing loaders take from a copy. An image is read through a function from
byte offsets to bytes, so that the same checks serve a copy in NVM and a source in memory (R300). -/

namespace Sys2Proof.Machine

/-- `n` bytes from offset `a` of a source, little-endian (R10). -/
def rdNat (rd : Nat → Byte) (a : Nat) : Nat → Nat
  | 0 => 0
  | n + 1 => (rd a).toNat + 256 * rdNat rd (a + 1) n

/-- Bytes [a, b) of a source. -/
def rdBytes (rd : Nat → Byte) (a b : Nat) : List Byte := (List.range (b - a)).map fun i => rd (a + i)

/-! ### CRC-32 (R92) -/

/-- One bit of the reflected CRC register, `n` times. -/
def crcBits : Nat → Nat → Nat
  | 0, c => c
  | n + 1, c => crcBits n (if c % 2 = 1 then (c / 2) ^^^ 0xEDB88320 else c / 2)

/-- CRC-32 of IEEE 802.3 over bytes: polynomial 0x04C1_1DB7, reflected (R92). -/
def crc32 (bs : List Byte) : Nat :=
  bs.foldl (fun c b => crcBits 8 (c ^^^ b.toNat)) 0xFFFFFFFF ^^^ 0xFFFFFFFF

/-! ### SHA-256 (R281) -/

/-- The round constants of FIPS 180-4, 4.2.2. -/
def shaK : List W32 :=
  [0x428a2f98, 0x71374491, 0xb5c0fbcf, 0xe9b5dba5, 0x3956c25b, 0x59f111f1, 0x923f82a4, 0xab1c5ed5]
  ++ [0xd807aa98, 0x12835b01, 0x243185be, 0x550c7dc3, 0x72be5d74, 0x80deb1fe, 0x9bdc06a7, 0xc19bf174]
  ++ [0xe49b69c1, 0xefbe4786, 0x0fc19dc6, 0x240ca1cc, 0x2de92c6f, 0x4a7484aa, 0x5cb0a9dc, 0x76f988da]
  ++ [0x983e5152, 0xa831c66d, 0xb00327c8, 0xbf597fc7, 0xc6e00bf3, 0xd5a79147, 0x06ca6351, 0x14292967]
  ++ [0x27b70a85, 0x2e1b2138, 0x4d2c6dfc, 0x53380d13, 0x650a7354, 0x766a0abb, 0x81c2c92e, 0x92722c85]
  ++ [0xa2bfe8a1, 0xa81a664b, 0xc24b8b70, 0xc76c51a3, 0xd192e819, 0xd6990624, 0xf40e3585, 0x106aa070]
  ++ [0x19a4c116, 0x1e376c08, 0x2748774c, 0x34b0bcb5, 0x391c0cb3, 0x4ed8aa4a, 0x5b9cca4f, 0x682e6ff3]
  ++ [0x748f82ee, 0x78a5636f, 0x84c87814, 0x8cc70208, 0x90befffa, 0xa4506ceb, 0xbef9a3f7, 0xc67178f2]

/-- The eight working variables, or the eight words of the hash value. -/
structure ShaReg where
  a : W32
  b : W32
  c : W32
  d : W32
  e : W32
  f : W32
  g : W32
  h : W32

/-- The initial hash value (FIPS 180-4, 5.3.3). -/
def shaInit : ShaReg :=
  ⟨0x6a09e667, 0xbb67ae85, 0x3c6ef372, 0xa54ff53a, 0x510e527f, 0x9b05688c, 0x1f83d9ab, 0x5be0cd19⟩

/-- The message schedule, newest word first, extended by `n` words. -/
def shaExpand : Nat → List W32 → List W32
  | 0, w => w
  | n + 1, w =>
    let p := w.getD 1 0
    let q := w.getD 14 0
    let s1 := p.rotateRight 17 ^^^ p.rotateRight 19 ^^^ p >>> 10
    let s0 := q.rotateRight 7 ^^^ q.rotateRight 18 ^^^ q >>> 3
    shaExpand n ((s1 + w.getD 6 0 + s0 + w.getD 15 0) :: w)

/-- One round. -/
def shaRound (x : ShaReg) (k w : W32) : ShaReg :=
  let s1 := x.e.rotateRight 6 ^^^ x.e.rotateRight 11 ^^^ x.e.rotateRight 25
  let ch := (x.e &&& x.f) ^^^ (~~~x.e &&& x.g)
  let t1 := x.h + s1 + ch + k + w
  let s0 := x.a.rotateRight 2 ^^^ x.a.rotateRight 13 ^^^ x.a.rotateRight 22
  let maj := (x.a &&& x.b) ^^^ (x.a &&& x.c) ^^^ (x.b &&& x.c)
  ⟨t1 + (s0 + maj), x.a, x.b, x.c, x.d + t1, x.e, x.f, x.g⟩

/-- One block of sixteen words. -/
def shaBlock (x : ShaReg) (ws : List W32) : ShaReg :=
  let y := ((shaK.zip (shaExpand 48 ws.reverse).reverse).foldl (fun r p => shaRound r p.1 p.2) x : ShaReg)
  ⟨x.a + y.a, x.b + y.b, x.c + y.c, x.d + y.d, x.e + y.e, x.f + y.f, x.g + y.g, x.h + y.h⟩

/-- A big-endian word of the padded message. -/
def beWord (bs : List Byte) : W32 := bs.foldl (fun (w : W32) b => (w <<< 8) ||| b.zeroExtend 32) 0

/-- Big-endian words of a byte string whose length is a multiple of four, `n` of them. -/
def beWords : Nat → List Byte → List W32
  | 0, _ => []
  | n + 1, bs => beWord (bs.take 4) :: beWords n (bs.drop 4)

/-- The blocks, `n` of them, one after another. -/
def shaBlocks : Nat → ShaReg → List Byte → ShaReg
  | 0, x, _ => x
  | n + 1, x, bs => shaBlocks n (shaBlock x (beWords 16 (bs.take 64))) (bs.drop 64)

/-- The padded message (FIPS 180-4, 5.1.1). -/
def shaPad (bs : List Byte) : List Byte :=
  let l := bs.length
  bs ++ ([0x80] : List Byte) ++ List.replicate ((119 - l % 64) % 64) (0 : Byte)
    ++ (List.range 8).map fun i => (BitVec.ofNat 8 ((8 * l) >>> (8 * (7 - i))) : Byte)

/-- The digest; byte 0, the first byte, is the least significant byte of the result (R281, R298). -/
def sha256 (bs : List Byte) : BitVec 256 :=
  let p := shaPad bs
  let x := shaBlocks (p.length / 64) shaInit p
  let be := [x.a, x.b, x.c, x.d, x.e, x.f, x.g, x.h].foldl (fun (n : Nat) w => n * 2 ^ 32 + w.toNat) 0
  BitVec.ofNat 256 (((List.range 32).map fun i => be / 256 ^ (31 - i) % 256 * 256 ^ i).sum)

/-! ### The header (R280) -/

/-- Fields of an image header. -/
def imgGeneration (rd : Nat → Byte) : W32 := BitVec.ofNat 32 (rdNat rd 0x0C 4)
def imgLen (rd : Nat → Byte) : Nat := rdNat rd 0x10 4
def imgSigLen (rd : Nat → Byte) : Nat := rdNat rd 0x14 4
def imgSections (rd : Nat → Byte) : Nat := rdNat rd 0x18 2
def imgHash (rd : Nat → Byte) : BitVec 256 := BitVec.ofNat 256 (rdNat rd 0x20 32)

/-- Check 1 of R289. -/
def imgCheck1 (rd : Nat → Byte) : Bool :=
  let len := imgLen rd
  rdNat rd 0 4 == 0x53494441 && rdNat rd 4 2 == 3 && rdNat rd 6 2 == 0x4260 && rdNat rd 8 1 == 2
    && rdNat rd 9 3 == 0 && len % 256 == 0 && decide (0x200 ≤ len) && decide (len ≤ 0x700000)
    && imgSigLen rd % 16 == 0 && decide (imgSigLen rd ≤ 0x10000) && decide (1 ≤ imgSections rd)
    && decide (imgSections rd ≤ 32) && rdNat rd 0x1A 6 == 0 && rdNat rd 0x40 60 == 0
    && crc32 (rdBytes rd 0 0x7C) == rdNat rd 0x7C 4

/-! ### The directory (R282) -/

/-- A directory entry. -/
structure Section where
  type : Nat
  reserved : Nat
  off : Nat
  len : Nat
  crc : Nat

/-- The directory. -/
def imgDirectory (rd : Nat → Byte) : List Section :=
  (List.range (imgSections rd)).map fun i =>
    let a := 0x80 + 16 * i
    ⟨rdNat rd a 2, rdNat rd (a + 2) 2, rdNat rd (a + 4) 4, rdNat rd (a + 8) 4, rdNat rd (a + 12) 4⟩

/-- Do the sections start in order, each at or above the end of the one before it, from `lo` to `hi`? -/
def sectionsFit (hi : Nat) : Nat → List Section → Bool
  | _, [] => true
  | lo, x :: t => decide (lo ≤ x.off) && decide (x.off + x.len ≤ hi) && sectionsFit hi (max (x.off + x.len) (x.off + 1)) t

/-- Check 2 of R289: the directory rules and every section CRC. -/
def imgCheck2 (rd : Nat → Byte) : Bool :=
  let d := imgDirectory rd
  let types := d.map Section.type
  d.all (fun x => x.reserved == 0 && decide (1 ≤ x.type) && decide (x.type ≤ 6) && x.off % 16 == 0)
    && decide types.Nodup && [1, 2, 3, 4, 5].all types.contains
    && sectionsFit (imgLen rd) (0x80 + 16 * imgSections rd) d
    && d.all fun x => crc32 (rdBytes rd x.off (x.off + x.len)) == x.crc

/-- Offset and length of the section of a TYPE. -/
def imgSection (rd : Nat → Byte) (type : Nat) : Option Section := (imgDirectory rd).find? fun x => x.type == type

/-! ### Table records (R92 to R96) -/

/-- A table record as it stands at an offset. -/
structure TableRec where
  table : FuncTable
  reserved : Nat
  bodyLen : Nat
  crcOk : Bool
  crc : Nat

/-- The record at offset `a`. -/
def readTable (rd : Nat → Byte) (a : Nat) : TableRec :=
  let len := rdNat rd (a + 8) 4
  let crc := rdNat rd (a + 12) 4
  ⟨⟨rdNat rd a 2, rdNat rd (a + 2) 1, rdNat rd (a + 3) 1, rdNat rd (a + 4) 2, BitVec.ofNat 128 (rdNat rd (a + 16) 16),
    (List.range (len / 8)).map fun i => BitVec.ofNat 64 (rdNat rd (a + 32 + 8 * i) 8)⟩,
   rdNat rd (a + 6) 2, len, crc32 (rdBytes rd (a + 32) (a + 32 + len)) == crc, crc⟩

/-- The records from offset `a` up to `hi`, at most `n` of them; none when a record passes the end. -/
def readTables (rd : Nat → Byte) (hi : Nat) : Nat → Nat → Option (List (Nat × TableRec))
  | 0, a => if a = hi then some [] else none
  | n + 1, a =>
    if a = hi then some []
    else if hi < a + 32 then none
    else
      let r := readTable rd a
      if hi < a + 32 + r.bodyLen then none
      else (readTables rd hi n (a + 32 + r.bodyLen)).map fun t => (a, r) :: t

/-- The reference records of stepping C: TABLE_ID, COUNT, BODY_CRC; each of degree 5 (R93). -/
def referenceLines : List (Nat × Nat × Nat) :=
  [(0x0001, 256, 0x5E0C71A9), (0x0002, 256, 0x2B9D04E6), (0x0003, 1, 0xC4173A50), (0x0004, 256, 0x8F62D13B),
   (0x0005, 256, 0x13A86FC2), (0x0006, 256, 0x7D41B98E), (0x0007, 1, 0xE2F50C17), (0x0008, 1, 0x9B06E7D4),
   (0x0009, 128, 0x4C3E2A85), (0x000A, 512, 0xA1D75F30)]

/-- Body length that the kind, degree and count give (R92). -/
def FuncTable.bodyBytes (t : FuncTable) : Nat :=
  match t.kind with
  | 0 => 8 * t.count * (t.degree + 1)
  | 1 => 8 * t.count * (t.degree + 2)
  | _ => 8 * t.count

/-- The fields and segment words of a user table (R96). -/
def userTableOk (t : FuncTable) : Bool :=
  let p := t.params.toNat
  let wshift := sext 8 (bits p 39 32)
  bits p 30 23 != 255 && decide (-24 ≤ wshift) && decide (wshift ≤ 8) && decide (bits p 47 40 ≤ 2)
    && decide (bits p 51 48 ≤ 4) && decide (bits p 55 52 ≤ 4) && bits p 63 56 == 0
    && (List.range t.count).all fun j => bits (t.body.getD (j * (t.degree + 2)) 0).toNat 63 17 == 0

/-- Is a record within R92 to R96? -/
def TableRec.ok (r : TableRec) : Bool :=
  let t := r.table
  r.reserved == 0 && r.crcOk && r.bodyLen == t.bodyBytes && decide (1 ≤ t.count) && (match t.kind with
    | 0 => t.params == 0 && t.degree == 5 && referenceLines.contains (t.id, t.count, r.crc)
    | 1 => decide (0x10 ≤ t.id) && decide (t.id ≤ 0x1F) && decide (1 ≤ t.degree) && decide (t.degree ≤ 5)
        && decide (t.count ≤ 256) && userTableOk t
    | 2 => decide (0x20 ≤ t.id) && decide (t.id ≤ 0x27) && t.degree == 0 && decide (t.count ≤ 4096) && t.params == 0
    | _ => false)

/-- Are numbers strictly rising? -/
def rising : List Nat → Bool
  | a :: b :: t => decide (a < b) && rising (b :: t)
  | _ => true

/-- The table records of an image; none when the section is malformed. -/
def imgTables (rd : Nat → Byte) : Option (List (Nat × TableRec)) :=
  match imgSection rd 1 with
  | none => none
  | some x => readTables rd (x.off + x.len) 34 x.off

/-- The TABLES part of check 3: the offset of the first record that fails, or of the section; none when it passes. -/
def tablesFault (rd : Nat → Byte) : Option Nat :=
  let base := ((imgSection rd 1).map Section.off).getD 0
  match imgTables rd with
  | none => some base
  | some rs =>
    match rs.find? fun r => !r.2.ok with
    | some r => some r.1
    | none =>
      let ids := rs.map fun r => r.2.table.id
      if rising ids && referenceLines.all (fun l => ids.contains l.1) then none else some base

/-! ### The chain library and the policy (R283, R284) -/

/-- The chain entries from offset `a` up to `hi`, `n` of them: offset and words; none when one passes the end. -/
def readChains (rd : Nat → Byte) (hi : Nat) : Nat → Nat → Option (List (Nat × List W64))
  | 0, a => if a = hi then some [] else none
  | n + 1, a =>
    let len := 8 * (bits (rdNat rd a 8) 15 12 + 2)
    if hi < a + len then none
    else (readChains rd hi n (a + len)).map fun t =>
      (a, (List.range (len / 8)).map fun i => BitVec.ofNat 64 (rdNat rd (a + 8 * i) 8)) :: t

/-- The entries of the CHAINS section (R283). -/
def imgChains (rd : Nat → Byte) : Option (List (Nat × List W64)) :=
  match imgSection rd 2 with
  | none => none
  | some x =>
    let count := rdNat rd x.off 8
    if count = 0 ∨ 4096 < count then none else readChains rd (x.off + x.len) count (x.off + 8)

/-- The formats in which a chain's elements leave: one for each ROUND or SPLIT stage, else that of R35 and R166. -/
def Chain.outFmts (c : Chain) : List Nat :=
  let fs := (c.stages.filter fun w => stOp w == opROUND || stOp w == opSPLIT).map fun w =>
    if stOp w = opSPLIT then 0x2 else stSfmt w
  if fs.isEmpty then [c.outFmt] else fs

/-- The width class of R73 from the stream input and the output formats, of which the widest counts. -/
def Chain.classOf (c : Chain) : Nat :=
  let w := max (fmtWidth c.infmt)
    (if c.out = 0 then 0 else ((c.outFmts.filter (· < 0xC)).map fmtWidth).foldl max 0)
  if 16 < w then 0 else if 8 < w then 1 else if 6 < w then 2 else if 4 < w then 3 else 4

/-- The issue interval f is 2 (R17, R91). -/
def Chain.slow (c : Chain) : Bool :=
  c.stages.any fun w => stOp w == opROT
    || (stOp w == opFUNC && c.classOf == 0 && decide (6 ≤ bits w 28 24) && decide (bits w 28 24 ≤ 11))

/-- The opcodes of the catalogue (R159). -/
def opcodes : List Nat :=
  [opMASK, opSELECT, opTHRESH, opSCALE, opFMA, opDEQ, opALIGN, opNORM, opPAIRROT, opPIVOT, opEXTREMA, opTOPK, opCOL, opSEG]
  ++ [opFUNC, opROT, opSUM, opRECOMB, opTALLY, opROUND, opSPLIT, opOVFCHK]

/-- The first bit from 24 upward that the catalogue does not name for an opcode (R152, R159). -/
def stTop (op : Nat) : Nat :=
  if op = opPAIRROT ∨ op = opOVFCHK then 24
  else if op = opSPLIT then 25
  else if op = opPIVOT ∨ op = opEXTREMA ∨ op = opCOL ∨ op = opRECOMB ∨ op = opTALLY then 26
  else if op = opMASK then 27
  else if op = opALIGN then 28
  else if op = opNORM then 29
  else if op = opFMA ∨ op = opFUNC ∨ op = opSUM then 30
  else if op = opTOPK then 31
  else if op = opTHRESH ∨ op = opSEG ∨ op = opROUND then 32
  else if op = opSELECT ∨ op = opSCALE then 33
  else if op = opDEQ then 35
  else 41

/-- Is a chain entry right: reserved fields zero, computed fields as stored (R151), and every code that it names enabled
(R284)? -/
def chainOk (fmtEn rndEn : Nat) (ws : List W64) : Bool :=
  let c := chainOf ws
  bits c.hdr 63 53 == 0 && c.wings != 0 && decide (bits c.hdr 20 16 ≤ c.stages.length)
    && c.wclass == c.classOf && c.passes == (c.stages.map stPass).foldl max 0 + 1 && bit c.hdr 27 == c.slow
    && bit fmtEn c.infmt && (!c.secen || bit fmtEn c.secfmt)
    && c.stages.all fun w => !bit w 23 && bits w 63 (stTop (stOp w)) == 0 && opcodes.contains (stOp w)
      && bit fmtEn (stSfmt w) && bit rndEn (stRnd w)

/-- POLICY (R284): FMT_ENABLE, RND_ENABLE, and whether the section is right. -/
def imgPolicy (rd : Nat → Byte) : Nat × Nat × Bool :=
  match imgSection rd 3 with
  | none => (0, 0, false)
  | some x =>
    let w := rdNat rd x.off 16
    (bits w 15 0, bits w 20 16, x.len == 16 && w / 2 ^ 21 == 0 && bits w 15 12 == 1)

/-- Check 3 of R289: where it fails, as the chain ID (0 when the item is no chain) and the offset; none when it holds. -/
def imgCheck3 (rd : Nat → Byte) : Option (Nat × Nat) :=
  let p := imgPolicy rd
  match tablesFault rd with
  | some a => some (0, a)
  | none =>
    if !p.2.2 then some (0, ((imgSection rd 3).map Section.off).getD 0)
    else
      match imgChains rd with
      | none => some (0, ((imgSection rd 2).map Section.off).getD 0)
      | some cs =>
        match cs.find? fun c => !chainOk p.1 p.2.1 c.2 with
        | some c => some ((chainOf c.2).id, c.1)
        | none =>
          if rising (cs.map fun c => (chainOf c.2).id) then none
          else some (0, ((imgSection rd 2).map Section.off).getD 0)

/-- The digest of R281 over an image. -/
def imgDigest (rd : Nat → Byte) : BitVec 256 := sha256 (rdBytes rd 0x80 (imgLen rd) ++ rdBytes rd 0 0x20)

/-- The first of checks 1 to 4 that fails: its number, the chain ID and the offset concerned. -/
def imgFault (rd : Nat → Byte) : Option (Nat × Nat × Nat) :=
  if !imgCheck1 rd then some (1, 0, 0)
  else if !imgCheck2 rd then some (2, 0, 0x80)
  else
    match imgCheck3 rd with
    | some (c, a) => some (3, c, a)
    | none => if imgDigest rd = imgHash rd then none else some (4, 0, 0x20)

/-! ### What the loaders take (steps 7 and 8 of R286) -/

/-- The tables of an image. -/
def loadTables (rd : Nat → Byte) : List FuncTable := ((imgTables rd).getD []).map fun r => r.2.table

/-- A wing's chain library and policy from an image. -/
def WingImage.loadChains (w : WingImage) (rd : Nat → Byte) : WingImage :=
  { w with
    chains := ((imgChains rd).getD []).map fun c => (BitVec.ofNat 12 (chainOf c.2).id, c.2)
    fmtEnable := BitVec.ofNat 16 (imgPolicy rd).1
    rndEnable := BitVec.ofNat 5 (imgPolicy rd).2.1 }

/-! ### Copies (R279) -/

/-- Where a copy begins: A, B, golden. -/
def copyBase (c : Nat) : Nat :=
  match c with
  | 0 => 0x800000
  | 1 => 0x1000000
  | _ => 0

/-- A copy in the NVM device. -/
def State.copyRd (s : State) (c : Nat) : Nat → Byte := fun i => sget nvmDefault s.nvm (copyBase c + i)

/-- A source image in memory (R300). -/
def State.srcRd (s : State) (a : Nat) : Nat → Byte := fun i => memByte s.mem (a + i)

/-- Bytes and sectors that PROGRAM takes from its source (R300). -/
def programLen (rd : Nat → Byte) : Nat := imgLen rd + imgSigLen rd
def programSectors (rd : Nat → Byte) : Nat := cdiv (programLen rd) 4096

/-- The NVM device after PROGRAM has erased `e` sectors of copy `c` and programmed `p` pages. -/
def State.programNvm (s : State) (c src e p : Nat) : List Host.Cell :=
  let rd := s.srcRd src
  let b := copyBase c
  nvmProgram (nvmErase s.nvm b (b + 4096 * e))
    ((List.range (min (256 * p) (programLen rd))).map fun i => (b + i, rd i))

/-- A PROGRAM operation that a reset or a Stop cuts off leaves its copy partly written, which the next step 5 marks FAILED:
some sectors erased, at least one, then some pages programmed, a free number of them and never the last (R300,
notes/assumptions/13). -/
def State.cutProgram (s : State) : State :=
  match s.img.program with
  | none => s
  | some (c, src) =>
    let rd := s.srcRd src
    if !imgCheck1 rd then s
    else
      let n := programSectors rd
      let k := s.takeFree
      let j := 1 + k.1 % (n + cdiv (programLen rd) 256 - 1)
      { k.2 with
        nvm := s.programNvm c.toNat src (min j n) (j - n)
        cutCopy := some c }

end Sys2Proof.Machine
end

