-- ==== Sys2Proof/Machine/Reset.lean ====
section
/-! DEFINITION. What survives an event (R329), the drain (R323) and the events that begin one, the loss of an unlock
(R358), fault Stops (R315), and a Lath reset (R267, R325, R365). -/

namespace Sys2Proof.Machine

/-! ### Entries that AO makes itself -/

/-- An entry enters the ring, or counts in OVF when the ring is full (R268). -/
def State.logRing (s : State) (e : LogEntry) : State :=
  if s.log.ring.length < 128 then { s with log := { s.log with ring := s.log.ring ++ [e] } }
  else { s with log := { s.log with ovf := satAdd s.log.ovf 1 } }

/-- An entry of SRCKIND AO (notes/assumptions/14: it does not pass through the Control domain's queue). -/
def State.logAO (s : State) (cause seq where_ aux : Nat) : State := s.logRing (logWords cause 6 0 0 0 seq where_ aux)

def cBROWNOUT : Nat := 0x60
def cWARMRESET : Nat := 0x61
def cWAKELOST : Nat := 0x64
def cCELLARBAD : Nat := 0x65
def cTROWELFAIL : Nat := 0x48
def cMORTARFAIL : Nat := 0x77

/-! ### LEVEL (R357, R358) -/

/-- LEVEL changes; below Full every halted core resumes (R357). -/
def State.setLevel (s : State) (l : Nat) : State :=
  { s with
    dbg := { s.dbg with level := BitVec.ofNat 2 l }
    cores := if l < 2 then s.cores.map fun c => { c with halted := false } else s.cores }

/-- The loss of an unlock: LEVEL becomes the lesser of LEVEL and the DEFAULT of a lifecycle state (R358). -/
def State.loseUnlock (s : State) (lc : BitVec 2) : State := s.setLevel (min s.dbg.level.toNat (lcDefault lc))

/-- The lifecycle state is read from the Gatehouse (R351). Its fuses only go forward (R352): an answer behind the state that
they are known to hold cannot come, and leaves that state. -/
def Dbg.readFuses (d : Dbg) (lc : BitVec 2) : Dbg :=
  let x := if d.fuse.toNat < lc.toNat then lc else d.fuse
  { d with
    lc := x
    fuse := x }

/-! ### The survival columns (R329) -/

/-- Spare map and patrol after a reset of the switched domains: the map stands with its pending mappings applied; DNEW,
RNEW, COPY and the patrol record start again (R345, R347, R349). -/
def Spare.afterReset (x : Spare) : Spare :=
  { State.reset.spare with
    retired := x.retired
    eUse := x.eUse
    eFor := x.eFor
    wUse := x.wUse
    wFor := x.wFor
    scf0 := x.scf0
    scf0x := x.scf0x
    scf1 := x.scf1
    scf1x := x.scf1x
    bond := x.bond
    bondx := x.bondx
    cores := x.cores
    mortar := x.mortar
    bays := x.bays.map fun b => { b with soft := 0, samples := 0 }
    unwritten := x.unwritten }

/-- What every reset of the switched domains leaves: the columns Warm and Stop of R329 before anything is restored from
the Cellar. GEN, LEVEL and the power state are the caller's. The log's queued entries stay (notes/assumptions/154). -/
def State.resetControl (s : State) : State :=
  { State.reset with
    pending := s.pending
    free := s.free
    mem := s.mem
    nvm := s.nvm
    lathA := { State.reset.lathA with up := s.lathA.up }
    lathB := { State.reset.lathB with up := s.lathB.up }
    log := s.log
    sem := { State.reset.sem with
      gen := s.sem.gen
      copy := s.sem.gen }
    pwr := { s.pwr with bayOff := 0 }
    cellar := s.cellar
    spare := s.spare.afterReset
    cellarRest := s.cellarRest
    dbg := { State.reset.dbg with
      lc := s.dbg.lc
      fuse := s.dbg.fuse
      level := s.dbg.level
      zdone := s.dbg.zdone
      refusals := s.dbg.refusals }
    tap := { s.tap with
      traceCore := 0
      traceLeft := 0
      boundary := 0
      held := [] }
    cutCopy := s.cutCopy }

/-- GEN advances and OWNER becomes NONE (R266). -/
def State.dropGrant (s : State) : State :=
  { s with sem := { s.sem with
    owner := none
    gen := s.sem.gen + 1
    copy := s.sem.gen + 1 } }

/-- The comparator's output for a voltage on WAKE_SENSE, with its hysteresis (R318). -/
def Pwr.wakeLevel (p : Pwr) (mv : Nat) : Bool :=
  let vth := 200 + 40 * p.thresh.toNat
  if p.pol then (if mv < vth then true else if vth + 25 < mv then false else p.level)
  else (if vth < mv then true else if mv + 25 < vth then false else p.level)

/-- The column Cold of R329, AO included; the cause latch takes LASTCAUSE (R309). What the part does not hold is kept:
memory, the NVM device, the lifecycle fuses, the levels on the pins. -/
def State.resetCold (s : State) (phase : Phase) (lastCause : BitVec 4) : State :=
  { State.reset with
    pending := s.pending
    free := s.free
    mem := s.mem
    nvm := s.nvm
    lathA := { State.reset.lathA with up := s.lathA.up }
    lathB := { State.reset.lathB with up := s.lathB.up }
    pwr := { State.reset.pwr with
      phase := phase
      lastCause := lastCause
      rstLow := s.pwr.rstLow
      vddGood := s.pwr.vddGood
      wakeMv := s.pwr.wakeMv
      level := State.reset.pwr.wakeLevel s.pwr.wakeMv }
    dbg := { State.reset.dbg with
      lc := s.dbg.lc
      fuse := s.dbg.fuse
      level := BitVec.ofNat 2 (lcDefault s.dbg.lc) }
    cutCopy := s.cutCopy }

/-- The classes that a Lath A, Lath B or Wing reset returns to zero (R302, R325, R329): the Scaffold, the exact totals and the bond
groups with their registers; runs of tiles are discarded. -/
def State.resetScaffold (s : State) : State :=
  { s with
    ctxs := []
    alloc := []
    tags := []
    poison := []
    totals := []
    runs := s.runs.filter fun r => r.source == xpSource
    groups := []
    store := []
    formed := []
    spilled := []
    topks := []
    ctl := { s.ctl with
      etSel := 0
      etLoad := 0
      ctxBase := 0
      spillBase := 0
      spillSize := 0 } }

/-- The Wing reset (R302, R329): the wing's bays, its READY bit, what it held of its image, and the Scaffold classes;
SI_RST falls (R229). The SO egress queues lie in the Control domain: what they offer stays until it is taken (R241). -/
def State.resetWing (s : State) (west : Bool) : State :=
  let s := (wingBays west).foldl (fun (s : State) n => s.mapBay n fun b => { Bay.reset with
    soq := b.soq
    stalled := b.stalled }) s
  let s := s.resetScaffold
  { s with img := if west then { s.img with westReady := false, west := WingImage.empty }
                  else { s.img with eastReady := false, east := WingImage.empty } }

/-! ### The drain (R323) -/

/-- The tiles of a bay in increasing SEQ from NEXT. -/
def Bay.inOrder (b : Bay) : List Tile := (List.range 64).filterMap fun i => b.tiles.find? fun t => b.place t.seq == i

/-- A drained bay: every tile whose header holds a slot has its ERROR token in the egress queue (R323), and SI_RST falls with
the wing start that held it (R229). -/
def Bay.drained (b : Bay) (cause : Nat) : Bay :=
  { b with
    tiles := []
    siRst := false
    act := none
    held := none
    lanes := []
    resume := none
    replay := none }.sends (b.egress ++ b.inOrder.map fun t : Tile => tokenError t.seq cause t.chain.toNat)

/-- A drain begins: tokens, and no Lath request that has not executed, no memory request that has not entered a port, no pass,
no start and no PROGRAM go on (R195, R201, R300, R323, R326). -/
def State.beginDrain (s : State) (d : DrainEnd) (cause : Nat) : State :=
  let s := s.cutProgram.cutPasses
  { s with
    bays := s.bays.map fun b => b.drained cause
    mpWait := []
    lathA := { s.lathA with reqs := [] }
    lathB := { s.lathB with reqs := [] }
    img := { s.img with
      start := none
      program := none }
    pwr := { s.pwr with phase := .drain d } }

/-- A warm reset from Run: the WARMRESET entry with SRCKIND `kind`, LASTCAUSE, and the drain (R309, R323, R328). -/
def State.beginWarm (s : State) (kind lastCause : Nat) : State :=
  let s := if kind = 6 then s.logAO cWARMRESET s.sem.gen.toNat 0 lastCause
    else s.logE cWARMRESET kind 0 0 0 s.sem.gen.toNat 0 lastCause
  State.beginDrain { s with pwr := { s.pwr with lastCause := BitVec.ofNat 4 lastCause } } .warm cWARMRESET

/-- A fault Stop from Run begins: one entry with the fault's cause, FSTOP, and the drain (R304, R315, R348). -/
def State.faultStop (s : State) (cause : Nat) : State :=
  let s := if cause = cMORTARFAIL then s.logE cause 5 0 0 0 s.spare.sweeps.toNat 0 0
    else s.logE cause 5 0 0 0 s.img.startNo.toNat 0 (2 ^ 10 * s.img.speed.toNat)
  State.beginDrain { s with pwr := { s.pwr with fstop := BitVec.ofNat 8 cause } } (.faultStop) cause

/-- Stop entry begins: `imgValid` is what IMGVALID will be; a wake level that stands already counts (R313, R314, R319). -/
def State.enterStop (s : State) (imgValid : Bool) : State :=
  { s with pwr := { s.pwr with
    phase := .entering imgValid
    seen := s.pwr.level
    rstSeen := s.pwr.rstLow || s.pwr.rstSeen } }

/-! ### Exits from Stop (R317, R320) -/

/-- The WARMRESET entry that AO makes of a Warm reset by RST_N (R323, R328). -/
def State.logWarm (s : State) : State := s.logAO cWARMRESET s.sem.gen.toNat 0 3

/-- The exit that an event takes begins at X0 once VDD is good; until then it waits (R317, R320). By RST_N it is a Warm reset,
which makes its entry (R323, R324). -/
def State.beginExit (s : State) (k : ExitKind) : State :=
  if s.pwr.vddGood then
    let s := if k = .warm then s.logWarm else s
    { s with pwr := { s.pwr with
      phase := .powerUp k
      lowPower := false
      exit := none
      taken := false
      lastCause := if k = .warm then 3 else s.pwr.lastCause } }
  else { s with pwr := { s.pwr with
    phase := .stop
    exit := some k } }

/-- A cold start whose step 1 fails leaves the block in Stop, which an RST_N that is held low leaves at once (R286, R314, R317). -/
def State.toStop (s : State) : State :=
  let s := { s with pwr := { s.pwr with phase := .stop } }
  if s.pwr.rstLow then s.beginExit .warm else s

/-! ### A Lath reset (R267, R325, R365) -/

/-- One port of the block. -/
def State.lath (s : State) (p : Port) : LathPort :=
  match p with
  | .a => s.lathA
  | .b => s.lathB
def State.setLath (s : State) (p : Port) (x : LathPort) : State :=
  match p with
  | .a => { s with lathA := x }
  | .b => { s with lathB := x }

/-- SOURCE code of a port (R363). -/
def portSource : Port → BitVec 2
  | .a => 0
  | .b => 1

/-- The semaphore of a port that its own reset finds as OWNER: released, GEN advanced, SEMRESET (R267, R270). -/
def State.semReset (s : State) (p : Port) : State :=
  if s.sem.owner = some p then
    (s.logE 0x35 (portKind p) 0 0 0 (s.sem.copy + 1).toNat 0 s.sem.copy.toNat).dropGrant
  else s

/-- A reset of the port that SOURCE names cancels a challenge (R365). -/
def State.cancelFor (s : State) (src : BitVec 2) : State :=
  if s.dbg.state = 2 ∧ s.dbg.source = src then
    { s with dbg := { s.dbg with
      state := 0
      result := 3
      chal := 0
      resp := 0 } }
  else s

/-- _RST_N of a port falls (R267). While STOPPED is 1, or under EXTEST or INTEST, only the pin's level is seen (R321, R354). -/
def State.portReset (s : State) (p : Port) : State :=
  if s.pwr.stopped || s.testing then s.setLath p { s.lath p with up := false }
  else
    let s := s.setLath p ⟨[], [], false⟩
    let s := (List.range 32).foldl (fun (s : State) n => s.loseTiles n) s
    ((s.semReset p).cancelFor (portSource p)).resetScaffold

/-- LATH_PORT_RESET_RELEASE: _RST_N has been high for 8 pc (R256). -/
def execLathPortResetRelease (p : Port) (s : State) : Host.Outcome State Fault Refusal :=
  .next (s.setLath p { s.lath p with up := true })

end Sys2Proof.Machine
end

