-- ==== Sys2Proof/WellFormed.lean ====
section
/-! DEFINITION. Which commands can occur: the operands that the environment supplies lie in the ranges that the manual
gives them. An operand whose Lean type has exactly its range needs no check. -/

namespace Sys2Proof

/-- A node of a bond tree: at most 2^24 chunks, so at most 24 levels (R132, R134). -/
def levelWf (level : BitVec 5) : Bool := decide (level.toNat ≤ 24)

/-- A unit of the inventory (R330). -/
def UnitId.wf (u : UnitId) : Bool :=
  let p := u.unit.toNat
  let i := u.index.toNat
  match u.kind.toNat with
  | 0 => decide (p < 34) && decide (i < 264)
  | 1 => decide (p < 34) && decide (i = 0)
  | 2 => decide (p < 2) && decide (i < 17)
  | 3 => decide (p = 0) && decide (i < 17)
  | 4 => decide (p < 34) && decide (i < 1296)
  | 5 => decide (p = 0) && decide (i < 10)
  | 6 => decide (p = 0) && decide (i < 16)
  | 7 => decide (p < 34) && decide (i < 2)
  | 8 => decide (p < 34) && decide (i < 16)
  | _ => false

/-- What a memory read returns names a node of a tree. -/
def ReadTarget.wf : ReadTarget → Bool
  | .spill _ _ level _ => levelWf level
  | _ => true

/-- The answers to a start name steps 2 to 16, units of the inventory and physical bays, and the Gatehouse answers for each
copy (R286 to R293, R330). -/
def StartEnv.wf (e : StartEnv) : Bool :=
  decide (e.verdicts.length = 3)
    && e.findings.all (fun f => decide (2 ≤ f.1) && decide (f.1 ≤ 16) && f.2.wf)
    && e.failures.all (fun f => decide (2 ≤ f.1) && decide (f.1 ≤ 16) && decide (f.2.toNat < 0x7F))
    && e.margins.all (fun m => decide (m.1 < 34))
    && e.hang.all (fun k => decide (2 ≤ k) && decide (k ≤ 18))
    && e.recordFails.all (fun k => decide (2 ≤ k) && decide (k ≤ 19))
    && e.device.all fun b => decide (b.1 < 0x2000000)

/-- Is it a unit that an activity covers (R335)? -/
def activityUnitWf (a : BitVec 4) (u : BitVec 6) : Bool :=
  match a.toNat with
  | 1 => decide (u.toNat < 34)
  | 3 => decide (32 ≤ u.toNat) && decide (u.toNat < 34)
  | 4 => decide (u.toNat < 51)
  | 5 => decide (u.toNat < 34)
  | 6 => decide (u.toNat < 16)
  | 7 => decide (u.toNat < 10)
  | 8 => decide (u.toNat < 34)
  | _ => false

/-- May patrol find this (R337): a failed vector, test, self-test or comparison, a corrected table row, or an error in a bank? -/
def patrolSource (kind source : Nat) : Bool :=
  (source == 1 && [0, 1, 5, 6, 7].contains kind) || (source == 4 && [2, 3, 4].contains kind)

/-- What patrol found. -/
def PatrolEvt.wf : PatrolEvt → Bool
  | .clean a u => activityUnitWf a u
  | .bankCorrected half bank => decide (half.toNat < 3) && decide (bank.toNat < 17)
  | .finding u source => u.wf && patrolSource u.kind.toNat source.toNat

/-- A place that ECC guards (R330, R338). -/
def EccSite.wf : EccSite → Bool
  | .bondEntry _ _ level _ => levelWf level
  | .tableRow _ row => decide (row.toNat < 1296)
  | _ => true

/-- Are these the bytes of one aligned 128-byte unit, in the order of their addresses (R244)? -/
def unitWf (d : List (Nat × Byte)) : Bool :=
  match d with
  | [] => false
  | p :: _ => decide (p.1 % 128 = 0) && d.map Prod.fst == (List.range 128).map (p.1 + ·)

/-- The response of one read request: whole aligned 128-byte units, each at an address of its own of 48 bits (R28, R244). -/
def dataWf (d : List (Nat × Byte)) : Bool :=
  let units := (List.range ((d.length + 127) / 128)).map fun i => (d.drop (128 * i)).take 128
  units.all unitWf && decide (units.map fun u => (u.headD (0, 0)).1).Nodup && d.all fun p => decide (p.1 < 2 ^ 48)

/-- The operands of a command. -/
def Instr.wf : Instr → Bool
  | .memoryReadResponse _ target data => target.wf && dataWf data
  | .bondTreeMerge _ _ level _ => levelWf level
  | .bondStoreSpill _ level _ _ => levelWf level
  | .spillReturn _ level _ => levelWf level
  | .restartWing _ env => env.wf
  | .startStepTimeout step => decide (1 ≤ step.val)
  | .stoppedFall env => env.wf
  | .patrolVector evt => evt.wf
  | .patrolConfirm _ lane row stage _ _ => decide (lane.toNat < 264) && decide (row.toNat < 256) && decide (stage.toNat < 16)
  | .eccloss site => site.wf
  | .regacc _ _ _ env => env.wf
  | .coretrace core => decide (core.toNat < 10)
  | .coredbgStatus core => decide (core.toNat < 10)
  | .coredbgHalt core => decide (core.toNat < 10)
  | .coredbgStep core => decide (core.toNat < 10)
  | .coredbgResume core => decide (core.toNat < 10)
  | .coredbgRead core _ => decide (core.toNat < 10)
  | .coredbgWrite core _ _ => decide (core.toNat < 10)
  | .siHeader _ _ | .siBeat _ _ _ | .siLast _ _ _ _ | .siReservedKind _ _ | .beatCreditGrant _ _ _ | .tileAcceptance _ _
  | .argumentRead _ _ | .tileAdmission _ | .issueGroup _ | .mortarRunAdd _ | .tileRetirement _ | .contextWriteBack _
  | .soTransfer _ | .memoryWriteAck _ | .topkMerge _ _ | .droopStretch _ | .lateriskWindow _ | .lathRequestTransfer _ _
  | .lathResponseTransfer _ | .registerWrite _ | .lathPortReset _ | .semQuery _ | .semAcquire _ | .semRelease _ | .semTake _
  | .errLogPop _ | .errLogClrovf _ | .errorLogEntryTransfer | .etClear _ | .etLoad _ | .etCmdNop _ | .ctxAlloc _ | .ctxFree _
  | .scaffoldWindowWrite _ | .bgrpArm _ | .bgrpDisarm _ | .routeGo _ | .routingPassDone | .stxGo _ | .stxPassDone | .gnStart _
  | .gnAbort _ | .gnSummedFrame _ | .xpLeafFrame _ | .xpFoldFrame _ | .xpStoreFrame _ | .xpFrameInvalid _ _ | .xpFoldArm _
  | .xpFoldDisarm _ | .commit _ | .program _ | .programDone _ _ | .retest _ | .respeed _ | .imgCmdNone _ | .coldStart _ _
  | .ready | .pwrStop _ | .pwrWarmreset _ | .pwrCmdNone _ | .pwrBayoff _ | .bayGate _ | .stopEntrySave | .stopCommitWindow
  | .stopDomainsOff | .stopLowPower | .wakeEvent _ | .rstNAssert | .vauxPowerOnTrip | .vauxPowerOnRelease | .aoBrownout
  | .coreBrownout | .drainEnd | .powerupDomainOn _ | .isolationRelease | .cellarRestore | .spareMapping _ | .bankCopyDone
  | .spareBayPrepared _ _ | .spareMapNvmWrite _ | .spareCmdRetire _ | .spareCmdNone _ | .dbgNone _ | .setlevel _
  | .challenge _ | .respond _ | .advance _ | .cancel _ | .gatehouseChallenge _ | .gatehouseAnswer _ _ _ | .gatehouseTimeout
  | .tapTestLogicReset | .tapUpdateIr _ | .logread _ | .lathRead _ | .lathPortResetRelease _ | .rstNRelease
  | .coreBrownoutRelease | .bayPowerRestored _ => true

end Sys2Proof
end

