-- ==== Sys2Proof/Machine/Spares.lean ====
section
/-! DEFINITION. Spares, patrol and exhaustion (R330 to R349): the effect of a finding on the spare map, the mapping points,
the patrol events, and the spare-map record in NVM. -/

namespace Sys2Proof.Machine

/-! ### The inventory (R330) -/

/-- Does a KIND, UNIT and INDEX lie inside R330? -/
def unitOk (u : UnitId) : Bool := u.wf

/-- The layout KUI (R348). -/
def kui (u : UnitId) : Nat := u.kind.toNat + 2 ^ 8 * u.unit.toNat + 2 ^ 16 * u.index.toNat

/-- A unit by numbers. -/
def unitOf (kind unit index : Nat) : UnitId := ⟨BitVec.ofNat 4 kind, BitVec.ofNat 6 unit, BitVec.ofNat 11 index⟩

/-! ### A finding and the map (R331, R337, R340) -/

/-- The map with a physical bay's part changed. -/
def Spare.mapPhys (x : Spare) (p : Nat) (f : BayMap → BayMap) : Spare := { x with bays := x.bays.modify p f }

/-- The logical bay that the map gives physical bay `p`, if any (R331). -/
def Spare.serves (x : Spare) (p : Nat) : Option Nat := (List.range 32).find? fun n => x.mapped n == p

/-- The logical bay whose tiles physical bay `p` takes now, if any (R14, R334). -/
def Spare.serving (x : Spare) (p : Nat) : Option Nat := (List.range 32).find? fun n => x.phys n == p

/-- Is physical bay `p` a spare bay in preparation (R334)? -/
def Spare.prepares (x : Spare) (p : Nat) : Bool := x.preps.any fun q => (if q.1 then 33 else 32) == p

/-- The wing of a physical bay: true West (R13). -/
def westPhys (p : Nat) : Bool := decide (16 ≤ p) && decide (p ≠ 32)

/-- Physical bay `p` is retired: the spare bay of its wing takes over when it is free, otherwise the logical bay is lost
(R334, R340). `how` is RESULT when the spare bay takes over or nothing is lost (R348). -/
def Spare.retireBay (x : Spare) (p how : Nat) : Option (Spare × Nat) :=
  if bit x.retired.toNat p then none
  else
    let y := { x with retired := x.retired ||| BitVec.ofNat 34 (2 ^ p) }
    match x.serves p with
    | none => some (y, how)
    | some n =>
      if 32 ≤ p then some ({ y with preps := y.preps.filter fun q => q.2 != n }, 3)
      else if westPhys p then
        (if x.wUse || bit x.retired.toNat 33 then some (y, 3)
         else some ({ y with
           wUse := true
           wFor := BitVec.ofNat 4 (n - 16)
           preps := y.preps ++ [(true, n)] }, how))
      else if x.eUse || bit x.retired.toNat 32 then some (y, 3)
      else some ({ y with
        eUse := true
        eFor := BitVec.ofNat 4 n
        preps := y.preps ++ [(false, n)] }, how)

/-- One group of 17 banks: the bank that bank 16 replaces, whether bank 16 is retired, the copy that a replacement starts. -/
def retireBank (cur : BitVec 5) (spareOut : Bool) (i : Nat) : Option (BitVec 5 × Bool × Bool × Nat) :=
  if i = 16 then (if spareOut then none else some (cur, true, false, b2n (decide (cur ≠ 0x1F))))
  else if cur.toNat = i then none
  else if cur ≠ 0x1F ∨ spareOut = true then some (cur, spareOut, false, 1)
  else some (BitVec.ofNat 5 i, spareOut, true, 0)

/-- A copy joins the copies that have yet to end (R333). -/
def Spare.addCopy (x : Spare) (start : Bool) (code : BitVec 2) : Spare :=
  if start then { x with copies := x.copies ++ [code] } else x

/-- A finding on a unit: the map after it and RESULT; none when the unit is already retired (R337, R340, R346). A finding on a
spare bay in preparation retires it (R349). With both comparators failed, CMP and CMPX are both 1
(notes/assumptions/127). -/
def Spare.retire (x : Spare) (u : UnitId) : Option (Spare × Nat) :=
  let p := u.unit.toNat
  let i := u.index.toNat
  let m := x.bay p
  if x.prepares p && [0, 4, 7, 8].contains u.kind.toNat then x.retireBay p 2
  else
  match u.kind.toNat with
  | 0 =>
    if m.lanes.contains (BitVec.ofNat 9 i) then none
    else if m.lanes.length < 8 then some (x.mapPhys p fun m => { m with lanes := m.lanes ++ [BitVec.ofNat 9 i] }, 0)
    else x.retireBay p 2
  | 1 => x.retireBay p 0
  | 2 =>
    if p = 0 then
      (retireBank x.scf0 x.scf0x i).map fun r => ({ x with
        scf0 := r.1
        scf0x := r.2.1 }.addCopy r.2.2.1 1, r.2.2.2)
    else
      (retireBank x.scf1 x.scf1x i).map fun r => ({ x with
        scf1 := r.1
        scf1x := r.2.1 }.addCopy r.2.2.1 2, r.2.2.2)
  | 3 =>
    (retireBank x.bond x.bondx i).map fun r => ({ x with
      bond := r.1
      bondx := r.2.1 }.addCopy r.2.2.1 3, r.2.2.2)
  | 4 =>
    if m.rows.contains (BitVec.ofNat 11 i) then none
    else if m.rows.length < 16 then some (x.mapPhys p fun m => { m with rows := m.rows ++ [BitVec.ofNat 11 i] }, 0)
    else some (x, 1)
  | 5 =>
    if bit x.cores.toNat i then none
    else some ({ x with cores := x.cores ||| BitVec.ofNat 10 (2 ^ i) }, if popCount 10 x.cores.toNat < 2 then 0 else 1)
  | 6 =>
    if bit x.mortar.toNat i then none
    else some ({ x with mortar := x.mortar ||| BitVec.ofNat 16 (2 ^ i) }, 1)
  | 7 =>
    if i = 0 then
      (if m.cmp then none else some (x.mapPhys p fun m => { m with cmp := true }, if m.cmpx then 1 else 0))
    else if m.cmpx then none
    else some (x.mapPhys p fun m => { m with cmpx := true }, if m.cmp then 1 else 0)
  | 8 =>
    let x := x.mapPhys p fun m => { m with check := satAdd (BitVec.ofNat 2 (min m.check.toNat 1)) 1 }
    if m.check = 0 then some (x, 1) else x.retireBay p 2
  | _ => none

/-! ### What a finding does to the block -/

/-- Logical bay `n` is lost: the registers of an operation whose tiles have all retired go back first (R19), its accepted tiles
end with BAYLOST and lose their runs and records, its lanes hold nothing, its egress queue keeps ERROR tokens only, its
domains are gated (R34, R341). -/
def State.loseBay (s : State) (n p : Nat) : State :=
  let hit := (s.bay n).tiles.filter fun t => t.isAccepted || t.status == .admitted
  let s := match (s.bay n).act, (s.bay n).held with
    | none, some h => s.backOp n h
    | _, _ => s
  let s := hit.foldl (fun (s : State) t => s.refuse n t cBAYLOST t.base) s
  let s := (s.dropRecords n (hit.map Tile.seq)).mapBay n fun b => { b with
    act := none
    held := none
    lanes := []
    resume := none
    window := 0 }.sends (b.egress.filter fun x => x.kind == 6)
  { s with
    runs := s.runs.filter fun r => r.source != n
    pwr := { s.pwr with
      domains := s.pwr.domains &&& ~~~(BitVec.ofNat 38 (2 ^ p ||| 2 ^ n ||| 2 ^ s.spare.mapped n)) } }

/-- The tiles of a lost bay that are NEXT retire at once, at most `k` of them (R341). -/
def State.retireLost (s : State) (n : Nat) : Nat → State
  | 0 => s
  | k + 1 =>
    match (s.bay n).nextTile? with
    | some t =>
      match t.status with
      | .refused c e => if c.toNat = cBAYLOST then State.retireLost (s.retireRefused n t c e) n k else s
      | _ => s
    | none => s

/-- The entries of a list that still wait for their mapping, after the others and in increasing INDEX (R349). -/
def pendingLast {w : Nat} (waits : Nat → Bool) (xs : List (BitVec w)) : List (BitVec w) :=
  xs.filter (fun x => !waits x.toNat)
    ++ (xs.filter fun x => waits x.toNat).insertionSort fun a b => a.toNat ≤ b.toNat

/-- Does a firmware task run that takes more than one command: a pass, a PROGRAM operation, a start (R195, R199, R285, R300)? -/
def State.coreTask (s : State) : Bool := s.route.busy || s.stx.busy || s.img.program.isSome || s.img.start.isSome

/-- Is a core halted? -/
def State.halted (s : State) (c : Nat) : Bool := (s.cores.getD c Core.reset).halted

/-- A lane, row or comparator that has found a spare waits for its tile boundary while the logical bay holds an admitted
tile; what waits in a bay is applied in order of KIND, then INDEX (R332, R349). A core that SPARE_CMD retires ends its task
first; one that a fault retires cannot finish it (R332, R338, notes/assumptions/67). -/
def State.awaitMapping (s : State) (u : UnitId) (source result : Nat) : State :=
  let p := u.unit.toNat
  if u.kind = 5 ∧ source = 5 ∧ s.coreTask = true ∧ s.halted u.index.toNat = false then
    { s with spare := { s.spare with waiting := s.spare.waiting ++ [u] } }
  else
  match s.spare.serving p with
  | some n =>
    if [0, 4, 7].contains u.kind.toNat ∧ result = 0 ∧ (s.bay n).act.isSome = true then
      let x := { s.spare with waiting := s.spare.waiting ++ [u] }
      { s with spare := x.mapPhys p fun m => { m with
        lanes := pendingLast (x.waits 0 p) m.lanes
        rows := pendingLast (x.waits 4 p) m.rows } }
    else s
  | none => s

/-- The spare bays in preparation are powered (R334). -/
def State.powerSpare (s : State) : State :=
  s.spare.preps.foldl (fun (s : State) q =>
    { s with pwr := { s.pwr with domains := s.pwr.domains ||| BitVec.ofNat 38 (2 ^ (if q.1 then 33 else 32)) } }) s

/-- The RETIRE entry, RNEW, the finding to be written to NVM, and POOLEMPTY with DNEW when a pool has run out or a bay is
lost (R337, R342, R343, R348). `old` is the map before the finding. -/
def State.reportFinding (s : State) (old : Spare) (u : UnitId) (source result : Nat) : State :=
  let s := s.logE 0x70 5 0 0 0 s.spare.sweeps.toNat (kui u) (source + 2 ^ 8 * result)
  let s := { s with spare := { s.spare with
    rnew := true
    unwritten := s.spare.unwritten ++ [⟨u, BitVec.ofNat 8 source, BitVec.ofNat 8 result, s.img.startNo⟩] } }
  if (List.range 8).any (fun k => s.spare.exhausted k && !old.exhausted k) || s.spare.lost != old.lost then
    State.logE { s with spare := { s.spare with dnew := true } } 0x73 5 0 0 0 s.spare.sweeps.toNat (kui u) s.spare.lost
  else s

/-- An ECCLOSS entry (R348). -/
def State.logEcc (s : State) (u : UnitId) (aux : Nat) : State := s.logE cECCLOSS 5 0 0 0 0 (kui u) aux

/-- A finding of a SOURCE on a unit takes effect on the map and on the bay it takes out (R337, R340, R341). The entries of a
lost bay's tiles, of SRCKIND 0, come before those of the finding, with the ECCLOSS entry of `ecc` if the finding is such an
error (R272, R338). -/
def State.finding (s : State) (u : UnitId) (source : Nat) (ecc : Option Nat := none) : State :=
  let said := fun (s : State) => match ecc with
    | some aux => s.logEcc u aux
    | none => s
  match s.spare.retire u with
  | none => said s
  | some (x, result) =>
    let old := s.spare
    let s := { s with spare := x }
    let s := s.awaitMapping u source result
    let s := s.powerSpare
    let s := (List.range 32).foldl (fun (s : State) n =>
      if s.spare.isLost n && !old.isLost n then (s.loseBay n (old.phys n)).retireLost n 64 else s) s
    (said s).reportFinding old u source result

/-- A finding in Run: with fewer than 4 cores, or no Mortar unit, a fault Stop follows (R315, R340). -/
def State.findingRun (s : State) (u : UnitId) (source : Nat) (ecc : Option Nat := none) : State :=
  let t := s.finding u source ecc
  if u.kind = 5 ∧ 6 < popCount 10 t.spare.cores.toNat ∧ t.spare.cores ≠ s.spare.cores then t.faultStop cTROWELFAIL
  else if u.kind = 6 ∧ t.spare.mortar = 0xFFFF ∧ t.spare.mortar ≠ s.spare.mortar then t.faultStop cMORTARFAIL
  else t

/-! ### Mapping points (R332 to R334) -/

/-- SPARE_MAPPING: the pending lane, row and comparator mappings of a bay take effect at its tile boundary, and those of cores
at the end of the task that they run (R332, R349); the mapping is a task of the cores (R25, R357). -/
def execSpareMapping (n : Fin 32) (s : State) : Host.Outcome State Fault Refusal :=
  if !s.coresRun then .next s
  else .next { s with spare := { s.spare with
    waiting := s.spare.waiting.filter fun u =>
      if u.kind = 5 then s.coreTask else (s.bay n).act.isSome || u.unit.toNat != s.physBay n.val } }

/-- BANK_COPY_DONE: the copy that runs completes, and its mapping takes effect (R333). -/
def execBankCopyDone (s : State) : Host.Outcome State Fault Refusal :=
  .next { s with spare := { s.spare with copies := s.spare.copies.tail } }

/-- Does either wing's image hold a chain that may run in a wing (R311)? -/
def State.imageUses (s : State) (west : Bool) : Bool :=
  (s.img.east.chains ++ s.img.west.chains).any fun c => bit (chainOf c.2).wings (b2n west)

/-- Is physical bay `p` to be powered in Run (R311)? A bay that its spare is being prepared for serves on (R334). -/
def State.wantsBay (s : State) (p : Nat) : Bool :=
  let on := fun (n : Nat) => s.imageUses (westBay n) && !bit s.pwr.bayOff.toNat n
  (match s.spare.serves p with
    | none => false
    | some n => !bit s.spare.retired.toNat p && on n)
  || (match s.spare.serving p with
    | none => false
    | some n => !s.isLost n && on n)

/-- SPARE_BAY_PREPARED: the preparation of a wing's spare bay ends: the logical bay moves to it once its lanes hold no
tile, or a finding on the spare loses the bay (R14, R334, R349). The spare's domain stays on where that of the bay was on, or is
to be on, and is gated again where the image or PWR_BAYOFF leaves the bay unused (R5, R33, R311). The bay's droop windows count
anew (R248). -/
def execSpareBayPrepared (west passed : Bool) (s : State) : Host.Outcome State Fault Refusal :=
  match s.spare.preps.find? fun q => q.1 == west with
  | none => .next s
  | some (_, n) =>
    if s.pwr.phase ≠ .run ∨ s.coresRun = false then .next s
    else if !passed then .next (s.findingRun (unitOf 1 (if west then 33 else 32) 0) 1)
    else if (s.bay n).act.isSome then .next s
    else
      let t : State := { s with spare := { s.spare with
        preps := s.spare.preps.filter fun q => q.1 != west
        waiting := s.spare.waiting.filter fun u => u.kind == 5 || u.unit.toNat != n } }
      let spare := if west then 33 else 32
      let off := if s.bayOn n || t.wantsBay spare then 2 ^ n else 2 ^ n ||| 2 ^ spare
      .next ({ t with pwr := { s.pwr with domains := s.pwr.domains &&& ~~~(BitVec.ofNat 38 off) } }.mapBay n fun b =>
        { b with window := 0 })

/-! ### Patrol (R335 to R337, R345) -/

/-- LEFT at the start of a sweep: every activity but 2 (notes/assumptions/15). -/
def sweepLeft : BitVec 8 := 0xFD

/-- A sweep ends: SWEEPS advances and the counters of one sweep return to zero (R335, R347). -/
def Spare.nextSweep (x : Spare) : Spare :=
  { x with
    sweeps := x.sweeps + 1
    left := sweepLeft
    bankCnt := []
    covered := []
    bays := x.bays.map fun m => { m with soft := 0 } }

/-- The units that an activity has to cover in a sweep, by number (R335): powered bays in service for activities 1, 5 and 8,
those of a wing in which a wing start suspends patrol among them; for 3 the spare bays that stand in for none, while SPARETEST is
1; banks as 17 × half + bank; Mortar units; and cores, but those that are halted (R357). Retired units are left out. -/
def State.sweepUnits (s : State) (a : Nat) : List Nat :=
  let x := s.spare
  let bays := ((List.range 32).filter fun n => !x.isLost n && s.bayOn n).map x.phys
  let banks := fun (h : Nat) (cur : BitVec 5) (out : Bool) =>
    ((List.range 17).filter fun b => cur.toNat != b && !(out && b == 16)).map fun b => 17 * h + b
  match a with
  | 1 => bays
  | 3 => if x.spareTest then
      (if x.eUse || bit x.retired.toNat 32 then [] else [32]) ++ (if x.wUse || bit x.retired.toNat 33 then [] else [33])
    else []
  | 4 => banks 0 x.scf0 x.scf0x ++ banks 1 x.scf1 x.scf1x ++ banks 2 x.bond x.bondx
  | 5 => bays
  | 6 => (List.range 16).filter fun u => !bit x.mortar.toNat u
  | 7 => (List.range 10).filter fun c => !bit x.cores.toNat c && !s.halted c
  | 8 => bays
  | _ => []

/-- Does an activity run on one of its units now: not on a bay of a wing in which a wing start suspends it (R335)? -/
def State.patrolsUnit (s : State) (a u : Nat) : Bool :=
  (s.sweepUnits a).contains u && (if [1, 3, 5, 8].contains a then s.patrolsBay u else s.patrolOn)

/-- LEFT falls for each activity that has covered its units, and the sweep ends with the last (R335, R345). -/
def State.settleSweep (s : State) : State :=
  let x := s.spare
  let opened := ((List.range 8).map fun i =>
    if (s.sweepUnits (i + 1)).any fun u => !x.covered.contains (i + 1, u) then 2 ^ i else 0).sum
  let l := (if x.left = 0 then sweepLeft else x.left) &&& BitVec.ofNat 8 opened
  { s with spare := if l = 0 then x.nextSweep else { x with left := l } }

/-- An activity covers one of its units without a finding; a test vector that passes ends a run of failures of the bay's lanes
(R335, R337). -/
def State.coverUnit (s : State) (a u : Nat) : State :=
  if s.patrolsUnit a u then
    State.settleSweep { s with spare := { s.spare with
      covered := (a, u) :: s.spare.covered
      vfail := if a = 1 ∨ a = 3 then s.spare.vfail.filter fun v => v.unit.toNat != u else s.spare.vfail } }
  else s

/-- The activity that may find a unit of a KIND by its tests, with the number of what it tests (R335, R337). -/
def State.findsUnit (s : State) (u : UnitId) : Bool :=
  let p := u.unit.toNat
  let i := u.index.toNat
  match u.kind.toNat with
    | 0 => s.patrolsUnit 1 p || s.patrolsUnit 3 p
    | 1 => s.patrolsUnit 3 p
    | 5 => s.patrolsUnit 7 i
    | 6 => s.patrolsUnit 6 i
    | 7 => s.patrolsUnit 8 p
    | _ => false

/-- Is the unit a bank that activity 4 reads, and whose entry there may hold nothing: any bank of the bond store, and a Scaffold bank
that no context lies in now (R331, R333, R335)? -/
def State.readsBank (s : State) (u : UnitId) : Bool :=
  let h := u.unit.toNat
  let i := u.index.toNat
  match u.kind.toNat with
  | 2 => s.patrolsUnit 4 (17 * h + i) && (List.range 16).all fun c => s.spare.ctxBank (16 * h + c) != (h, i)
  | 3 => s.patrolsUnit 4 (34 + i)
  | _ => false

/-- What patrol finds: a table row at any corrected read; a bank at an error that activity 4 reads in an entry of it that holds
neither a context nor a node and cannot correct, with its ECCLOSS entry; a lane at its second failed vector in succession; any other
unit at its failed test (R337, R338, notes/assumptions/189). -/
def State.patrolFinding (s : State) (u : UnitId) (source : BitVec 8) : State :=
  if u.kind = 4 ∧ source = 4 then s.findingRun u 4
  else if source = 4 ∧ s.readsBank u = true then (s.findingRun u 4 (some 0)).settleSweep
  else if source ≠ 1 ∨ s.findsUnit u = false then s
  else if u.kind = 0 ∧ ¬ s.spare.vfail.contains u then { s with spare := { s.spare with vfail := u :: s.spare.vfail } }
  else
    let s := ({ s with spare := { s.spare with vfail := s.spare.vfail.filter fun v => v != u } } : State).findingRun u 1
    if s.pwr.phase = .run then s.settleSweep else s

/-- PATROL_VECTOR: what an activity of the patrol found (R335, R337). -/
def execPatrolVector (e : PatrolEvt) (s : State) : Host.Outcome State Fault Refusal :=
  match e with
  | .clean a u => .next (s.coverUnit a.toNat u.toNat)
  | .bankCorrected h b =>
    if 2 < h.toNat ∨ 16 < b.toNat then .fault .noSuchUnit
    else if !s.patrolsUnit 4 (17 * h.toNat + b.toNat) then .next s
    else
      let k := 32 * h.toNat + b.toNat
      let old := sget 0 s.spare.bankCnt k
      let n := min (old + 1) 16
      let s := { s with spare := { s.spare with bankCnt := sset 0 s.spare.bankCnt k n } }
      let u := if h = 2 then unitOf 3 0 b.toNat else unitOf 2 h.toNat b.toNat
      .next (if n = 16 ∧ old < 16 then (s.findingRun u 4).settleSweep else s)
  | .finding u source =>
    if !unitOk u then .fault .noSuchUnit
    else if s.pwr.phase ≠ .run then .next s
    else .next (s.patrolFinding u source)

/-- What a check unit compares the lane's pattern with when its FP64 result is `ref`: the result rounded into the target format
of the sampled lane, with its stage's mode, draw and scale (R53, R60, R62, R74). -/
def Sample.round (x : Sample) (ref : Nat) : Nat :=
  let y := decode 0xD (ref % 2 ^ 64)
  match x.scale with
  | .none => encode x.fmt (convert x.fmt x.mode x.draw x.wrap y)
  | .row w => if scaleValid w then encode x.fmt (encodeScaled x.fmt x.mode x.draw x.wrap y w) else canonNan x.fmt
  | .block code => sx8Element x.fmt x.mode x.draw (code.getD 0).toNat y

/-- The pattern that a check unit gives for a sample when its result differs from the reference in the bits `fault`: one
value, or two in [63:0] and [127:64] (R85). -/
def Sample.check (x : Sample) (fault : BitVec 128) : BitVec 128 :=
  match x.refs with
  | [] => 0
  | [r] => BitVec.ofNat 128 (x.round (r.toNat ^^^ fault.toNat))
  | r :: q :: _ => BitVec.ofNat 128 (x.round (r.toNat ^^^ fault.toNat) + 2 ^ 64 * x.round (q.toNat ^^^ fault.toNat / 2 ^ 64))

/-- How a sample is judged (R336): none where the patterns match; 0 where the two check units disagree, 1 where one of the 8
replays gives the lane's wrong result again, 2 otherwise. -/
def Sample.judge (x : Sample) (m : Confirm) : Option Nat :=
  if m.got = x.check m.fault1 then none
  else if x.check m.fault1 ≠ x.check m.fault2 then some 0
  else if (m.replays.take 8).contains m.got then some 1
  else some 2

/-- PATROL_CONFIRM: a shadow sample that the bay holds is compared, and confirmed: for a mismatch one PATROLMISS entry, and a
CHECK finding, a hard failure or a soft mismatch (R336, R337, R348). The check path is then done with the sample, the oldest that
has these numbers. The third soft
mismatch of the bay in a sweep retires its lane. Samples are taken on lanes in service, where the physical lane is the one that
serves the row (R15, R331). -/
def execPatrolConfirm (n : Fin 32) (lane : BitVec 9) (row : BitVec 8) (stage : BitVec 4) (element : W32)
    (m : Confirm) (s : State) : Host.Outcome State Fault Refusal :=
  let p := s.physBay n.val
  if 264 ≤ lane.toNat then .fault .noSuchUnit
  else if !s.patrolsBay p || !s.bayOn n.val || s.isLost n.val then .next s
  else
    match (s.spare.sampled.getD p []).find? fun x => x.ready
        && x.lane == lane.toNat && x.row == row.toNat && x.stage == stage.toNat && x.element == element.toNat with
    | none => .next s
    | some x =>
      let s := { s with spare := { s.spare with sampled := s.spare.sampled.modify p fun xs => xs.erase x } }
      match x.judge m with
      | none => .next s
      | some verdict =>
        let s := s.logE 0x71 0 n.val x.chain 0 x.seq element.toNat
          (row.toNat + 2 ^ 8 * stage.toNat + 2 ^ 16 * lane.toNat + 2 ^ 31 * b2n (decide (verdict = 1)))
        match verdict with
        | 0 =>
          .next ((s.logE 0x76 0 n.val 0 0 s.spare.sweeps.toNat p (m.u1.toNat + 2 ^ 4 * m.u2.toNat)).findingRun
            (unitOf 8 p m.u1.toNat) 1)
        | 1 => .next (s.findingRun (unitOf 0 p lane.toNat) 2)
        | _ =>
          let k := (s.spare.bay p).soft.toNat
          let set := fun (s : State) (v : Nat) =>
            { s with spare := s.spare.mapPhys p fun m => { m with soft := BitVec.ofNat 2 v } }
          .next (if k < 2 then set s (k + 1) else (set s 0).findingRun (unitOf 0 p lane.toNat) 3)

/-! ### The spare-map record (R343, R344) -/

/-- Sector `s` of the record. -/
def mapSector (i : Nat) : Nat := 0x1C01000 + 4096 * i

/-- The snapshot of the map: bytes 0x010 to 0x8BF as 64-bit words at offsets (R343). -/
def Spare.snapshotWords (x : Spare) : List (Nat × Nat) :=
  [(0x10, x.baysWord), (0x18, Spare.banksWord { x with copies := [] }), (0x20, x.coresWord)]
  ++ [(0x28, 0), (0x30, 0), (0x38, 0)]
  ++ ((List.range 34).map fun p =>
    ((List.range 8).map fun w => (0x40 + 64 * p + 8 * w, if w = 7 then 0 else (x.bay p).word w))).flatten

/-- The bytes of a snapshot from address `a` (R343). -/
def Spare.snapshot (x : Spare) (a serial startNo : Nat) : List (Nat × Byte) :=
  let body := (x.snapshotWords.map fun w => leBytes (a + w.1) w.2 8).flatten
  leBytes a (0x4D53 + 2 ^ 16) 4 ++ leBytes (a + 4) serial 4 ++ leBytes (a + 8) startNo 4
    ++ leBytes (a + 12) (crc32 (body.map Prod.snd)) 4 ++ body

/-- The bytes of a finding entry at address `a` (R343). -/
def findingBytes (f : FindingRec) (a : Nat) : List (Nat × Byte) :=
  let body := leBytes a (0x4E46 + 2 ^ 16 * f.unit.kind.toNat + 2 ^ 24 * f.unit.unit.toNat + 2 ^ 32 * f.unit.index.toNat
    + 2 ^ 48 * f.source.toNat + 2 ^ 56 * f.result.toNat) 8 ++ leBytes (a + 8) f.startNo.toNat 4
    ++ leBytes (a + 12) (2 ^ 128 - 1) 16
  body ++ leBytes (a + 28) (crc32 (body.map Prod.snd)) 4

/-- Is there a valid snapshot in sector `i` of the record? -/
def snapshotOk (m : List Host.Cell) (i : Nat) : Bool :=
  let a := mapSector i
  nvmRead m a 3 == 0x4D53 + 2 ^ 16 && crc32 (nvmBytes m (a + 0x10) 0x8B0) == nvmRead m (a + 12) 4

/-- SERIAL of sector `i`. -/
def snapshotSerial (m : List Host.Cell) (i : Nat) : Nat := nvmRead m (mapSector i + 4) 4

/-- The sector with the latest valid snapshot: the last of the run of consecutive SERIALs (R344). -/
def latestSector (m : List Host.Cell) : Option Nat :=
  let ok := (List.range 1023).filter (snapshotOk m)
  let serials := ok.map fun i => (i, snapshotSerial m i)
  let ends := serials.filter fun p => !serials.any fun q => q.2 == (p.2 + 1) % 2 ^ 32
  (ends.foldl (fun (o : Option (Nat × Nat)) p => match o with
    | none => some p
    | some q => if q.2 < p.2 then some p else o) none).map Prod.fst

/-- Where the next finding goes: the address of a free entry of the latest sector, or the sector that a snapshot opens
with its SERIAL (R343). -/
def nextFinding (m : List Host.Cell) : Nat ⊕ (Nat × Nat) :=
  match latestSector m with
  | none => .inr (0, 1)
  | some i =>
    match (List.range 56).find? fun k => nvmRead m (mapSector i + 0x900 + 32 * k) 2 == 0xFFFF with
    | some k => .inl (mapSector i + 0x900 + 32 * k)
    | none => .inr ((i + 1) % 1023, (snapshotSerial m i + 1) % 2 ^ 32)

/-- The oldest unwritten finding is programmed, or a snapshot of the whole map (R343); `ok` says that the program
succeeds. A failure makes a SPAREWRITE entry and leaves the finding unwritten. -/
def State.writeFinding (s : State) (ok : Bool) : State :=
  match s.spare.unwritten with
  | [] => s
  | f :: rest =>
    let q := nextFinding s.nvm
    let addr := match q with
      | .inl a => a
      | .inr p => mapSector p.1
    if !ok then s.logE 0x75 5 0 0 0 s.img.startNo.toNat addr (kui f.unit)
    else
      { s with
        nvm := match q with
          | .inl a => nvmProgram s.nvm (findingBytes f a)
          | .inr p => nvmProgram (nvmErase s.nvm (mapSector p.1) (mapSector (p.1 + 1)))
              (s.spare.snapshot (mapSector p.1) p.2 s.img.startNo.toNat)
        spare := { s.spare with unwritten := match q with
          | .inl _ => rest
          | .inr _ => [] } }

/-- SPARE_MAP_NVM_WRITE: the trowel cores write a finding made in Run (R343, R344). -/
def execSpareMapNvmWrite (ok : Bool) (s : State) : Host.Outcome State Fault Refusal :=
  if s.pwr.phase = .run ∧ s.coresRun = true then .next (s.writeFinding ok) else .next s

/-- The units that a snapshot's words retire, in the order of its fields; `rd` reads it from its first byte (R343). Of the CHECK
findings of a bay only those count that go beyond the ones `x` holds, since CHECK is their number (R344, R345). -/
def Spare.snapshotUnits (x : Spare) (rd : Nat → Byte) : List UnitId :=
  let bays := rdNat rd 0x10 8
  let banks := rdNat rd 0x18 8
  let cores := rdNat rd 0x20 8
  let bank := fun (lo kind unit : Nat) =>
    (if bits banks (lo + 4) lo ≠ 0x1F then [unitOf kind unit (bits banks (lo + 4) lo)] else [])
      ++ (if bit banks (lo + 5) then [unitOf kind unit 16] else [])
  let quads := fun (p w n kind width : Nat) => (List.range n).filterMap fun i =>
    let v := rdNat rd (0x40 + 64 * p + 8 * w + 2 * i) 2
    if bit v 15 then some (unitOf kind p (v % 2 ^ width)) else none
  ((List.range 34).filter fun p => bit bays p).map (fun p => unitOf 1 p 0)
    ++ bank 0 2 0 ++ bank 8 2 1 ++ bank 16 3 0
    ++ ((List.range 10).filter fun c => bit cores c).map (fun c => unitOf 5 0 c)
    ++ ((List.range 16).filter fun u => bit cores (32 + u)).map (fun u => unitOf 6 0 u)
    ++ ((List.range 34).map fun p =>
      quads p 0 8 0 9 ++ quads p 2 16 4 11
        ++ (if bit (rdNat rd (0x70 + 64 * p) 8) 0 then [unitOf 7 p 0] else [])
        ++ (if bit (rdNat rd (0x70 + 64 * p) 8) 1 then [unitOf 7 p 1] else [])
        ++ List.replicate (bits (rdNat rd (0x70 + 64 * p) 8) 3 2 - (x.bay p).check.toNat) (unitOf 8 p 0)).flatten

/-- A map with the fields of a snapshot (R343, R345). -/
def Spare.ofSnapshot (x : Spare) (rd : Nat → Byte) : Spare :=
  let bays := rdNat rd 0x10 8
  let banks := rdNat rd 0x18 8
  let cores := rdNat rd 0x20 8
  let quads := fun (p w n : Nat) => (List.range n).filterMap fun i =>
    let v := rdNat rd (0x40 + 64 * p + 8 * w + 2 * i) 2
    if bit v 15 then some v else none
  { x with
    retired := BitVec.ofNat 34 bays
    eUse := bit bays 34
    eFor := BitVec.ofNat 4 (bits bays 38 35)
    wUse := bit bays 39
    wFor := BitVec.ofNat 4 (bits bays 43 40)
    scf0 := BitVec.ofNat 5 banks
    scf0x := bit banks 5
    scf1 := BitVec.ofNat 5 (bits banks 12 8)
    scf1x := bit banks 13
    bond := BitVec.ofNat 5 (bits banks 20 16)
    bondx := bit banks 21
    cores := BitVec.ofNat 10 cores
    mortar := BitVec.ofNat 16 (bits cores 47 32)
    bays := (List.range 34).map fun p =>
      let f := rdNat rd (0x70 + 64 * p) 8
      { BayMap.zero with
        lanes := (quads p 0 8).map (BitVec.ofNat 9)
        rows := (quads p 2 16).map (BitVec.ofNat 11)
        cmp := bit f 0
        cmpx := bit f 1
        check := BitVec.ofNat 2 (bits f 3 2) } }

/-- The valid finding entries of a sector, in order, each with its RESULT (R343, R344). -/
def sectorFindings (m : List Host.Cell) (i : Nat) : List (UnitId × Nat) :=
  (List.range 56).filterMap fun k =>
    let a := mapSector i + 0x900 + 32 * k
    if nvmRead m a 2 = 0x4E46 ∧ crc32 (nvmBytes m a 28) = nvmRead m (a + 28) 4 then
      some (unitOf (nvmRead m (a + 2) 1) (nvmRead m (a + 3) 1) (nvmRead m (a + 4) 2), nvmRead m (a + 7) 1)
    else none

/-- A map with the pending lane, row, comparator and bay mappings of one wing applied (R302, R349). -/
def Spare.settledWing (x : Spare) (west : Bool) : Spare :=
  { x with
    waiting := x.waiting.filter fun u => u.kind == 5 || westPhys u.unit.toNat != west
    preps := x.preps.filter fun q => q.1 != west }

/-- A map with its pending mappings applied, as at power-up (R349). -/
def Spare.settled (x : Spare) : Spare :=
  { x with
    copies := []
    waiting := []
    preps := [] }

/-- A finding of the record applied again (R344). A RESULT of 2 or 3 for a unit whose pool still had a spare says that the
finding met a spare bay in preparation and retired it (R348, R349). No preparation of an earlier one is left. -/
def Spare.replay (x : Spare) (u : UnitId) (result : Nat) : Spare :=
  let m := x.bay u.unit.toNat
  let whole := decide (2 ≤ result) && match u.kind.toNat with
    | 0 => decide (m.lanes.length < 8)
    | 4 => true
    | 7 => true
    | 8 => decide (m.check = 0)
    | _ => false
  (match if whole then x.retireBay u.unit.toNat 2 else x.retire u with
    | some r => r.1
    | none => x).settled

/-- The AO copy as a Cold start rebuilds it from the NVM record (R344). -/
def Spare.rebuilt (x : Spare) (m : List Host.Cell) : Spare :=
  match latestSector m with
  | none => x
  | some i =>
    let rd := fun k => sget nvmDefault m (mapSector i + k)
    (sectorFindings m i).foldl (fun (x : Spare) f => x.replay f.1 f.2) (x.ofSnapshot rd).settled

end Sys2Proof.Machine
end

