-- ==== Sys2Proof/Machine/Start.lean ====
section
/-! DEFINITION. The start sequence (R285 to R297, R302): the start log and the selection record, the sixteen steps with
their failures, time limits and outcomes, and READY. A start runs from its first step up to a step that the surroundings
leave hanging (notes/assumptions/16), or to step 16, which is a command of its own. -/

namespace Sys2Proof.Machine

/-! ### Causes (R304) -/

def cAOFAULT : Nat := 0x40
def cNVMDEAD : Nat := 0x41
def cNVMSPEED : Nat := 0x42
def cIMGHDR : Nat := 0x43
def cIMGCONTENT : Nat := 0x44
def cIMGAUTH : Nat := 0x45
def cNOIMAGE : Nat := 0x46
def cCOPYFALLBACK : Nat := 0x47
def cSTEPFAIL : Nat := 0x49
def cSTEPSKIP : Nat := 0x4A
def cWINGSPLIT : Nat := 0x4B
def cIMGCHANGED : Nat := 0x4C
def cRESUMEMISS : Nat := 0x4D
def cLOGFAIL : Nat := 0x4E
def cGENCLASH : Nat := 0x4F
def cPROGFAIL : Nat := 0x50
def cWINGLOAD : Nat := 0x51

/-- An entry of this chapter: SRCKIND TROWEL, SEQ START_NO, AUX from step, copy, level and reason (R304). -/
def State.logImg (s : State) (cause step copy reason chain where_ : Nat) : State :=
  s.logE cause 5 0 chain 0 s.img.startNo.toNat where_
    (step + 2 ^ 8 * copy + 2 ^ 10 * s.img.speed.toNat + 2 ^ 16 * reason)

/-! ### The start log (R295, R296) -/

/-- Address of record `n`. -/
def recAddr (n : Nat) : Nat := 0x1800000 + 256 * (n % 16384)

/-- Is record `n` in its slot, with CRC1 correct (R295)? -/
def recValid (m : List Host.Cell) (n : Nat) : Bool :=
  let a := recAddr n
  nvmRead m (a + 4) 4 == n && crc32 (nvmBytes m a 12) == nvmRead m (a + 12) 4

/-- One byte of record `n`. -/
def recByte (m : List Host.Cell) (n off : Nat) : Nat := (sget nvmDefault m (recAddr n + off)).toNat

/-- Are parts 2 and 4 of record `n` present? -/
def recPart2 (m : List Host.Cell) (n : Nat) : Bool :=
  crc32 (nvmBytes m (recAddr n + 0x11) 39) == nvmRead m (recAddr n + 0x38) 4
def recPart4 (m : List Host.Cell) (n : Nat) : Bool :=
  crc32 (nvmBytes m (recAddr n + 0x40) 40) == nvmRead m (recAddr n + 0x68) 4

/-- The latest record: the last of the run of consecutive numbers that the ring holds (R295). -/
def latestRecord (m : List Host.Cell) : Option Nat :=
  let nos := (List.range 16384).filterMap fun i =>
    let n := nvmRead m (recAddr i + 4) 4
    if n % 16384 = i ∧ recValid m n = true then some n else none
  (nos.filter fun n => !recValid m ((n + 1) % 2 ^ 32)).foldl (fun (o : Option Nat) n => match o with
    | none => some n
    | some q => some (max q n)) none

/-- Record `n` and those before it, newest first, as far as they are valid, at most `k`. -/
def recordsFrom (m : List Host.Cell) (n : Nat) : Nat → List Nat
  | 0 => []
  | k + 1 => if recValid m n then n :: recordsFrom m ((n + 2 ^ 32 - 1) % 2 ^ 32) k else []

/-- Does a kind run a step (R286)? Kinds: 0 COLD, 1 WARM, 2 RESUME, 3 and 4 WING. -/
def stepRuns (kind step : Nat) : Bool :=
  match kind with
  | 0 => true
  | 1 => step != 1
  | 2 => [2, 3, 4, 5, 6, 7, 8, 9, 14, 16].contains step
  | _ => [3, 5, 7, 8, 9, 10, 11, 14, 15, 16].contains step

/-- The optional steps (R286). -/
def optionalStep (k : Nat) : Bool := [10, 11, 12, 13, 15].contains k

/-- Did a full start that ran step `k` fail it; none when record `n` is no full start or did not run it (R292)? -/
def stepFailedIn (m : List Host.Cell) (k n : Nat) : Option Bool :=
  let o := fun j => recByte m n (0x3F + j)
  let kind := recByte m n 3
  if 2 ≤ kind ∨ o k = 0x10 ∨ o k = 0x11 then none
  else if o k = 0xFF then
    (if !recPart4 m n && (List.range k).all (fun j => j = 0 || !stepRuns kind j || o j != 0xFF) then some true else none)
  else some (decide (0x80 ≤ o k))

/-- The skip set that the records before a start give, newest first (R292). -/
def skipSet (m : List Host.Cell) (recs : List Nat) : Nat :=
  let carried := match recs.find? (recPart4 m) with
    | some n => recByte m n 0x60 + 256 * recByte m n 0x61
    | none => 0
  let failed := ((List.range 17).map fun k =>
    if optionalStep k ∧ (recs.filterMap (stepFailedIn m k)).take 2 = [true, true] then 2 ^ (k - 1) else 0).sum
  carried ||| failed

/-- The copies that the records before a start mark FAILED (R296). -/
def failedSet (m : List Host.Cell) : List Nat → Nat
  | [] => 0
  | n :: t => if recPart4 m n then recByte m n 0x62 % 8 else if recPart2 m n then recByte m n 0x12 % 8 else failedSet m t

/-! ### The selection record (R297) -/

def selAddr (j : Nat) : Nat := 0x1C00000 + 16 * j

/-- Is entry `j` valid? -/
def selValid (m : List Host.Cell) (j : Nat) : Bool := crc32 (nvmBytes m (selAddr j) 12) == nvmRead m (selAddr j + 12) 4

/-- The valid entries as words of 96 bits, newest first. -/
def selEntries (m : List Host.Cell) : List Nat :=
  ((List.range 256).reverse.filter (selValid m)).map fun j => nvmRead m (selAddr j) 12

/-- PREFERRED: from the newest entry that does not leave it unchanged; A when there is none. -/
def selPreferred (m : List Host.Cell) : Nat :=
  match (selEntries m).find? fun w => bits w 33 32 != 3 with
  | some w => bits w 33 32
  | none => 0

/-- The entries that act on the next full start after record `latest` (R297). -/
def selActing (m : List Host.Cell) (latest : Option Nat) : List Nat :=
  match latest.bind fun n => (recordsFrom m n 16384).find? fun i => decide (recByte m i 3 < 2) with
  | none => selEntries m
  | some full => (selEntries m).filter fun w => decide ((w % 2 ^ 32 + 2 ^ 32 - full) % 2 ^ 32 < 2 ^ 31)

/-- What acting entries clear, and whether one sets RETEST or RESPEED. -/
def selClear (ws : List Nat) : Nat := ws.foldl (fun n w => n ||| bits w 36 34) 0
def selRetest (ws : List Nat) : Bool := ws.any fun w => bit w 37
def selRespeed (ws : List Nat) : Bool := ws.any fun w => bit w 38

/-- The bytes of an entry at address `a`. -/
def selBytes (a seq pref clear : Nat) (retest respeed : Bool) : List (Nat × Byte) :=
  let body := leBytes a (seq + 2 ^ 32 * pref + 2 ^ 34 * clear + 2 ^ 37 * b2n retest + 2 ^ 38 * b2n respeed
    + (2 ^ 96 - 2 ^ 39)) 12
  body ++ leBytes (a + 12) (crc32 (body.map Prod.snd)) 4

/-- The entry after the last one that is not erased; 256 when the sector is full (R297). -/
def selFree (m : List Host.Cell) : Nat :=
  match ((List.range 256).filter fun j => nvmRead m (selAddr j) 16 != 2 ^ 128 - 1).getLast? with
  | some i => i + 1
  | none => 0

/-- A selection entry is written; when entry 255 is full the sector is erased, and entry 0 takes the current PREFERRED
with what has not yet acted. SEQ is the latest record's START_NO, and 0 while there is none (R297). When the program fails, `ok` is
false: one LOGFAIL entry, and nothing is written (R304, notes/assumptions/126). -/
def State.writeSelection (s : State) (ok : Bool) (pref clear : Nat) (retest respeed : Bool) : State :=
  let latest := latestRecord s.nvm
  let seq := latest.getD 0
  let j := selFree s.nvm
  if !ok then s.logImg cLOGFAIL 0 0 3 0 (selAddr (if j < 256 then j else 0))
  else if j < 256 then { s with nvm := nvmProgram s.nvm (selBytes (selAddr j) seq pref clear retest respeed) }
  else
    let acts := selActing s.nvm latest
    let keep := if pref = 3 then selPreferred s.nvm else pref
    let entry := selBytes (selAddr 0) seq keep (selClear acts ||| clear) (selRetest acts || retest) (selRespeed acts || respeed)
    { s with nvm := nvmProgram (nvmErase s.nvm (selAddr 0) (selAddr 256)) entry }

/-! ### A start in progress -/

/-- Surroundings that answer nothing. -/
def noEnv : StartEnv := ⟨0, false, false, 0, [], 0, [], [], [], [], false, (false, false), false, [], false, [], []⟩

/-- A start at its first step. -/
def Start.begin (kind cause : Nat) (env : StartEnv) (copy : BitVec 2) : Start :=
  { kind := BitVec.ofNat 3 kind, cause := BitVec.ofNat 8 cause, env := env, step := 2, tried := 0
    outcomes := (if kind = 0 then 0 else 0x11) :: List.replicate 15 0xFF
    repairs := List.replicate 16 0, skipMask := 0, failed := 0, logged := false, levelChanged := false, copy := copy
    hashE := 0, hashW := 0, reload := false }

/-- The start in progress. -/
def State.st (s : State) : Start := s.img.start.getD (Start.begin 0 0 noEnv 0)
def State.mapSt (s : State) (f : Start → Start) : State := { s with img := { s.img with start := s.img.start.map f } }

/-- Little-endian bytes programmed into the NVM device. -/
def State.nvmPut (s : State) (a v n : Nat) : State := { s with nvm := nvmProgram s.nvm (leBytes a v n) }

/-- Address of the current record. -/
def State.recBase (s : State) : Nat := recAddr s.img.startNo.toNat

/-- The step ends with an outcome (R287, R296). An outcome that cannot be programmed makes one LOGFAIL entry (R304). -/
def State.endStep (s : State) (outcome repairs : Nat) : State :=
  let k := s.st.step - 1
  let s := s.mapSt fun x => { x with
    outcomes := x.outcomes.set k (BitVec.ofNat 8 outcome)
    repairs := x.repairs.set k (BitVec.ofNat 8 repairs)
    step := x.step + 1 }
  if !s.st.logged then s
  else if s.st.env.recordFails.contains (k + 1) then s.logImg cLOGFAIL (k + 1) 0 3 0 (s.recBase + 0x40 + k)
  else (s.nvmPut (s.recBase + 0x40 + k) outcome 1).nvmPut (s.recBase + 0x50 + k) repairs 1

/-- Part 4 of the record (R296, R304). -/
def State.closeRecord (s : State) (fault : Nat) : State :=
  let x := s.st
  if x.logged && x.env.recordFails.contains 17 then s.logImg cLOGFAIL (x.step - 1) 0 3 0 (s.recBase + 0x60)
  else if x.logged then
    let s := (s.nvmPut (s.recBase + 0x60) x.skipMask.toNat 2).nvmPut (s.recBase + 0x62) x.failed.toNat 1
    let s := s.nvmPut (s.recBase + 0x64) fault 4
    s.nvmPut (s.recBase + 0x68) (crc32 (nvmBytes s.nvm (s.recBase + 0x40) 40)) 4
  else s

/-- A start ends in Stop with a fault: the step's FAIL outcome with its reason, part 4, and Stop entry with IMGVALID 0
(R286, R293, R314). -/
def State.stopStart (s : State) (fault reason : Nat) : State :=
  let s := (s.endStep (0x80 + reason) 0).closeRecord fault
  State.enterStop { s with img := { s.img with
    start := none
    busy := false } } false

/-- Is it a wing start, and of the West wing? -/
def Start.isWing (x : Start) : Bool := decide (3 ≤ x.kind.toNat)
def Start.west (x : Start) : Bool := x.kind == 4

/-- Does the start load the West wing, or the East wing? -/
def Start.loads (x : Start) (west : Bool) : Bool := !x.isWing || x.west == west

/-- A wing start ends without READY: RESULT, BUSY falls, EVENT, and SI_RST falls (R229, R302, R305). -/
def State.endWing (s : State) (result fault : Nat) : State :=
  let west := s.st.west
  let s := s.closeRecord fault
  let s := (wingBays west).foldl (fun (s : State) n => s.mapBay n fun b => { b with siRst := false }) s
  { s with img := { s.img with
    start := none
    busy := false
    event := true
    result := BitVec.ofNat 8 result } }

/-- The copy that a wing runs. -/
def State.wingCopy (s : State) (west : Bool) : BitVec 2 := if west then s.img.copyW else s.img.copyE

/-- The wings of a start change their images, each from the copy that it runs, also in a RESUME with two copies
(notes/assumptions/184). -/
def State.loadWings (s : State) (f : WingImage → (Nat → Byte) → WingImage) : State :=
  let x := s.st
  { s with img := { s.img with
    east := if x.loads false then f s.img.east (s.copyRd (if x.isWing then x.copy else s.img.copyE).toNat) else s.img.east
    west := if x.loads true then f s.img.west (s.copyRd (if x.isWing then x.copy else s.img.copyW).toNat)
      else s.img.west } }


/-- Does physical bay `p` hold work, or transfers that SO has yet to take, which PWR_BAYOFF waits for (R241, R312)? A bay whose wing
the image leaves unused waits for nothing (R311). -/
def State.bayHolds (s : State) (p : Nat) : Bool :=
  match s.spare.serving p with
  | none => false
  | some n => s.imageUses (westBay n)
    && (!(s.bay n).tiles.isEmpty || (s.bay n).held.isSome || !(s.bay n).egress.isEmpty)

/-- The bay domains as R311 has them; a bay that PWR_BAYOFF names is not gated while it holds work, and the droop windows of a bay
that comes on or goes off count anew (R248). -/
def State.gateBays (s : State) : State :=
  let on := ((List.range 34).map fun p =>
    if s.wantsBay p || (bit s.pwr.domains.toNat p && s.bayHolds p) then 2 ^ p else 0).sum
  { s with
    bays := s.bays.zipIdx.map fun q => if bit on (s.physBay q.2) == s.bayOn q.2 then q.1 else { q.1 with window := 0 }
    pwr := { s.pwr with domains := BitVec.ofNat 38 (on + 0xF * 2 ^ 34) } }

/-- Step 7, 8 or 16 of a wing start fails: the wing loads again, once, what the other wing runs; else WINGDOWN (R302). Each step
runs at most once per start (R286): the failed one loads what it and the loading steps before it had loaded, and the start
goes on from it, so that its OUTCOME becomes that of the second load (notes/assumptions/185). -/
def State.wingFail (s : State) (step reason : Nat) : State :=
  if s.st.reload then State.endWing (s.endStep (0x80 + reason) 0) 7 cWINGLOAD
  else
    let s := s.logImg cWINGLOAD step s.st.copy.toNat reason 0 0
    let copy := s.wingCopy (!s.st.west)
    if !s.st.env.reloadOk then State.endWing (s.endStep (0x80 + reason) 0) 7 cWINGLOAD
    else
      let s := s.mapSt fun x => { x with
        reload := true
        env := { x.env with hang := x.env.hang.erase step }
        copy := copy
        hashE := imgHash (s.copyRd copy.toNat)
        hashW := imgHash (s.copyRd copy.toNat) }
      let s := if step = 7 then s else s.loadWings fun w rd => { w with tables := loadTables rd }
      if step = 16 then (s.loadWings WingImage.loadChains).gateBays else s

/-! ### Steps 2 to 4 -/

/-- A step fails with NVMDEAD, on reading a copy in steps 7 and 8 (R288, R304). -/
def State.failNvm (s : State) (step copy reason : Nat) : State :=
  (s.logImg cNVMDEAD step copy reason 0 0).stopStart cNVMDEAD reason

def State.step2 (s : State) : State :=
  let s := { s with img := { s.img with speed := 2 } }
  if s.st.env.nvmAlive then s.endStep 0 0 else s.failNvm 2 0 3

/-- TRYLEVEL (R288): `prev` is the record before, `respeed` an acting RESPEED. -/
def tryLevel (m : List Host.Cell) (prev : Option Nat) (respeed : Bool) : Nat :=
  match prev with
  | none => 0
  | some n =>
    let used := recByte m n 0x10
    if respeed then 0 else if used ≤ 2 then used else min (recByte m n 9 + 1) 2

/-- Step 3 opens a record, and takes the skip set, the FAILED set and PREFERRED (R292, R295 to R298). -/
def State.openRecord (s : State) : State :=
  let x := s.st
  let m := s.nvm
  let prev := latestRecord m
  let recs := match prev with
    | some n => recordsFrom m n 16
    | none => []
  let acts := if x.kind.toNat < 2 then selActing m prev else []
  let n := match prev with
    | some p => (p + 1) % 2 ^ 32
    | none => 0
  let skip := if selRetest acts then 0 else skipSet m recs
  let failed := failedSet m recs &&& (7 - selClear acts % 8)
  let a := recAddr n
  let m := if n % 16 = 0 then nvmErase m a (a + 4096) else m
  let part := leBytes a (0x4C53 + 2 ^ 16 + 2 ^ 24 * x.kind.toNat) 4 ++ leBytes (a + 4) n 4
    ++ leBytes (a + 8) (x.cause.toNat + 2 ^ 8 * (if x.isWing then s.img.speed.toNat else tryLevel m prev (selRespeed acts))
      + 0xFFFF0000) 4
  let m := nvmProgram m (part ++ leBytes (a + 12) (crc32 (part.map Prod.snd)) 4)
  let outs := ((List.range 2).map fun i => leBytes (a + 0x40 + i) (x.outcomes.getD i 0).toNat 1
    ++ leBytes (a + 0x50 + i) 0 1).flatten
  State.mapSt { s with
    nvm := nvmProgram m outs
    img := { s.img with
      startNo := BitVec.ofNat 32 n
      kind := x.kind
      skipMask := BitVec.ofNat 16 skip
      preferred := BitVec.ofNat 2 (selPreferred m) } } fun x => { x with
    logged := true
    skipMask := BitVec.ofNat 16 skip
    failed := BitVec.ofNat 3 failed }

/-- Step 3 fails: the defaults apply and no record is written (R286). -/
def State.failLog (s : State) (reason : Nat) : State := (s.logImg cLOGFAIL 3 0 reason 0 0).endStep (0x80 + reason) 0

def State.step3 (s : State) : State := if s.st.env.logOk then s.openRecord.endStep 0 0 else s.failLog 3

/-- The level that step 4 enters first. -/
def State.firstLevel (s : State) : Nat := if s.st.logged then recByte s.nvm s.img.startNo.toNat 9 else 0

/-- A level fails, on reading a copy from step 5 on: NVMSPEED, which names level `l`: the one tried in step 4, the new one later
(R288, R304). -/
def State.failLevel (s : State) (step copy l reason : Nat) : State :=
  (({ s with img := { s.img with speed := BitVec.ofNat 2 l } } : State).logImg cNVMSPEED step copy reason 0 0).mapSt
    fun x => { x with levelChanged := true }

/-- The level that step 4 tries now (R288). -/
def State.tryLevel (s : State) : Nat := min 2 (s.firstLevel + s.st.tried)

/-- The level that step 4 tries fails on the golden header: the next is tried at once, and after level 2 the start ends (R288). -/
def State.nextLevel (s : State) (reason : Nat) : State :=
  let l := s.tryLevel
  let s := s.failLevel 4 2 l reason
  if l = 2 then s.failNvm 4 2 reason else s.mapSt fun x => { x with tried := x.tried + 1 }

/-- Step 4 tries one level (R288). -/
def State.step4 (s : State) : State :=
  let l := s.tryLevel
  if bit s.st.env.levelOk.toNat l then
    let s := { s with img := { s.img with speed := BitVec.ofNat 2 l } }
    (if s.st.logged && s.st.env.recordFails.contains 18 then s.logImg cLOGFAIL 4 0 3 0 (s.recBase + 0x10)
      else if s.st.logged then s.nvmPut (s.recBase + 0x10) l 1
      else s).endStep 0 0
  else s.nextLevel 3

/-- `n` sections of a copy in turn fail their CRC at the level in use and pass at the next lower level, which is kept and which the
NVMSPEED entry reports; false when no lower level exists (R288, notes/assumptions/83). -/
def State.dropLevels (s : State) (step copy : Nat) : Nat → State × Bool
  | 0 => (s, true)
  | n + 1 =>
    if s.img.speed = 2 then (s, false)
    else
      State.dropLevels (s.failLevel step copy (s.img.speed.toNat + 1) 3) step copy n

/-- The copy that steps 7 and 8 read: a wing start's own, or that of the East wing, which a full start's wings share. -/
def State.loadedCopy (s : State) : Nat := (if s.st.isWing then s.st.copy else s.img.copyE).toNat

/-- Reading `i` of the start (0, 1, 2: copy A, B, golden in step 5; 3, 4: steps 7 and 8), with the state after the reads
and whether every section's CRC came right (R288). -/
def State.reread (s : State) (step i : Nat) : State × Bool :=
  let x := s.st
  if x.reload then (s, true)
  else
    let r := s.dropLevels step (if i < 3 then i else s.loadedCopy) (x.env.crcDrops.getD i 0)
    (r.1, r.2 && !bit x.env.crcFail.toNat i)

/-! ### Step 5 (R289, R290) -/

/-- The check that a copy fails: its number, the reason, the chain ID and the NVM address; none when it passes. -/
def State.copyFault (s : State) (c : Nat) : Option (Nat × Nat × Nat × Nat) :=
  match imgFault (s.copyRd c) with
  | some (k, ch, a) => some (k, k, ch, copyBase c + a)
  | none =>
    let v := s.st.env.verdicts.getD c 0
    if v = 0 then none else some (5, v.toNat, 0, copyBase c + imgLen (s.copyRd c))

/-- Copy `c` is marked FAILED, in the start and in IMG_COPYGEN (R289, R298). -/
def State.markFailed (s : State) (c : Nat) : State :=
  State.mapSt { s with img := { s.img with copies := s.img.copies.modify c fun g => { g with failed := true } } }
    fun x => { x with failed := x.failed ||| BitVec.ofNat 3 (2 ^ c) }

/-- Copy `c` has failed a check: its mark and its entry (R289). -/
def State.failCopy (s : State) (c : Nat) (f : Nat × Nat × Nat × Nat) : State :=
  let cause := if f.1 = 1 then cIMGHDR else if f.1 ≤ 3 then cIMGCONTENT else cIMGAUTH
  (s.markFailed c).logImg cause 5 c f.2.1 f.2.2.1 f.2.2.2

/-- One copy is tried: the state after the trial, and whether the copy passes every check (R289). Sections are read once
check 1 has passed. -/
def State.tryCopy (s : State) (c : Nat) : State × Bool :=
  if imgCheck1 (s.copyRd c) then
    let r := s.reread 5 c
    if r.2 then
      match r.1.copyFault c with
      | some f => (r.1.failCopy c f, false)
      | none => (r.1, true)
    else (r.1.failCopy c (2, 2, 0, copyBase c + 0x80), false)
  else (s.failCopy c (1, 1, 0, copyBase c), false)

/-- The first of some copies that passes every check, with the state after the trials (R289). -/
def State.tryCopies (s : State) : List Nat → State × Option Nat
  | [] => (s, none)
  | c :: t =>
    let r := s.tryCopy c
    if r.2 then (r.1, some c) else State.tryCopies r.1 t

/-- IMG_COPYGEN from the three headers (R289, R298). -/
def State.readHeaders (s : State) : State :=
  { s with img := { s.img with copies := (List.range 3).map fun c =>
    ⟨imgGeneration (s.copyRd c), imgCheck1 (s.copyRd c), bit s.st.failed.toNat c⟩ } }

/-- The order in which step 5 tries the copies (R289). -/
def State.copyOrder (s : State) : List Nat :=
  let p := s.img.preferred.toNat
  let all := [p, 1 - p, 2]
  if s.st.failed = 7 then all else all.filter fun c => !bit s.st.failed.toNat c

/-- COPY, GENERATION and HASH of a wing, from a copy's header; GENDIFF is 1 while the generations differ (R303). -/
def State.setWing (s : State) (west : Bool) (c : Nat) : State :=
  let g := imgGeneration (s.copyRd c)
  let h := imgHash (s.copyRd c)
  { s with img := if west then { s.img with copyW := BitVec.ofNat 2 c, genW := g, hashW := h, genDiff := s.img.genE != g }
                  else { s.img with copyE := BitVec.ofNat 2 c, genE := g, hashE := h, genDiff := g != s.img.genW } }

/-- Part 2 of the record: the copy loaded, FAILED5, GENERATION and HASH (R296); LOGFAIL when it cannot be programmed (R304). -/
def State.writePart2 (s : State) (c : Nat) (gen : W32) (hash : BitVec 256) : State :=
  if s.st.logged && s.st.env.recordFails.contains 19 then s.logImg cLOGFAIL 5 c 3 0 (s.recBase + 0x11)
  else if s.st.logged then
    let a := s.recBase
    let s := (s.nvmPut (a + 0x11) (c + 2 ^ 8 * s.st.failed.toNat) 2).nvmPut (a + 0x14) gen.toNat 4
    let s := s.nvmPut (a + 0x18) hash.toNat 32
    s.nvmPut (a + 0x38) (crc32 (nvmBytes s.nvm (a + 0x11) 39)) 4
  else s

/-- A full start whose HASH differs from the previous record's empties the skip set (R292). -/
def State.hashSkip (s : State) (hash : BitVec 256) : State :=
  let p := (s.img.startNo.toNat + 2 ^ 32 - 1) % 2 ^ 32
  if s.st.logged && recValid s.nvm p && recPart2 s.nvm p && nvmRead s.nvm (recAddr p + 0x18) 32 != hash.toNat then
    State.mapSt { s with img := { s.img with skipMask := 0 } } fun x => { x with skipMask := 0 }
  else s

/-- Step 5 of a full start settles on copy `c`, or none is left (R289). A step that fails otherwise than by TIMEOUT or NVM has
reason CHECK here and in the other steps, and INTERNAL in RESUMEMISS (R287, notes/assumptions/172). NOIMAGE names copy 0
(notes/assumptions/187). -/
def State.settle (s : State) (c : Option Nat) (reason : Nat) : State :=
  match c with
  | none => (s.logImg cNOIMAGE 5 0 reason 0 0).stopStart cNOIMAGE reason
  | some c =>
    let g := imgGeneration (s.copyRd c)
    let h := imgHash (s.copyRd c)
    let s := (s.setWing false c).setWing true c
    let s := if c = s.img.preferred.toNat then s else s.logImg cCOPYFALLBACK 5 c 0 0 (copyBase c)
    let s := (s.writePart2 c g h).hashSkip h
    (s.mapSt fun x => { x with
      copy := BitVec.ofNat 2 c
      hashE := h
      hashW := h }).endStep 0 0

/-- One item of the Cellar by word index (R316). -/
def State.cellarWord (s : State) (i : Nat) : Nat := (s.cellar.getD i 0).toNat
def State.cellarHash (s : State) (i : Nat) : BitVec 256 :=
  BitVec.ofNat 256 (((List.range 4).map fun k => s.cellarWord (i + k) * 2 ^ (64 * k)).sum)

/-- The light form of step 5: the first of the copies that the Cellar names, the East wing's, the West wing's and FWCOPY, that
does not stand as the Cellar says (R289, notes/assumptions/164). -/
def State.resumeFault (s : State) : Option Nat :=
  let w := s.cellarWord 2
  let named := fun (c : Nat) (gen : Nat) (h : BitVec 256) =>
    imgCheck1 (s.copyRd c) && imgHash (s.copyRd c) == h && (imgGeneration (s.copyRd c)).toNat == gen
  if !named (bits w 1 0) (bits (s.cellarWord 3) 31 0) (s.cellarHash 4) then some (bits w 1 0)
  else if !named (bits w 3 2) (bits (s.cellarWord 3) 63 32) (s.cellarHash 8) then some (bits w 3 2)
  else if !imgCheck1 (s.copyRd (bits w 5 4)) then some (bits w 5 4)
  else none

/-- A RESUME that step 5 refuses on copy `c`: RESUMEMISS, the record ends, and a WARM start with CAUSE 5 follows (R287, R289, R309), whose
surroundings are those of the RESUME (notes/assumptions/186). -/
def State.resumeMiss (s : State) (c reason : Nat) : State :=
  let env := s.st.env
  let s := ((s.logImg cRESUMEMISS 5 c reason 0 (copyBase c)).endStep (0x80 + reason) 0).closeRecord cRESUMEMISS
  { s with
    img := { s.img with start := some (Start.begin 1 5 env 0) }
    pwr := { s.pwr with lastCause := 6 } }

/-- The check that a trial of copy `c` fails (R289). -/
def State.failedCheck (s : State) (c : Nat) : Nat :=
  if !imgCheck1 (s.copyRd c) then 1
  else if !(s.reread 5 c).2 then 2
  else
    match s.copyFault c with
    | some f => f.1
    | none => 0

/-- Step 5 of a wing start, on the named copy (R302). FAULT of its record is the entry's cause (notes/assumptions/173). -/
def State.step5Wing (s : State) : State :=
  let c := s.st.copy.toNat
  let k := s.failedCheck c
  let q := s.tryCopies [c]
  let s := q.1
  match q.2 with
  | none =>
    let result := if k = 1 then 1 else if k ≤ 3 then 2 else 3
    (s.endStep 0x82 0).endWing result (if result = 1 then cIMGHDR else if result = 2 then cIMGCONTENT else cIMGAUTH)
  | some _ =>
    let g := imgGeneration (s.copyRd c)
    let h := imgHash (s.copyRd c)
    let otherGen := if s.st.west then s.img.genE else s.img.genW
    let otherHash := if s.st.west then s.img.hashE else s.img.hashW
    if g = otherGen ∧ h ≠ otherHash then
      ((s.logImg cGENCLASH 5 c 0 0 (copyBase c)).endStep 0x82 0).endWing 4 cGENCLASH
    else
      let s := (s.writePart2 c g h).resetWing s.st.west
      ((s.setWing s.st.west c).mapSt fun x => { x with
        hashE := h
        hashW := h }).endStep 0 0

/-- The copy that a Stop or a reset left partly written is marked FAILED (R300). -/
def State.markCut (s : State) : State :=
  match s.cutCopy with
  | some c => { s.markFailed c.toNat with cutCopy := none }
  | none => s

def State.step5 (s : State) : State :=
  let s := s.markCut
  let x := s.st
  if x.isWing then s.step5Wing
  else if x.kind = 2 then
    let s := s.readHeaders
    match s.resumeFault with
    | none =>
      let w := s.cellarWord 2
      let s := (s.setWing false (bits w 1 0)).setWing true (bits w 3 2)
      ((s.writePart2 (bits w 1 0) s.img.genE s.img.hashE).mapSt fun x => { x with
        hashE := s.cellarHash 4
        hashW := s.cellarHash 8 }).endStep 0 0
    | some c => s.resumeMiss c 4
  else
    let s := s.readHeaders
    let q := s.tryCopies s.copyOrder
    q.1.settle q.2 2

/-! ### Findings (R291) -/

/-- Does a start test the unit: a wing start acts on the bays of its own wing only (R286, R302)? -/
def Start.tests (x : Start) (u : UnitId) : Bool :=
  !x.isWing || ([0, 1, 4, 7, 8].contains u.kind.toNat && westPhys u.unit.toNat == x.west)

/-- Has a pool run out between two maps, or a bay been lost (R287, R342)? -/
def Spare.ranOut (old x : Spare) : Bool :=
  (List.range 8).any (fun k => x.exhausted k && !old.exhausted k) || x.lost != old.lost

/-- Is a finding with this RESULT one that maps a unit out: not a first CHECK finding, and no bank or row that stays in service
(R337, R340)? -/
def mappedOut (kind result : Nat) : Bool := result != 1 || [5, 6, 7].contains kind

/-- The findings of a step take effect; how many units they map out, and whether a pool ran out or had run out before. -/
def State.startFindings (s : State) (step : Nat) : State × Nat × Bool :=
  (s.st.env.findings.filter fun f => f.1 == step && s.st.tests f.2).foldl (fun (a : State × Nat × Bool) f =>
    match (if unitOk f.2 then a.1.spare.retire f.2 else none) with
    | none => a
    | some r => (a.1.finding f.2 0, a.2.1 + b2n (mappedOut f.2.kind.toNat r.2),
        a.2.2 || a.1.spare.ranOut r.1 || (r.2 == 1 && f.2.kind.toNat != 8))) (s, 0, false)

/-- A step ends after its findings: PASS, REPAIRED or DEGRADED (R287, R291). -/
def State.passWith (a : State × Nat × Bool) : State :=
  a.1.endStep (if a.2.2 then 2 else if a.2.1 = 0 then 0 else 1) (min a.2.1 0xFE)

/-! ### Steps 6 to 9 -/

/-- Step 6 fails: TROWELFAIL, with copy 0 (R291, notes/assumptions/187). -/
def State.failTrowel (s : State) (reason : Nat) : State :=
  (s.logImg cTROWELFAIL 6 0 reason 0 0).stopStart cTROWELFAIL reason

/-- A map applies: the droop windows of a bay that moves with it count anew, as its new domain's do (R248, R344). -/
def State.applyMap (s : State) (map : Spare) : State :=
  { s with
    spare := map
    bays := s.bays.zipIdx.map fun q => if map.phys q.2 = s.spare.phys q.2 then q.1 else { q.1 with window := 0 } }

/-- The units of the loaded copy's SPAREMAP section are retired as findings of SOURCE 6 (R344). -/
def State.imageMap (s : State) : State :=
  let rd := s.copyRd s.img.copyE.toNat
  match imgSection rd 6 with
  | none => s
  | some x => (s.spare.snapshotUnits fun i => rd (x.off + i)).foldl (fun (s : State) u =>
      let s := s.finding u 6
      s.applyMap s.spare.settled) s

/-- A COLD start rebuilds the AO copy of the spare map, from the NVM record and then the loaded copy's section; it does so
before its first test, so that what step 6 retires stands (R331, R344, notes/assumptions/128). -/
def State.rebuildMap (s : State) : State :=
  if s.st.kind = 0 then ({ s with spare := s.spare.rebuilt s.nvm } : State).imageMap else s

/-- Step 6 loads the firmware; a core that COREDBG has halted stays halted until it is resumed (R291, R357). -/
def State.step6 (s : State) : State :=
  let s := s.rebuildMap
  let light := s.st.kind == 2
  let fw := if light then BitVec.ofNat 2 (bits (s.cellarWord 2) 5 4) else s.st.copy
  let a := if light then (s, 0, false) else s.startFindings 6
  let s := a.1
  if 6 < popCount 10 s.spare.cores.toNat then s.failTrowel 2
  else
    State.passWith ({ s with
      cores := s.cores.map fun c => { Core.reset with halted := c.halted }
      img := { s.img with fwCopy := fw } }, a.2)

/-- Step 7 or 8 fails (R288, R302). -/
def State.failLoad (s : State) (step reason : Nat) : State :=
  if s.st.isWing then s.wingFail step reason else s.failNvm step s.loadedCopy reason

def State.step7 (s : State) : State :=
  let r := s.reread 7 3
  if r.2 then (r.1.loadWings fun w rd => { w with tables := loadTables rd }).endStep 0 0 else r.1.failLoad 7 3

def State.step8 (s : State) : State :=
  let r := s.reread 8 4
  if r.2 then ((r.1.loadWings WingImage.loadChains).gateBays).endStep 0 0 else r.1.failLoad 8 3

/-- Step 9 gates the units that the map marks retired (R286, R311). -/
def State.step9 (s : State) : State :=
  let s := s.gateBays
  if s.spare.mortar = 0xFFFF then
    (s.logE cMORTARFAIL 5 0 0 0 s.spare.sweeps.toNat 0 0).stopStart cMORTARFAIL 2
  else s.endStep 0 0

/-! ### Steps 10 to 15 -/

/-- An optional step fails: its outcome and STEPFAIL; the start continues (R292). AUX names copy 0 in the
entries of this chapter that concern no one copy (notes/assumptions/187). -/
def State.failOptional (s : State) (k reason : Nat) : State := (s.logImg cSTEPFAIL k 0 reason 0 0).endStep (0x80 + reason) 0

/-- The margins that step 15 found for the bays that the start covers, none below the factory trim (R322). -/
def State.calibrate (s : State) : State :=
  s.st.env.margins.foldl (fun (s : State) q =>
    if q.1 < 34 ∧ s.st.loads (westPhys q.1) = true then
      let margin := if q.2 < Config.droopTrim q.1 then Config.droopTrim q.1 else q.2
      { s with pwr := { s.pwr with droopCal := s.pwr.droopCal.set q.1 (margin, 1) } }
    else s) s

/-- An optional step: skipped, failed, or passed with its findings (R291, R292), its entry with copy 0 (notes/assumptions/187). -/
def State.stepOptional (s : State) (k : Nat) : State :=
  if bit s.st.skipMask.toNat (k - 1) then (s.logImg cSTEPSKIP k 0 0 0 0).endStep 0x10 0
  else
    match s.st.env.failures.find? fun f => f.1 == k with
    | some f => s.failOptional k (min f.2.toNat 0x7E)
    | none =>
      let a := s.startFindings k
      State.passWith (if k = 15 then a.1.calibrate else a.1, a.2)

/-- Every finding not yet in NVM is written, at most `k` of them; the first failure ends the writing (R344). -/
def State.writeFindings (s : State) : Nat → State
  | 0 => s
  | k + 1 => if s.spare.unwritten.isEmpty then s else (s.writeFinding true).writeFindings k

/-- A first snapshot of SERIAL 1 when the record holds none (R344). -/
def State.firstSnapshot (s : State) : State :=
  match latestSector s.nvm with
  | some _ => s
  | none =>
    { s with
      nvm := nvmProgram (nvmErase s.nvm (mapSector 0) (mapSector 1)) (s.spare.snapshot (mapSector 0) 1 s.img.startNo.toNat)
      spare := { s.spare with unwritten := [] } }

/-- Step 14: the final map is applied, and the droop windows of a bay that moves to its spare count anew (R248); the full form
writes it to NVM, and a failed write is reported (R286, R344). -/
def State.step14With (s : State) (ok : Bool) (reason : Nat) : State :=
  let map := if s.st.isWing then s.spare.settledWing s.st.west else s.spare.settled
  let s := (s.applyMap map).gateBays
  if s.st.kind = 2 then s.endStep (if reason = 1 then 0x81 else 0) 0
  else if ok then
    let s := if s.st.isWing then s else s.firstSnapshot
    (s.writeFindings s.spare.unwritten.length).endStep 0 0
  else
    let s := if s.spare.unwritten.isEmpty then s.logE 0x75 5 0 0 0 s.img.startNo.toNat (mapSector 0) 0 else s.writeFinding false
    s.endStep (0x80 + reason) 0

def State.step14 (s : State) : State := s.step14With s.st.env.mapWriteOk 3

/-! ### Running (R286, R287) -/

/-- The work of one step. -/
def State.doStep (s : State) : State :=
  match s.st.step with
  | 2 => s.step2
  | 3 => s.step3
  | 4 => s.step4
  | 5 => s.step5
  | 6 => s.step6
  | 7 => s.step7
  | 8 => s.step8
  | 9 => s.step9
  | 14 => s.step14
  | k => s.stepOptional k

/-- Is every active core halted, so that the tasks of the firmware wait (R25, R357)? -/
def State.allHalted (s : State) : Bool := !s.spare.activeCores.isEmpty && !s.coresRun

/-- Is the step that the start is to take an optional one of its skip set (R292)? -/
def Start.skips (x : Start) : Bool := optionalStep x.step && bit x.skipMask.toNat (x.step - 1)

/-- Does the step that the start is to take hang (R287)? Step 4 has a limit for each level that it tries (R286), and a step that is
skipped does nothing that could hang (R292). -/
def Start.hangs (x : Start) : Bool :=
  !x.skips && x.env.hang.contains (if x.step = 4 ∧ x.tried ≠ 0 then 16 + x.tried else x.step)

/-- Steps run until one hangs, the cores are halted, the start ends, or step 16 is due; at most `k` of them. -/
def State.runSteps (s : State) : Nat → State
  | 0 => s
  | k + 1 =>
    match s.img.start with
    | none => s
    | some x =>
      if 16 ≤ x.step then s
      else if !stepRuns x.kind.toNat x.step then (s.endStep 0x11 0).runSteps k
      else if s.allHalted then s
      else if x.hangs then s
      else s.doStep.runSteps k

/-- Steps of one start, with one more start after a refused RESUME, or one more load of a wing. -/
def State.runStart (s : State) : State := s.runSteps 40

/-- A table whose rows are zeroed (R362). -/
def FuncTable.zeroed (t : FuncTable) : FuncTable :=
  { t with
    params := 0
    body := t.body.map fun _ => 0 }

/-- The lifecycle state is read, and in Return what R362 lists is zeroed, before step 2 (R351, R362). -/
def State.enterLifecycle (s : State) (lc : BitVec 2) : State :=
  let s := { s with dbg := s.dbg.readFuses lc }
  if s.dbg.lc = 3 ∧ s.dbg.zdone = false then
    State.logAO { s with
      ctxs := []
      store := []
      formed := []
      totals := []
      rowsZero := true
      img := { s.img with
        east := { s.img.east with tables := s.img.east.tables.map FuncTable.zeroed }
        west := { s.img.west with tables := s.img.west.tables.map FuncTable.zeroed } }
      cores := s.cores.map fun c => { c with
        zeroed := true
        sram := c.sram.filter fun p => decide (p.1 < 8192) }
      cellar := List.replicate 116 0
      cellarRest := List.replicate 1932 0
      dbg := { s.dbg with zdone := true } } 0x83 s.img.startNo.toNat 0 0
  else s

/-- A start begins, on the device as it answers: BUSY, OP, and its first steps (R285, R298). -/
def State.beginStart (s : State) (kind cause op : Nat) (env : StartEnv) (copy : BitVec 2) : State :=
  let s := ({ s with nvm := nvmTake s.nvm env.device } : State).enterLifecycle env.lifecycle
  State.runStart { s with img := { s.img with
    busy := true
    op := BitVec.ofNat 3 op
    start := some (Start.begin kind cause env copy) } }

/-- Cores have come back: a start whose tasks waited for one goes on (R357). -/
def State.tasksGoOn (before s : State) : State := if before.allHalted then s.runStart else s

/-- A step exceeds its limit and fails with reason TIMEOUT (R286, R287). A wing start whose step 5 does ends with RESULT CONTENT
(notes/assumptions/174), and a RESUME whose step 5 does makes RESUMEMISS on the East wing's copy (notes/assumptions/186). -/
def State.timeout (s : State) (k : Nat) : State :=
  match k with
  | 2 => s.failNvm 2 0 1
  | 3 => s.failLog 1
  | 4 => s.nextLevel 1
  | 5 =>
    if s.st.isWing then (s.endStep 0x81 0).endWing 2 cIMGCONTENT
    else if s.st.kind = 2 then s.resumeMiss (bits (s.cellarWord 2) 1 0) 1
    else
      let s := s.markCut.readHeaders
      match s.copyOrder with
      | [] => s.settle none 1
      | c :: t =>
        let q := (s.markFailed c).tryCopies t
        q.1.settle q.2 1
  | 6 => s.failTrowel 1
  | 7 => s.failLoad 7 1
  | 8 => s.failLoad 8 1
  | 14 => s.step14With false 1
  | k => if optionalStep k then s.failOptional k 1 else s.endStep 0x81 0

/-! ### READY (R293, R302, R305) -/

/-- The digest that a wing's loader formed: of the bytes as read, or, when the stream did not arrive as read, a free value
(notes/assumptions/3). Each wing's is that of its own copy (notes/assumptions/184). -/
def State.digestOf (s : State) (west : Bool) : BitVec 256 × State :=
  let x := s.st
  let c := if x.isWing then x.copy else s.wingCopy west
  if x.reload || (if west then x.env.digestOk.2 else x.env.digestOk.1) then (imgDigest (s.copyRd c.toNat), s)
  else
    let k := s.takeFree
    (BitVec.ofNat 256 k.1, k.2)

/-- Step 16 fails: WINGSPLIT or IMGCHANGED and Stop, or the wing loads again (R293, R302). -/
def State.failReady (s : State) (split : Bool) (reason : Nat) : State :=
  if s.st.isWing then s.wingFail 16 reason
  else
    let cause := if split then cWINGSPLIT else cIMGCHANGED
    let s := s.logImg cause 16 s.img.copyE.toNat reason 0 0
    State.stopStart (if split then s.markFailed s.img.copyE.toNat else s) cause reason

/-- Did the start meet a condition of R305? -/
def State.startEvent (s : State) : Bool :=
  let x := s.st
  x.isWing || x.outcomes.any (fun o => o != 0 && o != 0x11) || x.levelChanged
    || s.img.copyE != s.img.preferred || s.img.copyW != s.img.preferred

/-- READY: the wings open, GENDIFF follows the generations, and the start ends (R293, R302, R305, R345). -/
def State.becomeReady (s : State) : State :=
  let s := s.endStep 0 0
  let x := s.st
  let s := if x.reload then s.setWing x.west x.copy.toNat else s
  let event := s.startEvent
  let s := s.closeRecord 0
  { s with
    img := { s.img with
      eastReady := s.img.eastReady || x.loads false
      westReady := s.img.westReady || x.loads true
      genDiff := s.img.genE != s.img.genW
      busy := false
      event := s.img.event || event
      result := if x.isWing then (if x.reload then 6 else 0) else s.img.result
      start := none }
    spare := { s.spare with dnew := s.spare.dnew || s.spare.degraded } }

/-- Step 16. -/
def State.step16 (s : State) : State :=
  let e := if s.st.loads false then s.digestOf false else (s.st.hashE, s)
  let w := if s.st.loads true then e.2.digestOf true else (s.st.hashW, e.2)
  let s := w.2
  if e.1 = s.st.hashE ∧ w.1 = s.st.hashW then s.becomeReady
  else (s.failReady (e.1 != w.1) 2).runStart

/-- READY: step 16 of the start in progress (R293). -/
def execReady (s : State) : Host.Outcome State Fault Refusal :=
  match s.img.start with
  | none => .next s
  | some x =>
    if x.step = 16 ∧ x.hangs = false ∧ s.pwr.phase = .run ∧ s.allHalted = false then .next s.step16
    else .next s

/-- START_STEP_TIMEOUT: the step that the start waits in exceeds its limit; step 1 is that of a cold start (R286,
R287). -/
def execStartStepTimeout (k : Fin 17) (s : State) : Host.Outcome State Fault Refusal :=
  if k.val = 1 then
    if s.pwr.phase = .trim then
      .next (s.logAO cAOFAULT s.img.startNo.toNat 0 (1 + 2 ^ 16)).toStop
    else .next s
  else
    match s.img.start with
    | none => .next s
    | some x =>
      if x.step = k.val ∧ x.hangs = true ∧ s.pwr.phase = .run then
        .next (if k.val = 16 then (s.failReady false 1).runStart else (s.timeout k.val).runStart)
      else .next s

end Sys2Proof.Machine
end

