-- ==== Sys2Proof/Machine/Ecc.lean ====
section
/-! DEFINITION. Findings from outside the patrol: data errors (R338) and SPARE_CMD (R346). A core that they retire may bring a
running spare core in, for which a start that waits goes on (R357). -/

namespace Sys2Proof.Machine

/-- A finding in Run, after which tasks that waited for a core go on (R357). -/
def State.findingGoesOn (s : State) (u : UnitId) (source : Nat) (ecc : Option Nat := none) : State :=
  s.tasksGoOn (s.findingRun u source ecc)

/-! ### Data errors (R338) -/

/-- Is there a tile whose prefetch has yet to read context `c`, of its own course or of a segment that it brings in (R19,
R192)? -/
def State.prefetching (s : State) (c : Nat) : Bool :=
  s.bays.any fun b => b.tiles.any fun t =>
    ((t.status == .waiting || (t.isAccepted && t.staged.isEmpty)) && inCourse t.base c)
      || (t.isAccepted && (t.segCourses (chainOf t.words)).any fun x => inCourse x c)

/-- ECCLOSS: a read meets an error that ECC cannot correct (R337, R338). An error that a tile's prefetch meets has the entry of
the refused tile, which carries its chain and SEQ (R240, R348, notes/assumptions/107). The bank of a bond-store entry is a
free one of the 16 in service: no rule places nodes in banks (R24, notes/assumptions/106). -/
def execEccloss (site : EccSite) (s : State) : Host.Outcome State Fault Refusal :=
  if s.pwr.phase ≠ .run then .next s
  else
    match site with
    | .scaffold ctx prefetch =>
      let q := s.spare.ctxBank ctx.toNat
      let u := unitOf 2 q.1 q.2
      let s := if s.allocated ctx.toNat && !s.poison.contains ctx.toNat then { s with poison := ctx.toNat :: s.poison } else s
      .next (s.findingGoesOn u 4 (if prefetch && s.prefetching ctx.toNat then none else some ctx.toNat))
    | .bondEntry g ctx level node =>
      match s.store.find? fun e => e.isNode g ctx level.toNat node.toNat with
      | none => .next s
      | some e =>
        let k := s.takeFree
        let u := unitOf 3 0 (s.spare.bondBanks.getD (k.1 % 16) 0)
        let s := State.letIn { k.2 with store := k.2.store.filter fun x => !x.isNode g ctx level.toNat node.toNat }
        .next (s.findingGoesOn u 4 (some (ctx.toNat + 2 ^ 18 * e.bgrp.toNat)))
    | .total i =>
      let s := s.setTotal i.toNat { s.total i.toNat with ovf := true }
      .next (s.logEcc (unitOf 6 0 (s.mortarUnit i.toNat)) (i.toNat + 2 ^ 31))
    | .tableRow p row =>
      let u := unitOf 4 p.val row.toNat
      if 1296 ≤ row.toNat then .fault .noSuchUnit else .next (s.findingGoesOn u 4 (some 0))
    | .coreSram core =>
      let u := unitOf 5 0 core.val
      .next (s.findingGoesOn u 4 (some 0))

/-! ### SPARE_CMD (R346) -/

/-- A SPARE_CMD write. -/
def State.spareCmdWrite (s : State) (d : Nat) : Reply :=
  let u := unitOf (bits d 7 4) (bits d 13 8) (bits d 26 16)
  if bits d 1 0 = 0 then s.ok
  else if bits d 1 0 ≠ 1 ∨ !unitOk u then s.fail codePROT
  else if s.spare.pending then s.fail codeBUSY
  else State.ok (s.findingGoesOn u 5)

end Sys2Proof.Machine
end

