-- ==== Sys2Proof/Machine/ImgCmd.lean ====
section
/-! DEFINITION. IMG_CMD (R299 to R302) and the end of a PROGRAM operation (R300, R305). -/

namespace Sys2Proof.Machine

/-- The fields of an IMG_CMD write (R298). -/
def imgOp (d : Nat) : Nat := bits d 2 0
def imgWest (d : Nat) : Bool := bit d 3
def imgCopy (d : Nat) : Nat := bits d 5 4
def imgAddr (d : Nat) : Nat := bits d 63 16

/-- Check 1 of R299. -/
def imgProt (d : Nat) : Bool :=
  decide (5 < imgOp d) || imgCopy d == 3 || (imgOp d == 3 && imgCopy d == 2) || (imgOp d == 2 && imgCopy d == 2)
    || imgAddr d % 256 != 0

/-- RESTART_WING (R302): SI_RST of the wing's bays rises, and a wing start begins. -/
def State.restartWrite (s : State) (d : Nat) (env : StartEnv) : Reply :=
  let west := imgWest d
  let g := s.img.copies.getD (imgCopy d) ⟨0, false, false⟩
  if s.wingBusy west then s.fail codeBUSY
  else if !g.valid || g.failed then s.fail codeDENY
  else if s.img.genDiff && g.gen != s.img.genE && g.gen != s.img.genW then s.fail codeGENMIX
  else
    let s := (wingBays west).foldl (fun (s : State) n => s.mapBay n fun b => { b with siRst := true }) s
    State.ok (s.beginStart (if west then 4 else 3) 4 1 env (BitVec.ofNat 2 (imgCopy d)))

/-- COMMIT (R301). When the selection entry cannot be programmed, PREFERRED stays and RESULT is NVMIO
(notes/assumptions/126). -/
def State.commitWrite (s : State) (d : Nat) (ok : Bool) : Reply :=
  let c := imgCopy d
  if s.img.genDiff then s.fail codeGENMIX
  else if s.img.copyE.toNat ≠ c ∨ s.img.copyW.toNat ≠ c then s.fail codeDENY
  else
    let s := s.writeSelection ok c (2 ^ c) false false
    State.ok { s with img := { s.img with
      preferred := if ok then BitVec.ofNat 2 c else s.img.preferred
      op := 2
      result := if ok then 0 else 5 } }

/-- PROGRAM (R300): BUSY is set, and the operation runs until PROGRAM_DONE. -/
def State.programWrite (s : State) (d : Nat) : Reply :=
  let c := BitVec.ofNat 2 (imgCopy d)
  if s.img.copyE = c ∨ s.img.copyW = c ∨ s.img.fwCopy = c then s.fail codeDENY
  else State.ok { s with img := { s.img with
    busy := true
    op := 3
    program := some (c, imgAddr d) } }

/-- An IMG_CMD write (R299). -/
def State.imgCmdWrite (s : State) (who : Req) (gen : W32) (d : Nat) (env : StartEnv) : Reply :=
  if imgProt d then s.fail codePROT
  else if !s.owns who gen then s.fail codeDENY
  else if s.img.busy then s.fail codeBUSY
  else
    match imgOp d with
    | 1 => s.restartWrite d env
    | 2 => s.commitWrite d env.selectionOk
    | 3 => s.programWrite d
    | 4 => State.ok (s.writeSelection env.selectionOk 3 0 true false)
    | 5 => State.ok (s.writeSelection env.selectionOk 3 0 false true)
    | _ => s.ok

/-- A PROGRAM operation ends: RESULT, EVENT, BUSY falls, IMG_COPYGEN of the copy from its header (R298, R300, R305). -/
def State.endProgram (s : State) (c : Nat) (result : Nat) : State :=
  let rd := s.copyRd c
  { s with img := { s.img with
    busy := false
    event := true
    result := BitVec.ofNat 8 result
    program := none
    copies := s.img.copies.set c ⟨imgGeneration rd, imgCheck1 rd, result != 0⟩ } }

/-- A PROGRAM operation fails (R300, R304). -/
def State.failProgram (s : State) (c result reason where_ : Nat) : State :=
  (s.logImg cPROGFAIL 0 c reason 0 where_).endProgram c result

/-- PROGRAM_DONE: the sectors are erased and the pages programmed, the copy is compared with its source, the five checks
are applied, and a selection entry clears the copy (R300). `flash.verified` is the comparison of the CRCs as read back; `verdict`
the Gatehouse's answer. A selection entry that cannot be programmed is a failure, with RESULT NVMIO
(notes/assumptions/126). -/
def execProgramDone (verdict : BitVec 8) (flash : FlashEnd) (s : State) : Host.Outcome State Fault Refusal :=
  match s.img.program with
  | none => .next s
  | some (c, src) =>
    let rd := s.srcRd src
    let c := c.toNat
    if s.pwr.phase ≠ .run ∨ s.coresRun = false then .next s
    else if !imgCheck1 rd then .next (s.failProgram c 9 1 0)
    else
      let s := { s with nvm := s.programNvm c src (programSectors rd) (cdiv (programLen rd) 256) }
      if !flash.verified then .next (s.failProgram c 8 0 (copyBase c))
      else
        match imgFault (s.copyRd c) with
        | some (k, _, a) => .next (s.failProgram c (if k = 1 then 1 else if k ≤ 3 then 2 else 3) k (copyBase c + a))
        | none =>
          if verdict ≠ 0 then .next (s.failProgram c 3 verdict.toNat (copyBase c + imgLen (s.copyRd c)))
          else
            let s := s.writeSelection flash.selected 3 (2 ^ c) false false
            .next (if flash.selected then s.endProgram c 0 else s.failProgram c 5 3 0)

end Sys2Proof.Machine
end

