-- ==== Sys2Proof/Machine/Power.lean ====
section
/-! DEFINITION. Run, Stop, supply and reset (R306 to R328): the power commands, gating in Run, Stop entry with the Cellar,
wake, RST_N, the brown-out detectors, the end of a drain, and the power-up up to the fall of STOPPED. -/

namespace Sys2Proof.Machine

/-! ### PWR_CMD and PWR_BAYOFF (R312, R313, R327) -/

/-- A PWR_CMD write. -/
def State.pwrCmdWrite (s : State) (who : Req) (d : Nat) : Reply :=
  match bits d 1 0 with
  | 0 => s.ok
  | 1 => if s.stopBlocked then s.fail codeBUSY else State.ok (s.enterStop (s.img.eastReady && s.img.westReady))
  | 2 => State.ok (s.beginWarm who.kind 4)
  | _ => s.fail codePROT

/-- A PWR_BAYOFF write. -/
def State.bayoffWrite (s : State) (d : Nat) : Reply :=
  State.ok { s with pwr := { s.pwr with bayOff := BitVec.ofNat 32 d } }

/-- A domain switched off, or on. -/
def State.domainOff (s : State) (p : Nat) : State :=
  { s with pwr := { s.pwr with domains := s.pwr.domains &&& ~~~(BitVec.ofNat 38 (2 ^ p)) } }
def State.domainOn (s : State) (p : Nat) : State :=
  { s with pwr := { s.pwr with domains := s.pwr.domains ||| BitVec.ofNat 38 (2 ^ p) } }

/-- BAY_GATE: a bay whose PWR_BAYOFF bit is set is gated once it holds no header, instance or granted credit (R312), and once
its SO queue is empty, since the SO of a gated bay is idle (R34, R321). Its sampling window ends with the domain (R248). -/
def execBayGate (n : Fin 32) (s : State) : Host.Outcome State Fault Refusal :=
  let b := s.bay n.val
  if s.pwr.phase = .run ∧ bit s.pwr.bayOff.toNat n.val = true ∧ b.tiles = [] ∧ b.held = none ∧ b.egress = [] then
    .next ((s.domainOff (s.physBay n.val)).mapBay n.val fun b => { b with window := 0 })
  else .next s

/-- BAY_POWER_RESTORED: a bay whose PWR_BAYOFF bit was cleared is powered again; its droop calibration is the one that the
Control domain holds (R312), and its windows count from here (R248). -/
def execBayPowerRestored (n : Fin 32) (s : State) : Host.Outcome State Fault Refusal :=
  if s.pwr.phase = .run ∧ s.wantsBay (s.physBay n.val) = true ∧ s.bayOn n.val = false then
    .next ((s.domainOn (s.physBay n.val)).mapBay n.val fun b => { b with window := 0 })
  else .next s

/-! ### The Cellar (R316, R347) -/

/-- The patrol record (R347): 64 words. -/
def Spare.patrolRecord (x : Spare) : List Nat :=
  let counters := fun (h : Nat) => ((List.range 17).map fun k => sget 0 x.bankCnt (32 * h + k) * 2 ^ (5 * k)).sum
  [x.patrolCtlWord, x.patrolStatusWord] ++ (List.range 34).map (fun p => (x.bay p).word 7)
    ++ ((List.range 3).map fun h => [word64 (counters h) 0, word64 (counters h) 1]).flatten ++ List.replicate 22 0

/-- The items from offset 0x0010 (R316): 114 words. -/
def State.saveItems (s : State) : List Nat :=
  [s.img.copyE.toNat + 4 * s.img.copyW.toNat + 16 * s.img.fwCopy.toNat, s.img.genE.toNat + 2 ^ 32 * s.img.genW.toNat]
  ++ (List.range 4).map (word64 s.img.hashE.toNat) ++ (List.range 4).map (word64 s.img.hashW.toNat)
  ++ [s.ctl.srSeed.toNat, s.ctl.srStep.toNat, s.ctl.argsetBase.toNat, s.xp.shard.toNat, s.gn.optStep.toNat, s.ctl.allow.toNat]
  ++ (List.range 34).map (fun p => s.readReg false (.droopCal p)) ++ s.spare.patrolRecord

/-- Bytes of words, little-endian. -/
def wordBytes (ws : List W64) : List Byte := (ws.map fun w => (leBytes 0 w.toNat 8).map Prod.snd).flatten

/-- A save: header word, CRC word and items (R316). -/
def State.saveWords (s : State) (imgValid : Bool) : List W64 :=
  let items := s.saveItems.map (BitVec.ofNat 64)
  BitVec.ofNat 64 (0x4C4C4543 + 2 ^ 32 + 2 ^ 40 * b2n imgValid + 2 ^ 48 * 116)
    :: BitVec.ofNat 64 (crc32 (wordBytes items)) :: items

/-- The CRC that the Cellar's items have. -/
def State.cellarCrc (s : State) : Nat := crc32 (wordBytes (s.cellar.drop 2))

/-- Is the Cellar valid, and may it be restored (R316)? -/
def State.cellarValid (s : State) : Bool :=
  let h := s.cellarWord 0
  bits h 31 0 == 0x4C4C4543 && bits h 39 32 == 1 && bits h 63 48 == 116 && s.cellarCrc == bits (s.cellarWord 1) 31 0
def State.restorable (s : State) : Bool := s.cellarValid && bit (s.cellarWord 0) 40

/-- The registers of the save list from the Cellar (R316, R322, R347). -/
def State.restored (s : State) : State :=
  let w := s.cellarWord
  let pat := fun i => w (52 + i)
  { s with
    ctl := { s.ctl with
      srSeed := BitVec.ofNat 64 (w 12)
      srStep := BitVec.ofNat 32 (w 13)
      argsetBase := BitVec.ofNat 64 (w 14)
      allow := BitVec.ofNat 4 (w 17) }
    xp := { s.xp with shard := BitVec.ofNat 20 (w 15) }
    gn := { s.gn with optStep := BitVec.ofNat 32 (w 16) }
    pwr := { s.pwr with droopCal := (List.range 34).map fun p => (BitVec.ofNat 6 (w (18 + p)), (2 : BitVec 2)) }
    spare := { s.spare with
      patrolEn := bit (pat 0) 0
      rate := BitVec.ofNat 4 (bits (pat 0) 4 1)
      spareTest := bit (pat 0) 5
      sweeps := BitVec.ofNat 32 (bits (pat 1) 31 0)
      left := BitVec.ofNat 8 (bits (pat 1) 39 32)
      bays := s.spare.bays.zipIdx.map (fun q => { q.1 with
        soft := BitVec.ofNat 2 (bits (pat (2 + q.2)) 1 0)
        samples := BitVec.ofNat 32 (bits (pat (2 + q.2)) 63 32) })
      bankCnt := ((List.range 3).map fun h => (List.range 17).map fun k => (h, k)).flatten.foldl (fun m q =>
        let rec128 := pat (36 + 2 * q.1) + 2 ^ 64 * pat (37 + 2 * q.1)
        sset 0 m (32 * q.1 + q.2) (bits rec128 (5 * q.2 + 4) (5 * q.2))) [] } }

/-! ### Stop entry (R314, R319) -/

/-- STOP_ENTRY_SAVE: with the error-log queue drained, the port buffer is filled and copied into the Cellar (R29, R314,
R316). -/
def execStopEntrySave (s : State) : Host.Outcome State Fault Refusal :=
  match s.pwr.phase with
  | .entering imgValid =>
    if s.log.queue.isEmpty then
      let ws := s.saveWords imgValid
      .next { s with
        cellarBuf := ws
        cellar := ws
        pwr := { s.pwr with phase := .saved } }
    else .next s
  | _ => .next s

/-- STOP_COMMIT_WINDOW: aoc 464: STOPPED rises, LEVEL falls to DEFAULT, requests that have not executed are discarded
(R313, R314, R358). The entries that the entry itself queued have entered the ring by then (R272). -/
def execStopCommitWindow (s : State) : Host.Outcome State Fault Refusal :=
  if s.pwr.phase = .saved ∧ s.log.queue = [] then
    .next { s.loseUnlock s.dbg.lc with
      lathA := { s.lathA with
        reqs := []
        rsps := [] }
      lathB := { s.lathB with
        reqs := []
        rsps := [] }
      pwr := { s.pwr with
        phase := .committed
        stopped := true } }
  else .next s

/-- The factory trims of the droop comparators (R322). -/
def droopTrims : List (BitVec 6 × BitVec 2) := (List.range 34).map fun p => (Config.droopTrim p, 0)

/-- STOP_DOMAINS_OFF: aoc 472: the wake level and RST_N are sampled, and domains 0 to 37 are switched off (R314, R319,
R326). The queue of the log lies in Control and goes with it (R26): it has drained before (R272). -/
def execStopDomainsOff (s : State) : Host.Outcome State Fault Refusal :=
  if s.pwr.phase = .committed then
    let lost := s.pwr.en && s.pwr.seen && !s.pwr.level
    let s := if lost then
        s.logAO cWAKELOST s.pwr.stopCount.toNat 0 (s.pwr.thresh.toNat + 16 * b2n s.pwr.pol)
      else s
    let reset := s.pwr.rstLow || s.pwr.rstSeen
    let s := s.resetControl
    let s := { s with
      pwr := { s.pwr with
        domains := 0
        droopCal := droopTrims
        lost := s.pwr.lost || lost
        seen := false
        rstSeen := false
        phase := .off }
      log := { s.log with queue := [] } }
    .next (if reset then s.beginExit .warm
      else if s.pwr.en && s.pwr.level then s.beginExit .wake else s)
  else .next s

/-- STOP_LOW_POWER: aoc 480: low-power mode, STOPCOUNT advances, and the block is in Stop (R307, R314). An exit event met
since aoc 472 is taken. -/
def execStopLowPower (s : State) : Host.Outcome State Fault Refusal :=
  if s.pwr.phase = .off then
    let s := { s with pwr := { s.pwr with
      phase := .stop
      lowPower := true
      stopCount := s.pwr.stopCount + 1 } }
    .next (match s.pwr.exit with
      | some k => s.beginExit k
      | none => s)
  else .next s

/-! ### Wake and RST_N (R317 to R319, R324, R326) -/

/-- Is the block in ENTERING: from the request to aoc 472 (R313, R314)? -/
def Phase.enteringStop (p : Phase) : Bool :=
  match p with
  | .entering _ => true
  | .saved => true
  | .committed => true
  | _ => false

/-- What the comparator's level does: it counts in ENTERING, and wakes the block after aoc 472 (R317, R319). -/
def State.takeLevel (s : State) : State :=
  let level := s.pwr.level
  let wake := level && s.pwr.en && s.pwr.exit.isNone
  if s.pwr.phase.enteringStop then { s with pwr := { s.pwr with seen := s.pwr.seen || level } }
  else if s.pwr.phase = .off ∧ wake = true then { s with pwr := { s.pwr with exit := some .wake } }
  else if s.pwr.phase = .stop ∧ wake = true then s.beginExit .wake
  else s

/-- WAKE_EVENT: WAKE_SENSE stands at a voltage (R318, R319). -/
def execWakeEvent (mv : Nat) (s : State) : Host.Outcome State Fault Refusal :=
  .next (State.takeLevel { s with pwr := { s.pwr with
    wakeMv := mv
    level := s.pwr.wakeLevel mv } })

/-- RST_N_ASSERT: RST_N is held low: a Warm reset from Run, an exit from Stop, and in ENTERING an exit after aoc 472 even
if it rises before (R317, R323, R324, R326). -/
def execRstNAssert (s : State) : Host.Outcome State Fault Refusal :=
  let s := { s with pwr := { s.pwr with rstLow := true } }
  match s.pwr.phase with
  | .run => .next (s.beginWarm 6 3)
  | .stop => .next (s.beginExit .warm)
  | .off => .next { s with pwr := { s.pwr with exit := some .warm } }
  | .powerUp .wake => .next (State.logWarm { s with pwr := { s.pwr with
      phase := .powerUp .warm
      lastCause := 3 } })
  | .released .wake =>
    let r := s.resetControl
    .next (State.logWarm { r with pwr := { r.pwr with
      phase := .released .warm
      lastCause := 3 } })
  | .drain .faultStop => .next { s with pwr := { s.pwr with rstSeen := true } }
  | p => .next (if p.enteringStop then { s with pwr := { s.pwr with rstSeen := true } } else s)

/-- RST_N_RELEASE: RST_N rises; after a warm reset CONTROL is released (R323). -/
def execRstNRelease (s : State) : Host.Outcome State Fault Refusal :=
  let s := { s with pwr := { s.pwr with rstLow := false } }
  if s.pwr.phase = .warmHold then .next { s with pwr := { s.pwr with phase := .released .warm } } else .next s

/-! ### Supplies (R308, R317, R326) -/

/-- VAUX_POWER_ON_TRIP: everything in AO is lost; no token is sent (R308, R323). -/
def execVauxPowerOnTrip (s : State) : Host.Outcome State Fault Refusal := .next (s.cutProgram.cutPasses.resetCold .noAux 0)

/-- VAUX_POWER_ON_RELEASE: the cold start waits for step 1 (R308, R320). -/
def execVauxPowerOnRelease (s : State) : Host.Outcome State Fault Refusal :=
  if s.pwr.phase = .noAux then .next { s with pwr := { s.pwr with phase := .trim } } else .next s

/-- A brown-out that governs: in Run a drain with BROWNOUT tokens and then a cold start; in another drain the cold start
follows that drain; otherwise the cold start follows at once (R308, R323, R326). -/
def State.brownout (s : State) (lastCause : BitVec 4) : State :=
  match s.pwr.phase with
  | .run => s.beginDrain (.cold lastCause) cBROWNOUT
  | .entering _ => s.beginDrain (.cold lastCause) cBROWNOUT
  | .saved => s.beginDrain (.cold lastCause) cBROWNOUT
  | .drain (.cold _) => s
  | .drain _ => { s with pwr := { s.pwr with phase := .drain (.cold lastCause) } }
  | _ => s.resetCold .trim lastCause

/-- AO_BROWNOUT (R308). -/
def execAoBrownout (s : State) : Host.Outcome State Fault Refusal :=
  if s.pwr.phase = .noAux then .next s else .next (s.brownout 1)

/-- CORE_BROWNOUT: VDD is low: in Run a cold start follows the drain; in Stop an exit waits. Until aoc 480 the block is not in
Stop (R314), and a power-up under way is none either: there it governs, and a cold start follows at once (R308, R317,
R326, notes/assumptions/141). -/
def execCoreBrownout (s : State) : Host.Outcome State Fault Refusal :=
  let s := { s with pwr := { s.pwr with vddGood := false } }
  match s.pwr.phase with
  | .noAux => .next s
  | .trim => .next s
  | .stop => .next s
  | _ => .next (s.brownout 2)

/-- CORE_BROWNOUT_RELEASE: VDD has been good for 32 aoc: an exit that waits begins (R308, R317). -/
def execCoreBrownoutRelease (s : State) : Host.Outcome State Fault Refusal :=
  let s := { s with pwr := { s.pwr with vddGood := true } }
  match s.pwr.phase, s.pwr.exit with
  | .stop, some k => .next (s.beginExit k)
  | _, _ => .next s

/-! ### The end of a drain, and power-up (R315, R320, R323) -/

/-- A drain ends: the cold or warm start, or Stop entry, follows; with a fault Stop the work that needed the failed units ends
(R266, R315, R323). After an ADVANCE the level is bounded by the DEFAULT of the new state (R358, R361). -/
def State.endDrain (s : State) : State :=
  match s.pwr.phase with
  | .drain (.cold c) => s.resetCold .trim c
  | .drain .warm =>
    let r := s.resetControl.dropGrant.loseUnlock s.dbg.fuse
    { r with pwr := { r.pwr with
      stopped := true
      phase := if r.pwr.rstLow then .warmHold else .released .warm } }
  | .drain .faultStop =>
    State.enterStop { s with
      bays := s.bays.map fun b => b.sends []
      store := []
      formed := []
      spilled := []
      topks := []
      runs := [] } false
  | _ => s

/-- COLD_START: step 1 trims AO; X0 follows, or AOFAULT leaves the block in Stop (R286, R314, R320, R322, R358). A
failed check of the regulator has REASON CHECK in its entry (notes/assumptions/175). -/
def execColdStart (trimOk : Bool) (lifecycle : BitVec 2) (s : State) : Host.Outcome State Fault Refusal :=
  if s.pwr.phase ≠ .trim then .next s
  else if !trimOk then
    .next (s.logAO 0x40 s.img.startNo.toNat 0 (1 + 2 ^ 17)).toStop
  else if !s.pwr.vddGood then .next s
  else
    let s := { s with
      dbg := s.dbg.readFuses lifecycle
      pwr := { s.pwr with
        phase := .powerUp .cold
        droopCal := droopTrims } }
    .next (s.setLevel (lcDefault s.dbg.lc))

/-- The slots of R320 whose domain comes on: CONTROL, SCF0, SCF1, MORTAR, then each mapped physical bay. -/
def State.slots (s : State) : List Nat :=
  [37, 34, 35, 36] ++ (List.range 34).filter fun p => (s.spare.serves p).isSome && !bit s.spare.retired.toNat p

/-- POWERUP_DOMAIN_ON: a domain comes on in its slot. With CONTROL, AO checks the Cellar at an exit (R316, R320, R328). -/
def execPowerupDomainOn (d : Fin 38) (s : State) : Host.Outcome State Fault Refusal :=
  match s.pwr.phase with
  | .powerUp k =>
    if (s.slots.find? fun p => !bit s.pwr.domains.toNat p) = some d.val then
      let s := s.domainOn d.val
      .next (if d.val = 37 ∧ k ≠ .cold ∧ s.cellarValid = false then
        s.logAO cCELLARBAD s.pwr.stopCount.toNat (bits (s.cellarWord 1) 31 0) s.cellarCrc
      else s)
    else .next s
  | _ => .next s

/-- ISOLATION_RELEASE: CONTROL leaves reset; at an exit GEN advances and OWNER becomes NONE (R266, R320). -/
def execIsolationRelease (s : State) : Host.Outcome State Fault Refusal :=
  match s.pwr.phase with
  | .powerUp k =>
    if s.slots.all fun p => bit s.pwr.domains.toNat p then
      let s := { s with pwr := { s.pwr with phase := .released k } }
      .next (if k = .cold then s else s.dropGrant)
    else .next s
  | _ => .next s

/-- CELLAR_RESTORE: after a wake, a valid Cellar with IMGVALID 1 is written into the port buffer and loaded (R316,
R320). -/
def execCellarRestore (s : State) : Host.Outcome State Fault Refusal :=
  if s.pwr.phase = .released .wake ∧ s.restorable = true then
    .next { s.restored with cellarBuf := s.cellar }
  else .next s

/-- The kind, the CAUSE and LASTCAUSE of the start that follows an exit (R309, R316). -/
def State.startOf (s : State) (k : ExitKind) : Nat × Nat × BitVec 4 :=
  match k with
  | .cold => (0, if s.pwr.lastCause = 0 then 0 else 1, s.pwr.lastCause)
  | .warm => (1, 2, s.pwr.lastCause)
  | .wake => if s.restorable then (2, 3, 5) else (1, 5, 6)

/-- STOPPED_FALL: STOPPED falls and the start begins at step 2; not while RST_N is low, and not before a restore that is
due (R309, R316, R320, R323, R358). -/
def execStoppedFall (env : StartEnv) (s : State) : Host.Outcome State Fault Refusal :=
  match s.pwr.phase with
  | .released k =>
    if s.pwr.rstLow || (k == ExitKind.wake && s.restorable && s.cellarBuf != s.cellar) then .next s
    else
      let w := s.startOf k
      let s := { s with
        dbg := s.dbg.readFuses env.lifecycle
        pwr := { s.pwr with
          phase := .run
          stopped := false
          lastCause := w.2.2
          taken := s.pwr.taken || k == ExitKind.wake } }
      let d := lcDefault s.dbg.lc
      let s := s.setLevel (if k = ExitKind.cold then d else min s.dbg.level.toNat d)
      .next (s.beginStart w.1 w.2.1 0 env 0)
  | _ => .next s

end Sys2Proof.Machine
end

