-- ==== Sys2Proof/Machine/Debug.lean ====
section
/-! DEFINITION. Lifecycle and debug (R351 to R367): DBG_CMD and its area, the Gatehouse's answers, and the TAP but for
REGACC. -/

namespace Sys2Proof.Machine

/-! ### DBG_CMD (R359) -/

/-- SOURCE code of a requester (R363). -/
def Req.source : Req → BitVec 2
  | .port p => portSource p
  | .tap => 2

/-- SRCKIND of SOURCE (R269, R367). -/
def sourceKind (src : BitVec 2) : Nat :=
  match src.toNat with
  | 0 => 1
  | 1 => 2
  | _ => 7

/-- Is `dest` a transition of R352 from `lc`? -/
def lcTransition (lc dest : Nat) : Bool :=
  match lc with
  | 0 => dest != 0
  | 1 => dest == 2 || dest == 3
  | 2 => dest == 3
  | _ => false

/-- An explicit change of LEVEL: one DBGLEVEL entry (R358, R367). -/
def State.changeLevel (s : State) (kind l : Nat) : State :=
  if l = s.dbg.level.toNat then s
  else (s.logE 0x80 kind 0 0 0 s.sem.copy.toNat (l + 2 ^ 8 * s.dbg.level.toNat) s.dbg.lc.toNat).setLevel l

/-- Is a request with the Gatehouse (R359)? -/
def Dbg.asking (d : Dbg) : Bool := d.state == 1 || d.state == 3

def State.setlevelWrite (s : State) (who : Req) (l : Nat) : Reply :=
  if l ≤ lcCeiling s.dbg.lc ∨ l ≤ s.dbg.level.toNat then State.ok (s.tasksGoOn (s.changeLevel who.kind l)) else s.fail codeDENY

def State.challengeWrite (s : State) (who : Req) (l : Nat) (ret : Bool) : Reply :=
  if s.dbg.asking then s.fail codeBUSY
  else if s.dbg.lc ≠ 2 ∨ (ret = false ∧ l ≠ 2) ∨ 8 ≤ s.dbg.refusals.toNat then s.fail codeDENY
  else State.ok { s with dbg := { s.dbg with
    state := 1
    purpose := if ret then 1 else 0
    tlevel := BitVec.ofNat 2 l
    source := who.source
    chal := 0
    resp := 0 } }

def State.respondWrite (s : State) (who : Req) : Reply :=
  if s.dbg.state ≠ 2 ∨ who.source ≠ s.dbg.source then s.fail codeDENY
  else if s.dbg.purpose = 1 ∧ s.stopBlocked = true then s.fail codeBUSY
  else State.ok { s with dbg := { s.dbg with state := 3 } }

def State.advanceWrite (s : State) (who : Req) (target : Nat) : Reply :=
  if !lcTransition s.dbg.lc.toNat target then s.fail codePROT
  else if s.dbg.lc = 2 ∧ target = 3 then s.fail codeDENY
  else if s.dbg.asking || s.stopBlocked then s.fail codeBUSY
  else State.ok { s with dbg := { s.dbg with
    state := 1
    purpose := 2
    target := BitVec.ofNat 2 target
    source := who.source } }

def State.cancelWrite (s : State) : Reply :=
  if s.dbg.asking then s.fail codeBUSY
  else if s.dbg.state = 2 then State.ok { s with dbg := { s.dbg with
    state := 0
    result := 3
    chal := 0
    resp := 0 } }
  else s.ok

/-- A DBG_CMD write (R359). -/
def State.dbgCmdWrite (s : State) (who : Req) (gen : W32) (d : Nat) : Reply :=
  if 5 < bits d 2 0 ∨ bits d 5 4 = 3 then s.fail codePROT
  else if who ≠ .tap ∧ s.owns who gen = false then s.fail codeDENY
  else
    match bits d 2 0 with
    | 0 => s.ok
    | 1 => s.setlevelWrite who (bits d 5 4)
    | 2 => s.challengeWrite who (bits d 5 4) (bit d 8)
    | 3 => s.respondWrite who
    | 4 => s.advanceWrite who (bits d 7 6)
    | _ => s.cancelWrite

/-- A DBG_RESP[k] write (R359). -/
def State.dbgRespWrite (s : State) (who : Req) (k d : Nat) : Reply :=
  if s.dbg.state ≠ 2 ∨ who.source ≠ s.dbg.source then s.fail codeDENY
  else
    let r := s.dbg.resp.toNat
    State.ok { s with dbg := { s.dbg with
      resp := BitVec.ofNat 512 (r - word64 r k * 2 ^ (64 * k) + d % 2 ^ 64 * 2 ^ (64 * k)) } }

/-- A DBG_VIEWSEL write (R363). -/
def State.viewselWrite (s : State) (d : Nat) : Reply :=
  if 33 < bits d 5 0 ∨ 9 < bits d 35 32 then s.fail codePROT
  else State.ok { s with dbg := { s.dbg with
    viewBay := BitVec.ofNat 6 (bits d 5 0)
    rowBase := BitVec.ofNat 11 (bits d 26 16)
    viewCore := BitVec.ofNat 4 (bits d 35 32) } }

/-! ### The Gatehouse (R353, R360, R361) -/

/-- A sequence ends: STATE returns to IDLE, RESULT and REASON are set, DBG_CHAL and DBG_RESP become zero (R360). -/
def State.endDbg (s : State) (result reason : Nat) : State :=
  { s with dbg := { s.dbg with
    state := 0
    result := BitVec.ofNat 3 result
    reason := BitVec.ofNat 8 reason
    chal := 0
    resp := 0 } }

/-- A refusal: REFUSALS rises, one DBGREFUSED entry (R360, R367). -/
def State.refuseDbg (s : State) (reason : Nat) : State :=
  let d := s.dbg
  let n := satAdd d.refusals 1
  let s := { s with dbg := { d with refusals := n } }
  (s.logE 0x81 (sourceKind d.source) 0 0 0 s.sem.copy.toNat
    (d.purpose.toNat + 2 ^ 8 * d.tlevel.toNat + 2 ^ 16 * d.target.toNat) (reason + 2 ^ 8 * n.toNat)).endDbg 2 reason

/-- The fuses take a new lifecycle state: LCADVANCE and a Warm reset (R361, R367). In a drain or in ENTERING the way to the
next start, which reads the new state, has begun already (notes/assumptions/129). -/
def State.lcAdvance (s : State) (dest : Nat) : State :=
  let kind := sourceKind s.dbg.source
  let s := (s.logE 0x82 kind 0 0 0 s.sem.copy.toNat dest s.dbg.lc.toNat).endDbg 1 0
  let s := { s with dbg := { s.dbg with fuse := BitVec.ofNat 2 dest } }
  if s.pwr.phase = .run then s.beginWarm kind 4 else s

/-- GATEHOUSE_CHALLENGE: the 32-byte challenge arrives (R360). -/
def execGatehouseChallenge (nonce : BitVec 256) (s : State) : Host.Outcome State Fault Refusal :=
  if s.pwr.stopped = false ∧ s.dbg.state = 1 ∧ s.dbg.purpose ≠ 2 then
    .next { s with dbg := { s.dbg with
      state := 2
      chal := nonce } }
  else .next s

/-- GATEHOUSE_ANSWER: a grant or a refusal; a grant of ADVANCE or RETURN programs the fuses, which may fail (R360, R361). -/
def execGatehouseAnswer (grant : Bool) (reason : BitVec 8) (fuseOk : Bool) (s : State) : Host.Outcome State Fault Refusal :=
  if s.pwr.stopped = true ∨ s.dbg.asking = false then .next s
  else if !grant then .next (s.refuseDbg reason.toNat)
  else
    match s.dbg.purpose.toNat, s.dbg.state.toNat with
    | 0, 3 => .next ((s.changeLevel (sourceKind s.dbg.source) 2).endDbg 1 0)
    | 1, 3 => .next (if fuseOk then s.lcAdvance 3 else s.refuseDbg 6)
    | 2, _ => .next (if fuseOk then s.lcAdvance s.dbg.target.toNat else s.refuseDbg 6)
    | _, _ => .next s

/-- GATEHOUSE_TIMEOUT: no answer in 2^22 ac counts as a refusal with TIMEOUT (R353). -/
def execGatehouseTimeout (s : State) : Host.Outcome State Fault Refusal :=
  if s.pwr.stopped = true ∨ s.dbg.asking = false then .next s else .next (s.refuseDbg 4)

/-! ### The TAP (R354) -/

/-- What Capture-IR loads. -/
def State.captureIr (s : State) : Nat :=
  1 + 4 * s.dbg.level.toNat + 16 * s.dbg.lc.toNat + 64 * b2n s.pwr.stopped + 128 * b2n s.tap.denied

/-- What Capture-DR loads for IDCODE, LCREAD, the wrapper boundary register and the bypass register. -/
def State.captureDr (s : State) : Nat :=
  match s.tap.ir.toNat with
  | 0x01 => 1 + 2 * Config.manufacturer.toNat + 2 ^ 12 * 0x4260 + 2 ^ 28 * 2
  | 0x10 => s.lcStatus
  | 0x02 | 0x03 | 0x04 => s.tap.boundary
  | _ => 0

/-- The listed instructions, and whether each is available now: its level, its part, and for EXTEST and INTEST a block in
Run at rest. None for an opcode not listed (R354). -/
def State.tapAvailable (s : State) (op : Nat) : Option Bool :=
  let l := s.dbg.level.toNat
  let control := !s.pwr.stopped
  match op with
  | 0x01 => some true
  | 0x02 => some (decide (1 ≤ l) && control)
  | 0x03 => some (decide (2 ≤ l) && s.pwr.phase == .run && !s.stopBlocked)
  | 0x04 => some (decide (2 ≤ l) && s.pwr.phase == .run && !s.stopBlocked)
  | 0x10 => some true
  | 0x11 => some (decide (1 ≤ l))
  | 0x12 => some control
  | 0x20 => some (decide (1 ≤ l) && control)
  | 0x21 => some (decide (2 ≤ l) && control)
  | 0xFF => some true
  | _ => none

/-- Is the instruction in force, and still available? -/
def State.tapHolds (s : State) (op : Nat) : Bool := s.tap.ir.toNat == op && s.tapAvailable op == some true

/-- Leaving EXTEST or INTEST causes a Warm reset as a WARMRESET write would (R354). -/
def State.leaveTest (s : State) (was : Bool) : State :=
  if was && s.pwr.phase == .run then s.beginWarm 7 4 else s

/-- TAP_TEST_LOGIC_RESET: IDCODE is selected (R354). -/
def execTapTestLogicReset (s : State) : Host.Outcome State Fault Refusal :=
  if s.pwr.phase = .noAux then .next s
  else .next (({ s with tap := { s.tap with ir := 1 } } : State).leaveTest s.testing)

/-- The TAPDENY entry: through the Control domain's queue in Run, straight to the ring in Stop (R354, R367,
notes/assumptions/14). -/
def State.logTapDeny (s : State) (op : Nat) : State :=
  let e := logWords 0x84 7 0 0 0 0 op s.captureIr
  if s.pwr.stopped then s.logRing e else s.pushLog e

/-- An instruction whose data register is the wrapper boundary register has its cells take what they see, which no rule gives
(R354, notes/assumptions/165). -/
def State.sampleBoundary (s : State) (op : Nat) : State :=
  if op = 0x02 ∨ op = 0x03 ∨ op = 0x04 then
    let k := s.takeFree
    { k.2 with tap := { k.2.tap with boundary := k.1 % 2 ^ Config.boundaryCells } }
  else s

/-- TAP_UPDATE_IR: an instruction is loaded, or denied; a denied or unlisted one selects the bypass register (R354). -/
def execTapUpdateIr (opcode : BitVec 8) (s : State) : Host.Outcome State Fault Refusal :=
  if s.pwr.phase = .noAux then .next s
  else
    match s.tapAvailable opcode.toNat with
    | some true =>
      let t := ({ s with tap := { s.tap with
        ir := opcode
        denied := false
        traceLeft := 256 } } : State)
      .next ((t.sampleBoundary opcode.toNat).leaveTest (s.testing && s.tap.ir != opcode))
    | some false =>
      let t := ({ s with tap := { s.tap with
        ir := 0xFF
        denied := true } } : State)
      .next ((t.logTapDeny opcode.toNat).leaveTest s.testing)
    | none =>
      .next (({ s with tap := { s.tap with
        ir := 0xFF
        denied := false } } : State).leaveTest s.testing)

/-- What Capture-DR loaded. -/
def State.setDr (s : State) (v : Nat) : State := { s with tap := { s.tap with dr := BitVec.ofNat 136 v } }

/-- LOGREAD: HEAD and the entry at INDEX (R269, R354). -/
def execLogread (index : BitVec 8) (s : State) : Host.Outcome State Fault Refusal :=
  if s.tapHolds 0x11 then
    let i := index.toNat
    let w := fun (k : Nat) => if i < 128 then s.log.entryWord (2 * i + k) else 0
    let s := { s with tap := { s.tap with logIndex := index } }
    .next (s.setDr (s.log.head.toNat + 2 ^ 8 * w 0 + 2 ^ 72 * w 1))
  else .next s

/-- CORETRACE: a core is selected, and the next of its 256 trace entries is loaded, zero when none is left (R354, R357).
The entries are free values: no rule gives the firmware's branches. -/
def execCoretrace (core : BitVec 4) (s : State) : Host.Outcome State Fault Refusal :=
  if s.tapHolds 0x20 then
    let left := if core = s.tap.traceCore then s.tap.traceLeft else 256
    let k := s.takeFree
    let v := if left = 0 ∨ 10 ≤ core.toNat then 0 else k.1 % 2 ^ 32
    .next (({ k.2 with tap := { k.2.tap with
      traceCore := core
      traceLeft := left - 1 } } : State).setDr (core.toNat + 16 * v))
  else .next s

/-! ### COREDBG (R354, R357) -/

/-- COREDBG loads its read data and HALTED (R354). -/
def State.coreDr (s : State) (c data : Nat) : State := s.setDr (2 ^ 22 * data + 2 ^ 54 * b2n (s.halted c))

/-- A COREHALT entry (R367). -/
def State.logCore (s : State) (c op : Nat) : State := s.logE 0x86 7 0 0 0 0 c op

/-- May COREDBG act on this core (R354)? -/
def State.coreOpen (s : State) (c : Nat) : Bool := s.tapHolds 0x21 && decide (c < 10)

/-- A core halted, or running. -/
def State.setHalt (s : State) (c : Nat) (h : Bool) : State :=
  { s with cores := s.cores.modify c fun x => { x with halted := h } }

/-- COREDBG_STATUS -/
def execCoredbgStatus (core : BitVec 4) (s : State) : Host.Outcome State Fault Refusal :=
  if s.coreOpen core.toNat then .next (s.coreDr core.toNat 0) else .next s

/-- COREDBG_HALT: the core stops; its task restarts on another active core, or waits (R357). -/
def execCoredbgHalt (core : BitVec 4) (s : State) : Host.Outcome State Fault Refusal :=
  if s.coreOpen core.toNat then .next (((s.setHalt core.toNat true).logCore core.toNat 1).coreDr core.toNat 0) else .next s

/-- COREDBG_STEP: a halted core executes one instruction and stays halted; no rule says what its instructions do. -/
def execCoredbgStep (core : BitVec 4) (s : State) : Host.Outcome State Fault Refusal :=
  if s.coreOpen core.toNat then
    .next ((if s.halted core.toNat then s.logCore core.toNat 2 else s).coreDr core.toNat 0)
  else .next s

/-- COREDBG_RESUME: the core takes tasks again (R357). -/
def execCoredbgResume (core : BitVec 4) (s : State) : Host.Outcome State Fault Refusal :=
  if s.coreOpen core.toNat then
    .next ((s.tasksGoOn ((s.setHalt core.toNat false).logCore core.toNat 3)).coreDr core.toNat 0)
  else .next s

/-- COREDBG_READ: a word of the core's SRAM; a word that COREDBG has not written is a free value. -/
def execCoredbgRead (core : BitVec 4) (word : BitVec 14) (s : State) : Host.Outcome State Fault Refusal :=
  if s.coreOpen core.toNat then
    .next (({ s with free := s.free + 1 } : State).coreDr core.toNat (s.coreWord core.toNat word.toNat 0))
  else .next s

/-- COREDBG_WRITE -/
def execCoredbgWrite (core : BitVec 4) (word : BitVec 14) (data : W32) (s : State) : Host.Outcome State Fault Refusal :=
  if s.coreOpen core.toNat then
    .next (({ s with cores := s.cores.modify core.toNat fun x =>
      { x with sram := (word.toNat, data) :: x.sram.filter fun p => p.1 != word.toNat } } : State).coreDr core.toNat 0)
  else .next s

end Sys2Proof.Machine
end

