-- ==== Sys2Proof/Machine/Lath.lean ====
section
/-! DEFINITION. Lath transactions and REGACC: the checks of R261, the writes of every register, the semaphore (R263 to
R265), the entries of R262, and one meaning for each row that executes a request (R255 to R262, R355). -/

namespace Sys2Proof.Machine

/-! ### Who may execute (R256, R313, R321, R323) -/

/-- Do register accesses execute: in Run, in ENTERING until STOPPED rises, and in the drain of a fault Stop (R313, R315,
R323)? -/
def Phase.lathOpen : Phase → Bool
  | .run => true
  | .entering _ => true
  | .saved => true
  | .drain .faultStop => true
  | _ => false

/-- Does every Lath write complete with BUSY (R313, R315)? -/
def Phase.writesBusy : Phase → Bool
  | .run => false
  | _ => true

/-- Is a full start or a RESUME under way (R294)? -/
def State.fullStart (s : State) : Bool :=
  match s.img.start with
  | some st => decide (st.kind.toNat ≤ 2)
  | none => false

/-! ### The writes of R261, step 6 -/

/-- Bits of `x` above `lo` and up to `hi`, with the rest zero: a field whose low bits ignore writes. -/
def keep (x hi lo : Nat) : Nat := bits x hi lo * 2 ^ lo

/-- W1C: a 1 clears the bit (R11). -/
def w1c (b : Bool) (d i : Nat) : Bool := b && !bit d i

/-- An ERR_LOG_POP write (R271). -/
def State.errPopWrite (s : State) (d : Nat) : Reply :=
  let n := bits d 7 0
  if s.log.ring.length < n then s.fail codePROT
  else State.ok { s with log := { s.log with
    ring := s.log.ring.drop n
    head := s.log.head + BitVec.ofNat 7 n
    ovf := if bit d 8 then 0 else s.log.ovf } }

/-- A WAKE_CTL write (R327): the comparator takes the new threshold and polarity against the voltage that stands on WAKE_SENSE,
with the hold band about the new threshold (R318, notes/assumptions/142). -/
def State.wakeCtlWrite (s : State) (d : Nat) : Reply :=
  let x := { s.pwr with
    thresh := BitVec.ofNat 4 (bits d 3 0)
    pol := bit d 4
    en := bit d 5 }
  State.ok { s with pwr := { x with level := x.wakeLevel x.wakeMv } }

/-- A write to a W1C field, or to a register that has one (R11, R263). -/
def State.clearWrite (s : State) (r : Reg) (d : Nat) : State :=
  match r with
  | .semOwner => { s with sem := { s.sem with
      lostA := w1c s.sem.lostA d 4
      lostB := w1c s.sem.lostB d 5 } }
  | .nanStatus => { s with nan := { s.nan with valid := w1c s.nan.valid d 0 } }
  | .nanCount => { s with nan := { s.nan with count := s.nan.count &&& ~~~(BitVec.ofNat 32 d) } }
  | .imgStatus => { s with img := { s.img with event := w1c s.img.event d 4 } }
  | .wakeStatus => { s with pwr := { s.pwr with
      lost := w1c s.pwr.lost d 1
      taken := w1c s.pwr.taken d 2 } }
  | .gnStatus => { s with gn := { s.gn with decided := w1c s.gn.decided d 3 } }
  | .xpFoldStatus => { s with xp := { s.xp with foldDone := w1c s.xp.foldDone d 24 } }
  | .xpDrops => { s with xp := { s.xp with drops := s.xp.drops &&& ~~~(BitVec.ofNat 32 d) } }
  | .hodDroop n =>
    if bit d 43 then s.mapBay n fun b => { b with late := false, worst := 0 } else s
  | .spareStatus => { s with spare := { s.spare with
      dnew := w1c s.spare.dnew d 8
      rnew := w1c s.spare.rnew d 9 } }
  | _ => s

/-- A write to a field of the run controls and selectors. -/
def State.ctlWrite (s : State) (f : Ctl → Ctl) : Reply := State.ok { s with ctl := f s.ctl }

/-- A write to the XP registers other than XP_FOLD (R213). -/
def State.xpWrite (s : State) (f : Xp → Xp) : Reply := State.ok { s with xp := f s.xp }

/-- A PATROL_CTL write (R345). -/
def State.patrolCtlWrite (s : State) (d : Nat) : Reply :=
  State.ok { s with spare := { s.spare with
    patrolEn := bit d 0
    rate := BitVec.ofNat 4 (bits d 4 1)
    spareTest := bit d 5 } }

/-- SEM_CMD (R265): its own checks, its effect, and SEM_OWNER after it as response data. -/
def State.semCmdWrite (s : State) (p : Port) (gen : W32) (op : Nat) : Reply :=
  let x := s.sem
  let grant := fun (o : Option Port) (y : Sem) => ({ s with sem := { y with
    owner := o
    gen := x.copy + 1
    copy := x.copy + 1 } } : State)
  let r := match op with
    | 0 => s.ok
    | 1 =>
      if x.owner = none then State.ok (grant (some p) x)
      else if x.owner = some p then s.ok
      else s.fail codeDENY
    | 2 =>
      if gen ≠ x.copy then s.fail codeSTALE
      else if x.owner ≠ some p then s.fail codeDENY
      else State.ok (grant none x)
    | _ =>
      if gen ≠ x.copy then s.fail codeSTALE
      else
        State.ok (grant (some p) { x with
          lostA := x.lostA || (x.owner == some Port.a && p == Port.b)
          lostB := x.lostB || (x.owner == some Port.b && p == Port.a) })
  { r with data := r.s.sem.word }

/-- Step 6 of R261 for a write of `d` to register `r`: the rules of its home chapter. -/
def State.writeHome (s : State) (who : Req) (gen : W32) (d : Nat) (env : StartEnv) (r : Reg) : Reply :=
  match r with
  | .semOwner | .nanStatus | .nanCount | .imgStatus | .wakeStatus | .gnStatus | .xpFoldStatus | .xpDrops | .hodDroop _
  | .spareStatus => State.ok (s.clearWrite r d)
  | .errPop => s.errPopWrite d
  | .imgCmd => s.imgCmdWrite who gen d env
  | .pwrCmd => s.pwrCmdWrite who d
  | .pwrBayoff => s.bayoffWrite d
  | .wakeCtl => s.wakeCtlWrite d
  | .srSeed => s.ctlWrite fun c => { c with srSeed := BitVec.ofNat 64 d }
  | .srStep => s.ctlWrite fun c => { c with srStep := BitVec.ofNat 32 d }
  | .argsetBase => s.ctlWrite fun c => { c with argsetBase := BitVec.ofNat 64 (keep d 63 6) }
  | .droopCtl => s.ctlWrite fun c => { c with allow := BitVec.ofNat 4 d }
  | .chvSel => s.ctlWrite fun c => { c with chvChain := BitVec.ofNat 12 d, chvWest := bit d 12 }
  | .ctxBase => s.ctlWrite fun c => { c with ctxBase := BitVec.ofNat 18 (keep d 17 11) }
  | .etSel => s.ctlWrite fun c => { c with etSel := BitVec.ofNat 14 d }
  | .etLoad => s.ctlWrite fun c => { c with etLoad := BitVec.ofNat 32 d }
  | .bsSpillBase => s.spillWrite fun c => { c with spillBase := BitVec.ofNat 64 (keep d 63 12) }
  | .bsSpillSize => s.spillWrite fun c => { c with spillSize := BitVec.ofNat 32 d }
  | .routeSrc => s.routeWrite fun x => { x with src := BitVec.ofNat 64 d }
  | .routeDst => s.routeWrite fun x => { x with dst := BitVec.ofNat 64 (keep d 47 4) }
  | .routeCnt => s.routeWrite fun x => { x with cnt := BitVec.ofNat 64 (keep d 47 3) }
  | .routeCtl => s.routeWrite fun x => { x with ctl := BitVec.ofNat 64 (bits d 38 0 + keep d 63 40) }
  | .routeCmd => s.routeCmdWrite d
  | .routeStatus => s.routeWrite fun x => { x with done := w1c x.done d 1, badIdx := w1c x.badIdx d 2 }
  | .stxSrc => s.stxWrite fun x => { x with src := BitVec.ofNat 64 (bits d 26 0 + keep d 50 32) }
  | .stxDst => s.stxWrite fun x => { x with dst := BitVec.ofNat 64 (keep d 47 2) }
  | .stxCmd => s.stxCmdWrite d
  | .stxStatus => s.stxWrite fun x => { x with done := w1c x.done d 1 }
  | .gnCtl => s.gnWrite fun x => { x with ctl := BitVec.ofNat 64 d }
  | .gnTags => s.gnWrite fun x => { x with tags := BitVec.ofNat 64 (bits d 44 0) }
  | .gnGate => s.gnGateWrite d
  | .gnArgdst => s.gnWrite fun x => { x with argDst := BitVec.ofNat 64 (keep d 47 3) }
  | .gnCmd => s.gnCmdWrite who d
  | .optStep => s.gnWrite fun x => { x with optStep := BitVec.ofNat 32 d }
  | .xpCfg => s.xpWrite fun x => { x with shard := BitVec.ofNat 20 d }
  | .xpAper n => s.xpWrite fun x =>
      let v := BitVec.ofNat 64 (keep d 63 16)
      if n = 0 then { x with aper0 := v } else { x with aper1 := v }
  | .xpRemote n => s.xpWrite fun x =>
      let v := BitVec.ofNat 64 (bits d 47 0)
      if n = 0 then { x with remote0 := v } else { x with remote1 := v }
  | .xpFold => s.xpFoldWrite d
  | .bgrpXp g => s.bgrpXpWrite g d
  | .bgrpDef g => s.bgrpDefWrite g d
  | .bgrpRange g => s.bgrpRangeWrite g d
  | .ctxAlloc => s.ctxAllocWrite d
  | .ctxFree => s.ctxFreeWrite d
  | .window k => s.windowWrite k d
  | .etCmd => s.etCmdWrite d
  | .patrolCtl => s.patrolCtlWrite d
  | .spareCmd => s.spareCmdWrite d
  | .dbgCmd => s.dbgCmdWrite who gen d
  | .dbgResp k => s.dbgRespWrite who k d
  | .dbgViewsel => s.viewselWrite d
  | .semCmd => s.fail codePROT
  | .idBlock | .blkStatus | .irqStatus | .lathSelf | .errHead | .errOvf | .errEntry _ | .nanWhere | .nanElement | .imgGen
  | .imgHashE _ | .imgHashW _ | .imgCopygen _ | .startInfo | .startRec _ | .pwrStatus | .pwrDomains | .droopCal _
  | .gnResult | .gnVote | .hodWindow _ | .droopTotal | .chvStatus | .chvWord _ | .chvTotal | .ctxCount | .bsStatus
  | .bsReserved | .ctxMap _ | .ctxTag _ | .etWord _ | .etStatus | .etView _ | .spareBays | .spareBanks | .spareCores
  | .patrolStatus | .bayMap _ | .lcStatus | .dbgStatus | .dbgChal _ | .tableView _ | .coreView _ => s.ok

/-! ### The access (R261) -/

/-- Does address `a` lie from LC_STATUS to DBG_VIEWSEL (R355)? -/
def inDebug (a : Nat) : Bool := decide (0xC0000 ≤ a) && decide (a ≤ 0xC0078)

/-- Check 3 of R261: the level forbids the access (R355, R356). -/
def State.forbids (s : State) (who : Req) (write : Bool) (a : Nat) (r : Reg) : Bool :=
  let l := s.dbg.level.toNat
  match who with
  | .tap => match l with
    | 0 => !inDebug a
    | 1 => write && !inDebug a
    | _ => false
  | .port _ => match r with
    | .dbgViewsel => write && decide (l = 0)
    | .tableView _ => decide (l = 0)
    | .coreView _ => decide (l < 2)
    | _ => false

/-- Is the request made through Lath B (R274)? One of the TAP reads LATH_SELF as 0 (notes/assumptions/183). -/
def Req.isB : Req → Bool
  | .port .b => true
  | _ => false

/-- A read that has passed checks 1 to 3 (R261, R338). -/
def State.readAccess (s : State) (who : Req) (r : Reg) : Reply :=
  match r with
  | .window k =>
    let c := s.ctl.ctxBase.toNat + k / 4
    if s.allocated c && s.poison.contains c then s.fail codeDENY else ⟨s, codeOK, s.readReg who.isB r⟩
  | .coreView _ => ⟨{ s with free := s.free + 2 }, codeOK, s.readReg who.isB r⟩
  | _ => ⟨s, codeOK, s.readReg who.isB r⟩

/-- A write that has passed checks 1 to 3: an entry into Stop or a start under way, the semaphore, and the home chapter (R261,
R263, R294, R313, R315). A write that is to complete with BUSY does so whatever its GEN (notes/assumptions/108). -/
def State.writeAccess (s : State) (who : Req) (gen : W32) (a d : Nat) (env : StartEnv) (r : Reg) : Reply :=
  match r, who with
  | .semCmd, .port p =>
    if s.pwr.phase.writesBusy then { s.fail codeBUSY with data := s.sem.word }
    else s.semCmdWrite p gen (bits d 1 0)
  | .semCmd, .tap => s.fail codePROT
  | _, _ =>
    let g := guarded a r
    if s.pwr.phase.writesBusy || (s.fullStart && (g || r == .imgCmd)) then s.fail codeBUSY
    else if g && who != .tap && gen != s.sem.copy then s.fail codeSTALE
    else if g && !s.owns who gen then s.fail codeDENY
    else s.writeHome who gen d env r

/-- CAUSE of a response code's entry (R262, R270). -/
def lathCause (code : Nat) : Nat :=
  match code with
  | 1 => 0x32
  | 2 => 0x30
  | 3 => 0x31
  | 4 => 0x33
  | _ => 0x34

/-- The entry that a refused access makes (R262, R270): none for OK and BUSY, and for SEM_CMD only under STALE. -/
def State.logAccess (s : State) (who : Req) (code a aux seq : Nat) (semCmd : Bool) : State :=
  if code = codeOK ∨ code = codeBUSY ∨ (semCmd = true ∧ code ≠ codeSTALE) then s
  else s.logE (lathCause code) who.kind 0 0 code (if who = .tap then 0 else seq) a aux

/-- One access under R261, with its entry. A misaligned write to the word of SEM_CMD counts as SEM_CMD for R262, and its response
carries no data (notes/assumptions/171). -/
def State.access (s : State) (who : Req) (write : Bool) (addr gen : W32) (data : W64) (env : StartEnv) : Reply :=
  let a := addr.toNat
  let d := data.toNat
  let r := match regOf a with
    | none => s.fail codeADDR
    | some x =>
      if a % 8 ≠ 0 then s.fail codePROT
      else if s.forbids who write a x then s.fail codePROT
      else if write then s.writeAccess who gen a d env x
      else s.readAccess who x
  let sem := write && regOf a == some Reg.semCmd
  let aux := if r.code = codeSTALE then gen.toNat else if write then d else 0
  { r with s := r.s.logAccess who r.code a aux s.sem.copy.toNat sem }

/-! ### Accesses of the TAP (R355) -/

/-- Is a request of the port ready, so that its response would fit (R257)? -/
def State.ready (s : State) (p : Port) : Bool :=
  s.pwr.phase.lathOpen && !s.pwr.stopped && !(s.lath p).reqs.isEmpty && decide ((s.lath p).rsps.length < 8)

/-- One access of REGACC under the TAP's level, its response in the data register, and a DBGWRITE entry for a write at Full
outside the debug registers, which follows the entries that the access itself makes (R272, R355, R367). -/
def State.tapAccess (s : State) (x : TapAccess) : State :=
  let r := s.access .tap x.write x.addr 0 x.data x.env
  let t := if x.write && decide (s.dbg.level = 2) && !inDebug x.addr.toNat then
      r.s.logE 0x85 7 0 0 0 0 x.addr.toNat x.data.toNat
    else r.s
  t.setDr (x.addr.toNat + 2 ^ 32 * b2n x.write + 2 ^ 33 * (r.data % 2 ^ 64) + 2 ^ 97 * r.code)

/-- An ac in which no Lath request is ready: the accesses of REGACC that wait execute, oldest first, and those that meet a reset
of the Control domain on the way are gone (R355, notes/assumptions/166). -/
def State.tapTurn (s : State) : State :=
  if s.tap.held = [] ∨ s.ready .a = true ∨ s.ready .b = true then s
  else
    s.tap.held.foldl (fun (s : State) x => if s.pwr.phase.lathOpen then s.tapAccess x else s)
      { s with tap := { s.tap with held := [] } }

/-! ### The ports (R255 to R257) -/

/-- LATH_REQUEST_TRANSFER: a request enters the port's queue of 8 while _REQ_READY is 1 (R256). -/
def execLathRequestTransfer (p : Port) (req : LathReq) (s : State) : Host.Outcome State Fault Refusal :=
  let s := s.tapTurn
  let x := s.lath p
  if s.pwr.phase.lathOpen && !s.pwr.stopped && !s.testing && x.up && decide (x.reqs.length < 8) then
    .next (s.setLath p { x with reqs := x.reqs ++ [req] })
  else .next s

/-- LATH_RESPONSE_TRANSFER: the oldest response leaves (R256, R257). -/
def execLathResponseTransfer (p : Port) (s : State) : Host.Outcome State Fault Refusal :=
  let s := s.tapTurn
  let x := s.lath p
  if s.pwr.stopped || s.testing || !x.up then .next s
  else .next (s.setLath p { x with rsps := x.rsps.tail })

/-- Are requests of both ports ready, and which port goes first then (R32)? -/
def State.tie (s : State) : Bool := s.ready .a && s.ready .b
def State.first (s : State) : Port := if s.tieB then .b else .a

/-- The request at the head leaves the port's queue; served at a tie, the port goes last at the next one (R32). -/
def State.popped (s : State) (p : Port) : State :=
  State.setLath { s with tieB := if s.tie then p == .a else s.tieB } p { s.lath p with reqs := (s.lath p).reqs.tail }

/-- A response enters the port's response queue (R257). -/
def State.respond (s : State) (p : Port) (q : LathReq) (code data : Nat) : State :=
  s.setLath p { s.lath p with rsps := (s.lath p).rsps ++ [⟨q.tag, BitVec.ofNat 3 code, BitVec.ofNat 64 data⟩] }

/-- A request executes and its response enters the response queue (R257). -/
def State.runRequest (s : State) (p : Port) (q : LathReq) (env : StartEnv) : State :=
  let r := (s.popped p).access (.port p) q.write q.addr q.gen q.data env
  r.s.respond p q r.code r.data

/-- The request at the head of the port's queue, when it may execute, the row is the one that it belongs to, and no request of
the other port goes first (R32, R257). -/
def State.headFor (s : State) (p : Port) (row : LathReq → Bool) : Option LathReq :=
  match (s.lath p).reqs with
  | [] => none
  | q :: _ => if s.ready p && (!s.tie || s.first == p) && row q then some q else none

/-- One row of the table that executes a request: nothing happens unless the head request belongs to it. With the last ready
request gone, an access of the TAP that waits executes (R355, notes/assumptions/166). -/
def State.lathRow (s : State) (p : Port) (row : LathReq → Bool) (env : StartEnv) : Host.Outcome State Fault Refusal :=
  match s.headFor p row with
  | some q => .next (s.runRequest p q env).tapTurn
  | none => .next s

/-- LATH_PORT_RESET: _RST_N of a port falls (R267), and with it the port's requests, for which an access of the TAP may have
waited (R355). -/
def execLathPortReset (p : Port) (s : State) : Host.Outcome State Fault Refusal := .next (s.portReset p).tapTurn

/-- DRAIN_END: a drain ends (R323). The drain of a fault Stop has discarded the requests for which an access of the TAP may have
waited, and registers are still read in it (R315, R355). -/
def execDrainEnd (s : State) : Host.Outcome State Fault Refusal := .next s.tapTurn.endDrain

/-! ### Which row a request belongs to -/

/-- Is the request a write to a register, with data, for which `f` holds? -/
def writesTo (f : Reg → Nat → Bool) (q : LathReq) : Bool :=
  q.write && match regOf q.addr.toNat with
    | some r => f r q.data.toNat
    | none => false

/-- A SEM_CMD write with an OP. -/
def rowSem (op : Nat) : LathReq → Bool := writesTo fun r d => r == .semCmd && bits d 1 0 == op
/-- An ERR_LOG_POP write that removes entries, or does nothing. -/
def rowPop : LathReq → Bool := writesTo fun r d => r == .errPop && (!bit d 8 || bits d 7 0 != 0)
/-- An ERR_LOG_POP write with CLROVF 1. -/
def rowClrovf : LathReq → Bool := writesTo fun r d => r == .errPop && bit d 8
/-- An ET_CMD write. -/
def rowEt (ops : List Nat) : LathReq → Bool := writesTo fun r d => r == .etCmd && ops.contains (bits d 1 0)
/-- A write to one register. -/
def rowReg (x : Reg) : LathReq → Bool := writesTo fun r _ => r == x
/-- A write to the Scaffold window. -/
def rowWindow : LathReq → Bool := writesTo fun r _ => match r with
  | .window _ => true
  | _ => false
/-- A BGRP_DEF write with ARM as given. -/
def rowDef (arm : Bool) : LathReq → Bool := writesTo fun r d => match r with
  | .bgrpDef _ => bit d 30 == arm
  | _ => false
/-- A write to a register in which some bits have a value. -/
def rowBits (x : Reg) (hi lo v : Nat) : LathReq → Bool := writesTo fun r d => r == x && bits d hi lo == v
/-- A GN_CMD write that starts, or only aborts. -/
def rowGnStart : LathReq → Bool := rowBits .gnCmd 0 0 1
def rowGnAbort : LathReq → Bool := rowBits .gnCmd 1 0 2

/-- The rows that name a write. -/
def namedRows : List (LathReq → Bool) :=
  [rowSem 0, rowSem 1, rowSem 2, rowSem 3, rowPop, rowClrovf, rowEt [0, 1, 2, 3], rowReg .ctxAlloc, rowReg .ctxFree, rowWindow,
    rowDef true, rowDef false, rowBits .routeCmd 0 0 1, rowBits .stxCmd 0 0 1, rowGnStart, rowGnAbort, rowReg .xpFold]
  ++ (List.range 6).map (fun op => rowBits .imgCmd 2 0 op)
  ++ [rowBits .pwrCmd 1 0 0, rowBits .pwrCmd 1 0 1, rowBits .pwrCmd 1 0 2, rowReg .pwrBayoff, rowBits .spareCmd 1 0 0,
    rowBits .spareCmd 1 0 1]
  ++ (List.range 6).map fun op => rowBits .dbgCmd 2 0 op

/-- A write that no other row of the table names: every other register, reserved OPs, unoccupied addresses. -/
def rowOther (q : LathReq) : Bool := q.write && !namedRows.any fun f => f q

/-! ### The rows -/

/-- LATH_READ (R258, R261). -/
def execLathRead (p : Port) (s : State) : Host.Outcome State Fault Refusal := s.lathRow p (fun q => !q.write) noEnv
/-- REGISTER_WRITE (R261). -/
def execRegisterWrite (p : Port) (s : State) : Host.Outcome State Fault Refusal := s.lathRow p rowOther noEnv
/-- SEM_QUERY (R265) -/
def execSemQuery (p : Port) (s : State) : Host.Outcome State Fault Refusal := s.lathRow p (rowSem 0) noEnv
/-- SEM_ACQUIRE (R265) -/
def execSemAcquire (p : Port) (s : State) : Host.Outcome State Fault Refusal := s.lathRow p (rowSem 1) noEnv
/-- SEM_RELEASE (R265) -/
def execSemRelease (p : Port) (s : State) : Host.Outcome State Fault Refusal := s.lathRow p (rowSem 2) noEnv
/-- SEM_TAKE (R265) -/
def execSemTake (p : Port) (s : State) : Host.Outcome State Fault Refusal := s.lathRow p (rowSem 3) noEnv
/-- ERR_LOG_POP (R271) -/
def execErrLogPop (p : Port) (s : State) : Host.Outcome State Fault Refusal := s.lathRow p rowPop noEnv
/-- ERR_LOG_CLROVF (R271) -/
def execErrLogClrovf (p : Port) (s : State) : Host.Outcome State Fault Refusal := s.lathRow p rowClrovf noEnv
/-- ET_CLEAR (R114) -/
def execEtClear (p : Port) (s : State) : Host.Outcome State Fault Refusal := s.lathRow p (rowEt [1]) noEnv
/-- ET_LOAD (R114) -/
def execEtLoad (p : Port) (s : State) : Host.Outcome State Fault Refusal := s.lathRow p (rowEt [2]) noEnv
/-- ET_CMD_NOP (R114) -/
def execEtCmdNop (p : Port) (s : State) : Host.Outcome State Fault Refusal := s.lathRow p (rowEt [0, 3]) noEnv
/-- CTX_ALLOC (R122) -/
def execCtxAlloc (p : Port) (s : State) : Host.Outcome State Fault Refusal := s.lathRow p (rowReg .ctxAlloc) noEnv
/-- CTX_FREE (R124) -/
def execCtxFree (p : Port) (s : State) : Host.Outcome State Fault Refusal := s.lathRow p (rowReg .ctxFree) noEnv
/-- SCAFFOLD_WINDOW_WRITE (R126) -/
def execScaffoldWindowWrite (p : Port) (s : State) : Host.Outcome State Fault Refusal := s.lathRow p rowWindow noEnv
/-- BGRP_ARM (R132) -/
def execBgrpArm (p : Port) (s : State) : Host.Outcome State Fault Refusal := s.lathRow p (rowDef true) noEnv
/-- BGRP_DISARM (R132) -/
def execBgrpDisarm (p : Port) (s : State) : Host.Outcome State Fault Refusal := s.lathRow p (rowDef false) noEnv
/-- ROUTE_GO (R195) -/
def execRouteGo (p : Port) (s : State) : Host.Outcome State Fault Refusal := s.lathRow p (rowBits .routeCmd 0 0 1) noEnv
/-- STX_GO (R201) -/
def execStxGo (p : Port) (s : State) : Host.Outcome State Fault Refusal := s.lathRow p (rowBits .stxCmd 0 0 1) noEnv
/-- GN_START (R215) -/
def execGnStart (p : Port) (s : State) : Host.Outcome State Fault Refusal := s.lathRow p rowGnStart noEnv
/-- GN_ABORT (R220) -/
def execGnAbort (p : Port) (s : State) : Host.Outcome State Fault Refusal := s.lathRow p rowGnAbort noEnv
/-- XP_FOLD_ARM (R225) -/
def execXpFoldArm (p : Port) (s : State) : Host.Outcome State Fault Refusal := s.lathRow p (rowBits .xpFold 51 51 1) noEnv
/-- XP_FOLD_DISARM (R225) -/
def execXpFoldDisarm (p : Port) (s : State) : Host.Outcome State Fault Refusal := s.lathRow p (rowBits .xpFold 51 51 0) noEnv
/-- RESTART_WING (R302) -/
def execRestartWing (p : Port) (env : StartEnv) (s : State) : Host.Outcome State Fault Refusal :=
  s.lathRow p (rowBits .imgCmd 2 0 1) env
/-- The NVM answers the selection record that a command of IMG_CMD programs (R295, R299). -/
def selEnv (ok : Bool) : StartEnv := { noEnv with selectionOk := ok }
/-- COMMIT (R301) -/
def execCommit (c : SelCmd) (s : State) : Host.Outcome State Fault Refusal :=
  s.lathRow c.port (rowBits .imgCmd 2 0 2) (selEnv c.written)
/-- PROGRAM (R300) -/
def execProgram (p : Port) (s : State) : Host.Outcome State Fault Refusal := s.lathRow p (rowBits .imgCmd 2 0 3) noEnv
/-- RETEST (R299) -/
def execRetest (c : SelCmd) (s : State) : Host.Outcome State Fault Refusal :=
  s.lathRow c.port (rowBits .imgCmd 2 0 4) (selEnv c.written)
/-- RESPEED (R299) -/
def execRespeed (c : SelCmd) (s : State) : Host.Outcome State Fault Refusal :=
  s.lathRow c.port (rowBits .imgCmd 2 0 5) (selEnv c.written)
/-- IMG_CMD_NONE (R299) -/
def execImgCmdNone (p : Port) (s : State) : Host.Outcome State Fault Refusal := s.lathRow p (rowBits .imgCmd 2 0 0) noEnv
/-- PWR_STOP (R313) -/
def execPwrStop (p : Port) (s : State) : Host.Outcome State Fault Refusal := s.lathRow p (rowBits .pwrCmd 1 0 1) noEnv
/-- PWR_WARMRESET (R327) -/
def execPwrWarmreset (p : Port) (s : State) : Host.Outcome State Fault Refusal := s.lathRow p (rowBits .pwrCmd 1 0 2) noEnv
/-- PWR_CMD_NONE (R327) -/
def execPwrCmdNone (p : Port) (s : State) : Host.Outcome State Fault Refusal := s.lathRow p (rowBits .pwrCmd 1 0 0) noEnv
/-- PWR_BAYOFF (R312) -/
def execPwrBayoff (p : Port) (s : State) : Host.Outcome State Fault Refusal := s.lathRow p (rowReg .pwrBayoff) noEnv
/-- SPARE_CMD_RETIRE (R346) -/
def execSpareCmdRetire (p : Port) (s : State) : Host.Outcome State Fault Refusal := s.lathRow p (rowBits .spareCmd 1 0 1) noEnv
/-- SPARE_CMD_NONE (R345) -/
def execSpareCmdNone (p : Port) (s : State) : Host.Outcome State Fault Refusal := s.lathRow p (rowBits .spareCmd 1 0 0) noEnv
/-- DBG_NONE (R359) -/
def execDbgNone (p : Port) (s : State) : Host.Outcome State Fault Refusal := s.lathRow p (rowBits .dbgCmd 2 0 0) noEnv
/-- SETLEVEL (R359) -/
def execSetlevel (p : Port) (s : State) : Host.Outcome State Fault Refusal := s.lathRow p (rowBits .dbgCmd 2 0 1) noEnv
/-- CHALLENGE (R360) -/
def execChallenge (p : Port) (s : State) : Host.Outcome State Fault Refusal := s.lathRow p (rowBits .dbgCmd 2 0 2) noEnv
/-- RESPOND (R360) -/
def execRespond (p : Port) (s : State) : Host.Outcome State Fault Refusal := s.lathRow p (rowBits .dbgCmd 2 0 3) noEnv
/-- ADVANCE (R361) -/
def execAdvance (p : Port) (s : State) : Host.Outcome State Fault Refusal := s.lathRow p (rowBits .dbgCmd 2 0 4) noEnv
/-- CANCEL (R359) -/
def execCancel (p : Port) (s : State) : Host.Outcome State Fault Refusal := s.lathRow p (rowBits .dbgCmd 2 0 5) noEnv

/-- ERROR_LOG_ENTRY_TRANSFER: the oldest queued entry crosses to the ring, or counts in OVF (R268, R272). -/
def execErrorLogEntryTransfer (s : State) : Host.Outcome State Fault Refusal :=
  match s.log.queue with
  | [] => .next s
  | e :: rest =>
    if s.pwr.stopped then .next s
    else .next (({ s with log := { s.log with queue := rest } } : State).logRing e)

/-- REGACC: one register access through the TAP, which executes at once unless a Lath request is ready, and else waits (R355,
R365). -/
def execRegacc (addr : W32) (write : Bool) (data : W64) (env : StartEnv) (s : State) : Host.Outcome State Fault Refusal :=
  if s.tapHolds 0x12 && s.pwr.phase.lathOpen then
    .next (State.tapTurn { s with tap := { s.tap with held := s.tap.held ++ [⟨addr, write, data, env⟩] } })
  else .next s

end Sys2Proof.Machine
end

