-- ==== Sys2Proof/Machine/Dispatch.lean ====
section
/-! DEFINITION. One arm for each command: a direct call of its meaning. -/

namespace Sys2Proof.Machine

/-- The effect of a command on everything but the queue. -/
def exec (i : Instr) (s : State) : Host.Outcome State Fault Refusal :=
  match i with
  | .siHeader bay hdr => Sys2Proof.Machine.execSiHeader bay hdr s
  | .siBeat bay tag data => Sys2Proof.Machine.execSiBeat bay tag data s
  | .siLast bay tag ovf data => Sys2Proof.Machine.execSiLast bay tag ovf data s
  | .siReservedKind bay tag => Sys2Proof.Machine.execSiReservedKind bay tag s
  | .beatCreditGrant bay tag n => Sys2Proof.Machine.execBeatCreditGrant bay tag n s
  | .tileAcceptance bay slot => Sys2Proof.Machine.execTileAcceptance bay slot s
  | .argumentRead bay slot => Sys2Proof.Machine.execArgumentRead bay slot s
  | .tileAdmission bay => Sys2Proof.Machine.execTileAdmission bay s
  | .issueGroup bay => Sys2Proof.Machine.execIssueGroup bay s
  | .mortarRunAdd unit => Sys2Proof.Machine.execMortarRunAdd unit s
  | .tileRetirement bay => Sys2Proof.Machine.execTileRetirement bay s
  | .contextWriteBack bay => Sys2Proof.Machine.execContextWriteBack bay s
  | .soTransfer bay => Sys2Proof.Machine.execSoTransfer bay s
  | .memoryWriteAck port => Sys2Proof.Machine.execMemoryWriteAck port s
  | .memoryReadResponse port target data => Sys2Proof.Machine.execMemoryReadResponse port target data s
  | .bondTreeMerge g ctx level node => Sys2Proof.Machine.execBondTreeMerge g ctx level node s
  | .bondStoreSpill row level node slot => Sys2Proof.Machine.execBondStoreSpill row level node slot s
  | .spillReturn row level node => Sys2Proof.Machine.execSpillReturn row level node s
  | .topkMerge g ctx => Sys2Proof.Machine.execTopkMerge g ctx s
  | .droopStretch bay => Sys2Proof.Machine.execDroopStretch bay s
  | .lateriskWindow bay => Sys2Proof.Machine.execLateriskWindow bay s
  | .lathRequestTransfer port req => Sys2Proof.Machine.execLathRequestTransfer port req s
  | .lathResponseTransfer port => Sys2Proof.Machine.execLathResponseTransfer port s
  | .registerWrite port => Sys2Proof.Machine.execRegisterWrite port s
  | .lathPortReset port => Sys2Proof.Machine.execLathPortReset port s
  | .semQuery port => Sys2Proof.Machine.execSemQuery port s
  | .semAcquire port => Sys2Proof.Machine.execSemAcquire port s
  | .semRelease port => Sys2Proof.Machine.execSemRelease port s
  | .semTake port => Sys2Proof.Machine.execSemTake port s
  | .errLogPop port => Sys2Proof.Machine.execErrLogPop port s
  | .errLogClrovf port => Sys2Proof.Machine.execErrLogClrovf port s
  | .errorLogEntryTransfer => Sys2Proof.Machine.execErrorLogEntryTransfer s
  | .etClear port => Sys2Proof.Machine.execEtClear port s
  | .etLoad port => Sys2Proof.Machine.execEtLoad port s
  | .etCmdNop port => Sys2Proof.Machine.execEtCmdNop port s
  | .ctxAlloc port => Sys2Proof.Machine.execCtxAlloc port s
  | .ctxFree port => Sys2Proof.Machine.execCtxFree port s
  | .scaffoldWindowWrite port => Sys2Proof.Machine.execScaffoldWindowWrite port s
  | .bgrpArm port => Sys2Proof.Machine.execBgrpArm port s
  | .bgrpDisarm port => Sys2Proof.Machine.execBgrpDisarm port s
  | .routeGo port => Sys2Proof.Machine.execRouteGo port s
  | .routingPassDone => Sys2Proof.Machine.execRoutingPassDone s
  | .stxGo port => Sys2Proof.Machine.execStxGo port s
  | .stxPassDone => Sys2Proof.Machine.execStxPassDone s
  | .gnStart port => Sys2Proof.Machine.execGnStart port s
  | .gnAbort port => Sys2Proof.Machine.execGnAbort port s
  | .gnSummedFrame frame => Sys2Proof.Machine.execGnSummedFrame frame s
  | .xpLeafFrame frame => Sys2Proof.Machine.execXpLeafFrame frame s
  | .xpFoldFrame frame => Sys2Proof.Machine.execXpFoldFrame frame s
  | .xpStoreFrame frame => Sys2Proof.Machine.execXpStoreFrame frame s
  | .xpFrameInvalid frame complete => Sys2Proof.Machine.execXpFrameInvalid frame complete s
  | .xpFoldArm port => Sys2Proof.Machine.execXpFoldArm port s
  | .xpFoldDisarm port => Sys2Proof.Machine.execXpFoldDisarm port s
  | .restartWing port env => Sys2Proof.Machine.execRestartWing port env s
  | .commit cmd => Sys2Proof.Machine.execCommit cmd s
  | .program port => Sys2Proof.Machine.execProgram port s
  | .programDone verdict flash => Sys2Proof.Machine.execProgramDone verdict flash s
  | .retest cmd => Sys2Proof.Machine.execRetest cmd s
  | .respeed cmd => Sys2Proof.Machine.execRespeed cmd s
  | .imgCmdNone port => Sys2Proof.Machine.execImgCmdNone port s
  | .coldStart trimOk lifecycle => Sys2Proof.Machine.execColdStart trimOk lifecycle s
  | .startStepTimeout step => Sys2Proof.Machine.execStartStepTimeout step s
  | .ready => Sys2Proof.Machine.execReady s
  | .pwrStop port => Sys2Proof.Machine.execPwrStop port s
  | .pwrWarmreset port => Sys2Proof.Machine.execPwrWarmreset port s
  | .pwrCmdNone port => Sys2Proof.Machine.execPwrCmdNone port s
  | .pwrBayoff port => Sys2Proof.Machine.execPwrBayoff port s
  | .bayGate bay => Sys2Proof.Machine.execBayGate bay s
  | .stopEntrySave => Sys2Proof.Machine.execStopEntrySave s
  | .stopCommitWindow => Sys2Proof.Machine.execStopCommitWindow s
  | .stopDomainsOff => Sys2Proof.Machine.execStopDomainsOff s
  | .stopLowPower => Sys2Proof.Machine.execStopLowPower s
  | .wakeEvent millivolts => Sys2Proof.Machine.execWakeEvent millivolts s
  | .rstNAssert => Sys2Proof.Machine.execRstNAssert s
  | .vauxPowerOnTrip => Sys2Proof.Machine.execVauxPowerOnTrip s
  | .vauxPowerOnRelease => Sys2Proof.Machine.execVauxPowerOnRelease s
  | .aoBrownout => Sys2Proof.Machine.execAoBrownout s
  | .coreBrownout => Sys2Proof.Machine.execCoreBrownout s
  | .drainEnd => Sys2Proof.Machine.execDrainEnd s
  | .powerupDomainOn domain => Sys2Proof.Machine.execPowerupDomainOn domain s
  | .isolationRelease => Sys2Proof.Machine.execIsolationRelease s
  | .cellarRestore => Sys2Proof.Machine.execCellarRestore s
  | .stoppedFall env => Sys2Proof.Machine.execStoppedFall env s
  | .patrolVector evt => Sys2Proof.Machine.execPatrolVector evt s
  | .patrolConfirm bay lane row stage element outcome => Sys2Proof.Machine.execPatrolConfirm bay lane row stage element outcome s
  | .spareMapping bay => Sys2Proof.Machine.execSpareMapping bay s
  | .bankCopyDone => Sys2Proof.Machine.execBankCopyDone s
  | .spareBayPrepared west passed => Sys2Proof.Machine.execSpareBayPrepared west passed s
  | .spareMapNvmWrite ok => Sys2Proof.Machine.execSpareMapNvmWrite ok s
  | .spareCmdRetire port => Sys2Proof.Machine.execSpareCmdRetire port s
  | .spareCmdNone port => Sys2Proof.Machine.execSpareCmdNone port s
  | .eccloss site => Sys2Proof.Machine.execEccloss site s
  | .dbgNone port => Sys2Proof.Machine.execDbgNone port s
  | .setlevel port => Sys2Proof.Machine.execSetlevel port s
  | .challenge port => Sys2Proof.Machine.execChallenge port s
  | .respond port => Sys2Proof.Machine.execRespond port s
  | .advance port => Sys2Proof.Machine.execAdvance port s
  | .cancel port => Sys2Proof.Machine.execCancel port s
  | .gatehouseChallenge nonce => Sys2Proof.Machine.execGatehouseChallenge nonce s
  | .gatehouseAnswer grant reason fuseOk => Sys2Proof.Machine.execGatehouseAnswer grant reason fuseOk s
  | .gatehouseTimeout => Sys2Proof.Machine.execGatehouseTimeout s
  | .tapTestLogicReset => Sys2Proof.Machine.execTapTestLogicReset s
  | .tapUpdateIr opcode => Sys2Proof.Machine.execTapUpdateIr opcode s
  | .regacc addr write data env => Sys2Proof.Machine.execRegacc addr write data env s
  | .logread index => Sys2Proof.Machine.execLogread index s
  | .coretrace core => Sys2Proof.Machine.execCoretrace core s
  | .coredbgStatus core => Sys2Proof.Machine.execCoredbgStatus core s
  | .coredbgHalt core => Sys2Proof.Machine.execCoredbgHalt core s
  | .coredbgStep core => Sys2Proof.Machine.execCoredbgStep core s
  | .coredbgResume core => Sys2Proof.Machine.execCoredbgResume core s
  | .coredbgRead core word => Sys2Proof.Machine.execCoredbgRead core word s
  | .coredbgWrite core word data => Sys2Proof.Machine.execCoredbgWrite core word data s
  | .lathRead port => Sys2Proof.Machine.execLathRead port s
  | .lathPortResetRelease port => Sys2Proof.Machine.execLathPortResetRelease port s
  | .rstNRelease => Sys2Proof.Machine.execRstNRelease s
  | .coreBrownoutRelease => Sys2Proof.Machine.execCoreBrownoutRelease s
  | .bayPowerRestored bay => Sys2Proof.Machine.execBayPowerRestored bay s

end Sys2Proof.Machine
end

