-- ==== Sys2Proof/Safety.lean ====
section
/-! DEFINITION. What the statements speak of: the invariant of every state that the block can reach, the states in which a
Lath request executes and the request that a row executes, and the parts of the state that a command leaves alone. -/

namespace Sys2Proof.Machine

/-! ### The invariant -/

/-- Is STOPPED 1 in this phase (R5, R314, R320, R323)? -/
def Phase.isStopped : Phase → Bool
  | .noAux | .trim | .powerUp _ | .released _ | .warmHold | .committed | .off | .stop => true
  | .run | .drain _ | .entering _ | .saved => false

/-- There are 4 memory ports, and each holds at most 64 writes (R28, R29). -/
def portsFit (q : List (List MemWrite)) : Prop := q.length = 4 ∧ ∀ x ∈ q, x.length ≤ 64

/-- The queues of one Lath port hold at most 8 entries each (R256, R257). -/
def LathPort.fits (x : LathPort) : Prop := x.reqs.length ≤ 8 ∧ x.rsps.length ≤ 8

/-- The sparse stores are in canonical form. -/
structure State.Canonical (s : State) : Prop where
  mem : Memory.wf s.mem = true
  nvm : swf nvmDefault s.nvm = true
  ctxs : swf RowCtx.zero s.ctxs = true
  tags : swf (0 : W32) s.tags = true
  totals : swf Total.zero s.totals = true
  groups : swf Bgrp.zero s.groups = true

/-- What every step keeps: 32 bays, 4 memory ports and 10 cores (R13, R25, R28); the queues within their sizes (R29, R256, R257,
R268, R272); the stores canonical; a legal debug level (R357); and STOPPED as the phase has it (R5). -/
structure State.Inv (s : State) : Prop where
  bays : s.bays.length = 32
  ports : portsFit s.mpq
  cores : s.cores.length = 10
  lathA : s.lathA.fits
  lathB : s.lathB.fits
  queue : s.log.queue.length ≤ 32
  ring : s.log.ring.length ≤ 128
  canonical : s.Canonical
  level : s.dbg.level.toNat ≤ 2
  stopped : s.pwr.stopped = s.pwr.phase.isStopped

/-! ### Writes before the memory ports -/

/-- The write `w` has entered the queue of a port that had room, or waits with its agent, since no port had any (R28, R29). -/
def State.Sends (s t : State) (w : MemWrite) : Prop :=
  (∃ p, p < 4 ∧ (s.mpq.getD p []).length < 64 ∧ t.mpq = s.mpq.modify p (fun l => l ++ [w]) ∧ t.mpWait = s.mpWait)
  ∨ ((∀ p, p < 4 → 64 ≤ (s.mpq.getD p []).length) ∧ t.mpq = s.mpq ∧ ∃ home, t.mpWait = s.mpWait ++ [(home, w)])

/-- The writes `ws` stand before the memory ports beside those that stood there, and no others (R28). -/
def State.Puts (s t : State) (ws : List MemWrite) : Prop := t.writes.Perm (s.writes ++ ws)

/-! ### Lath requests -/

/-- The request `q` is at the head of port `p`'s queue, the block is in Run, the response has room (R256, R257), and no request
of the other port goes first (R32). No access of the TAP waits, whose effect would follow that of the request (R355). -/
structure State.Serves (s : State) (p : Port) (q : LathReq) : Prop where
  run : s.pwr.phase = .run
  awake : s.pwr.stopped = false
  head : (s.lath p).reqs.head? = some q
  room : (s.lath p).rsps.length < 8
  turn : s.tie = true → s.first = p
  alone : s.tap.held = []

/-- The request writes register `r` (R258, R261). -/
structure Writes (q : LathReq) (r : Reg) : Prop where
  write : q.write = true
  aligned : q.addr.toNat % 8 = 0
  reg : regOf q.addr.toNat = some r

/-- The request writes the register at address `a`. -/
structure WritesAt (q : LathReq) (a : W32) : Prop where
  write : q.write = true
  addr : q.addr = a

/-- The port's requester holds the semaphore under the current generation (R261, R264), and no full start makes its write
wait (R294). -/
structure State.Holds (s : State) (p : Port) (q : LathReq) : Prop where
  owner : s.sem.owner = some p
  gen : q.gen = s.sem.copy
  started : s.fullStart = false

/-- The request of port `p` has executed with OK and the effect `f` on the rest of the state. -/
def State.executed (s : State) (p : Port) (q : LathReq) (f : State → State) : State :=
  (f (s.popped p)).respond p q codeOK 0

/-- The request of port `p` has completed with a code other than OK or BUSY: nothing but its entry, with the Lath cause of
the code, and its response (R262, R270). -/
def State.denied (s : State) (p : Port) (q : LathReq) (code aux : Nat) : State :=
  ((s.popped p).logE (lathCause code) (portKind p) 0 0 code s.sem.copy.toNat q.addr.toNat aux).respond p q code 0

/-- The request of port `p` has completed with BUSY, which has no effect and makes no entry (R260, R262). -/
def State.busied (s : State) (p : Port) (q : LathReq) : State := (s.popped p).respond p q codeBUSY 0

end Sys2Proof.Machine
end

