-- ==== Sys2Proof/Certificates/Slice0/Obligations.lean ====
section
/-! DEFINITION. The statements. Each docstring names the rules of spec/ that the statement formalises. -/

section Slice0
open Sys2Proof Sys2Proof.Machine

/-! ### The block as a whole -/

/-- A step takes the command at the front of the queue and runs it on the state with the rest of the queue; on an empty
queue the block idles (notes/assumptions/17: the model's choice), unless a register access of the TAP waits for an ac in which no
Lath request executes: that access executes then (R355; that it is this step is notes/assumptions/166, the model's choice). -/
def Obligations.StepRunsFrontCommand : Prop :=
  (∀ (c : Instr) (rest : List Instr) (s : State), s.pending = c :: rest → step s = exec c { s with pending := rest })
  ∧ ∀ s : State, s.pending = [] →
    let ready (o : Port) := (s.lath o).reqs ≠ [] ∧ (s.lath o).rsps.length < 8
    (s.tap.held = [] → step s = .next s)
    ∧ ((∃ o, ready o) → s.pwr.phase = .run → s.pwr.stopped = false → step s = .next s)
    ∧ (∀ x, s.tap.held = [x] → (∀ o, ¬ ready o) → s.pwr.phase = .run → s.pwr.stopped = false → s.tap.ir = 0x12 →
      step s = exec (.regacc x.addr x.write x.data x.env) { s with tap := { s.tap with held := [] } })

/-- Every command whose operands lie in the ranges of the manual answers a next state, from every state: none is refused
and none faults. That a command whose condition does not hold leaves the state as it is (notes/assumptions/18) and the ranges of
the operands (notes/assumptions/19) are the model's choices. -/
def Obligations.WellFormedCommandsComplete : Prop :=
  ∀ (c : Instr) (s : State), c.wf = true → ∃ t, exec c s = .next t

/-- The state after reset has the invariant that every step keeps. -/
def Obligations.ResetMeetsInvariant : Prop := State.reset.Inv

/-- From every state with the invariant, a step that answers a next state answers one with the invariant: the numbers of
bays, ports and cores (R13, R25, R28), the queues of R256, R257, R268 and R272 within their sizes, every sparse store in its
canonical form, a legal debug level (R357), and STOPPED as the phase has it (R5). -/
def Obligations.EveryStepKeepsInvariant : Prop :=
  ∀ s t : State, s.Inv → step s = .next t → t.Inv

/-- What the reset columns give at Cold: the registers that read as zero, and those that do not. That LEVEL of WAKE_STATUS, which
follows WAKE_SENSE (R327), reads 0 rests on the 0 mV that the model takes at that pin (notes/assumptions/2: the model's choice). -/
def Obligations.ResetRegisterValues : Prop :=
  (∀ b, ∀ r ∈ [Reg.blkStatus, .irqStatus, .semOwner, .errHead, .errOvf, .nanStatus, .nanWhere, .nanElement, .nanCount, .pwrBayoff,
      .wakeStatus, .srSeed, .srStep, .argsetBase, .routeSrc, .routeDst, .routeCnt, .routeCtl, .routeStatus, .stxSrc, .stxDst,
      .stxStatus, .gnCtl, .gnTags, .gnGate, .gnArgdst, .gnStatus, .gnResult, .gnVote, .optStep, .xpCfg, .xpAper 0, .xpAper 1,
      .xpRemote 0, .xpRemote 1, .xpFold, .xpFoldStatus, .xpDrops, .hodWindow 0, .hodWindow 31, .hodDroop 0, .hodDroop 31,
      .droopTotal, .chvSel, .ctxBase, .ctxCount, .bsStatus, .bsSpillBase, .bsSpillSize, .bsReserved, .etSel, .etWord 4, .etStatus,
      .etLoad, .patrolStatus, .dbgStatus, .dbgChal 0, .dbgResp 7, .dbgViewsel], State.reset.readReg b r = 0)
  ∧ (∀ b, State.reset.readReg b .idBlock = 0x24260)
  ∧ State.reset.readReg false .lathSelf = 0 ∧ State.reset.readReg true .lathSelf = 1
  ∧ (∀ b, State.reset.readReg b .droopCtl = 4) ∧ (∀ b, State.reset.readReg b .wakeCtl = 8)
  ∧ (∀ b, State.reset.readReg b .patrolCtl = 41)
  ∧ (∀ i, State.reset.total i = Total.zero) ∧ (∀ c, State.reset.ctx c = RowCtx.zero ∧ State.reset.allocated c = false)
  ∧ (∀ n, (State.reset.bay n).hdrCredits = 64 ∧ (State.reset.bay n).next = 0)
  ∧ State.reset.pwr.stopped = true ∧ State.reset.pwr.domains = 0 ∧ State.reset.pending = []

/-- The checks 1 to 5 of R261 on the requests of REGISTER_WRITE and LATH_READ, with the entry of R262 and no other effect. During
a start or a RESUME a guarded write completes with BUSY (R294), and does so before its GEN and OWNER are checked
(notes/assumptions/108: that order is the model's choice). -/
def Obligations.RefusedLathRequests : Prop :=
  ∀ (p : Port) (q : LathReq) (s : State), s.Serves p q →
    (q.write = true → regOf q.addr.toNat = none →
      exec (.registerWrite p) s = .next (s.denied p q codeADDR q.data.toNat))
    ∧ (q.write = false → regOf q.addr.toNat = none → exec (.lathRead p) s = .next (s.denied p q codeADDR 0))
    ∧ (q.write = false → (regOf q.addr.toNat).isSome = true → q.addr.toNat % 8 ≠ 0 →
      exec (.lathRead p) s = .next (s.denied p q codePROT 0))
    ∧ (rowOther q = true → (regOf q.addr.toNat).isSome = true → q.addr.toNat % 8 ≠ 0 →
      exec (.registerWrite p) s = .next (s.denied p q codePROT q.data.toNat))
    ∧ (∀ r, Writes q r → (r = .dbgViewsel ∧ s.dbg.level = 0) ∨ (∃ k, r = .tableView k ∧ s.dbg.level = 0)
        ∨ (∃ k, r = .coreView k ∧ s.dbg.level.toNat < 2) →
      exec (.registerWrite p) s = .next (s.denied p q codePROT q.data.toNat))
    ∧ (∀ r, rowOther q = true → Writes q r → guarded q.addr.toNat r = true →
      (s.fullStart = true → exec (.registerWrite p) s = .next (s.busied p q))
      ∧ (s.fullStart = false → q.gen ≠ s.sem.copy → exec (.registerWrite p) s = .next (s.denied p q codeSTALE q.gen.toNat))
      ∧ (s.fullStart = false → q.gen = s.sem.copy → s.sem.owner ≠ some p →
        exec (.registerWrite p) s = .next (s.denied p q codeDENY q.data.toNat)))

/-! ### Lath ports, semaphore and error log -/

/-- SEM_CMD (R265): every row of its table, with SEM_OWNER after the write as response data. -/
def Obligations.SemaphoreCommands : Prop :=
  ∀ (p : Port) (q : LathReq) (s : State), s.Serves p q → WritesAt q 0x1008#32 →
    let op := q.data.toNat % 4
    let granted (o : Option Port) (y : Sem) : State :=
      let y : Sem := { y with owner := o, gen := s.sem.copy + 1, copy := s.sem.copy + 1 }
      ({ s.popped p with sem := y } : State).respond p q codeOK y.word
    let unchanged (code : Nat) : State := (s.popped p).respond p q code s.sem.word
    let stale : State := ((s.popped p).logE 0x33 (portKind p) 0 0 codeSTALE s.sem.copy.toNat 0x1008 q.gen.toNat).respond p q
      codeSTALE s.sem.word
    (op = 0 → exec (.semQuery p) s = .next (unchanged codeOK))
    ∧ (op = 1 → s.sem.owner = none → exec (.semAcquire p) s = .next (granted (some p) s.sem))
    ∧ (op = 1 → s.sem.owner = some p → exec (.semAcquire p) s = .next (unchanged codeOK))
    ∧ (op = 1 → s.sem.owner ≠ none → s.sem.owner ≠ some p → exec (.semAcquire p) s = .next (unchanged codeDENY))
    ∧ (op = 2 → q.gen ≠ s.sem.copy → exec (.semRelease p) s = .next stale)
    ∧ (op = 2 → q.gen = s.sem.copy → s.sem.owner ≠ some p → exec (.semRelease p) s = .next (unchanged codeDENY))
    ∧ (op = 2 → q.gen = s.sem.copy → s.sem.owner = some p → exec (.semRelease p) s = .next (granted none s.sem))
    ∧ (op = 3 → q.gen ≠ s.sem.copy → exec (.semTake p) s = .next stale)
    ∧ (op = 3 → q.gen = s.sem.copy → exec (.semTake p) s = .next (granted (some p) { s.sem with
        lostA := if s.sem.owner = some .a ∧ p = .b then true else s.sem.lostA
        lostB := if s.sem.owner = some .b ∧ p = .a then true else s.sem.lostB }))

/-- LATH_REQUEST_TRANSFER and LATH_RESPONSE_TRANSFER (R256): a request enters the port's queue of 8 while it has room, the
oldest response leaves, and nothing else changes, but that an access of the TAP that waits may execute in such an ac
(R355, notes/assumptions/166). When requests of both ports are ready, the port that was not served at the
last such tie goes first, Lath A after a reset; any other request leaves that order alone (R32, shown on reads). That a tie is two
requests at the heads whose responses have room, and that the row of the port that does not go first leaves the state as it is, is
the model's choice (notes/assumptions/21). -/
def Obligations.LathTransfers : Prop :=
  (∀ (p : Port) (s : State), s.pwr.phase = .run → s.pwr.stopped = false → s.testing = false → (s.lath p).up = true →
    (s.tap.held = [] ∨ ∃ o, (s.lath o).reqs ≠ [] ∧ (s.lath o).rsps.length < 8) →
    (∀ q, (s.lath p).reqs.length < 8 →
      exec (.lathRequestTransfer p q) s = .next (s.setLath p { s.lath p with reqs := (s.lath p).reqs ++ [q] }))
    ∧ (∀ q, 8 ≤ (s.lath p).reqs.length → exec (.lathRequestTransfer p q) s = .next s)
    ∧ (∀ r rest, (s.lath p).rsps = r :: rest →
      exec (.lathResponseTransfer p) s = .next (s.setLath p { s.lath p with rsps := rest })))
  ∧ State.reset.first = .a
  ∧ ∀ (p o : Port) (q : LathReq) (s : State), s.pwr.phase = .run → s.pwr.stopped = false → p ≠ o →
    (s.lath p).reqs.head? = some q → q.write = false → (s.lath p).rsps.length < 8 →
    let tied := (s.lath o).reqs ≠ [] ∧ (s.lath o).rsps.length < 8
    (tied → s.first = o → exec (.lathRead p) s = .next s)
    ∧ (tied → s.first = p → ∃ t, exec (.lathRead p) s = .next t ∧ t.first = o)
    ∧ (¬ tied → s.tap.held = [] → ∃ t, exec (.lathRead p) s = .next t ∧ t.first = s.first)

/-- LATH_PORT_RESET and its release (R267, R325, R365): the port's requests and responses are discarded, a grant that it holds is
released with one SEMRESET entry and GEN advances, a challenge of the port is cancelled, the tiles of every bay that are accepted
end with one CTXLOST entry each, the Scaffold, the totals and the bond groups return to zero with their registers, and the other
port keeps its queues. The records that those tiles have left before the memory ports go too, and every other write stays. An
access of REGACC that waits executes behind the reset (R355, notes/assumptions/166: the model's choice of the step). While STOPPED
is 1, or under EXTEST or INTEST (R354), only the pin's level is seen (R321; that it is seen then is the model's choice,
notes/assumptions/101). That terms which came from XP stay is the model's choice (notes/assumptions/114). -/
def Obligations.LathPortResets : Prop :=
  ∀ (p : Port) (s : State),
    let kept := s.tap.held = [] ∨ ∃ o, o ≠ p ∧ s.ready o = true
    (∀ x, (s.portReset p).tap.held = [x] → (s.portReset p).tap.ir = 0x12 → (s.portReset p).pwr.phase = .run →
      (s.portReset p).pwr.stopped = false → (∀ o, (s.portReset p).ready o = false) →
      ∀ u, exec (.regacc x.addr x.write x.data x.env) { s.portReset p with tap := { (s.portReset p).tap with held := [] } } = .next u →
      exec (.lathPortReset p) s = .next u)
    ∧ (s.pwr.stopped = true ∨ s.testing = true → kept →
      exec (.lathPortReset p) s = .next (s.setLath p { s.lath p with up := false }))
    ∧ (s.pwr.stopped = false → s.testing = false → kept → s.sem.copy = s.sem.gen → s.bays.length = 32 →
      let live (u : Tile) : Bool := u.status == .accepted || u.status == .admitted
      let lost := (List.range 32).flatMap fun n => ((s.bay n).tiles.filter live).map fun u => (n, u)
      let told := lost.foldl (fun (x : State) y =>
        x.logE 0x62 0 y.1 0 0 y.2.seq.toNat y.2.ctxBase.toNat y.2.chain.toNat) s
      let asked := s.dbg.state = 2 ∧ s.dbg.source = (match p with | .a => 0 | .b => 1)
      ∃ t, exec (.lathPortReset p) s = .next t
        ∧ t.lath p = ⟨[], [], false⟩ ∧ (∀ o, o ≠ p → t.lath o = s.lath o)
        ∧ (s.sem.owner = some p → t.sem = { s.sem with owner := none, gen := s.sem.gen + 1, copy := s.sem.gen + 1 }
          ∧ t.log = (told.logE 0x35 (portKind p) 0 0 0 (s.sem.gen + 1).toNat 0 s.sem.gen.toNat).log)
        ∧ (s.sem.owner ≠ some p → t.sem = s.sem ∧ t.log = told.log)
        ∧ (asked → t.dbg = { s.dbg with state := 0, result := 3, chal := 0, resp := 0 }) ∧ (¬ asked → t.dbg = s.dbg)
        ∧ (∀ c, t.ctx c = RowCtx.zero ∧ t.allocated c = false) ∧ t.tags = [] ∧ t.poison = [] ∧ (∀ i, t.total i = Total.zero)
        ∧ (∀ g, t.group g = Bgrp.zero) ∧ t.store = [] ∧ t.formed = [] ∧ t.spilled = [] ∧ t.topks = []
        ∧ t.runs = s.runs.filter (fun r => r.source == 32)
        ∧ t.ctl = { s.ctl with etSel := 0, etLoad := 0, ctxBase := 0, spillBase := 0, spillSize := 0 }
        ∧ (∀ n, (t.bay n).act = none ∧ (t.bay n).held = none ∧ (t.bay n).lanes = [] ∧ (t.bay n).resume = none
          ∧ (∀ u ∈ (t.bay n).tiles, live u = false)
          ∧ ∀ u ∈ (s.bay n).tiles, live u = true → n < 32 → ∃ w ∈ (t.bay n).tiles, w.seq = u.seq ∧ w.status = .refused 0x62 none)
        ∧ (s.mpq.length = 4 →
          t.writes.Perm (s.writes.filter fun w => lost.all fun y => w.writer != .record y.1 y.2.seq))
        ∧ t = { s with
            mpq := t.mpq, mpWait := t.mpWait
            lathA := t.lathA, lathB := t.lathB, sem := t.sem, log := t.log, dbg := t.dbg, bays := t.bays, ctxs := t.ctxs
            alloc := t.alloc, tags := t.tags, poison := t.poison, totals := t.totals, runs := t.runs, groups := t.groups
            store := t.store, formed := t.formed, spilled := t.spilled, topks := t.topks, ctl := t.ctl })
    ∧ exec (.lathPortResetRelease p) s = .next (s.setLath p { s.lath p with up := true })

/-- ERR_LOG_POP and ERR_LOG_CLROVF (R271): the N oldest entries leave, HEAD advances modulo 128, CLROVF clears the counter,
and N > COUNT completes with PROT. -/
def Obligations.ErrorLogPop : Prop :=
  ∀ (p : Port) (q : LathReq) (s : State), s.Serves p q → WritesAt q 0x2010#32 →
    let n := q.data.toNat % 256
    let clear := q.data.toNat.testBit 8
    let removed (x : ErrLog) : ErrLog := { x with ring := x.ring.drop n, head := x.head + BitVec.ofNat 7 n }
    (clear = false → n ≤ s.log.ring.length →
      exec (.errLogPop p) s = .next (s.executed p q fun x => { x with log := removed x.log }))
    ∧ (clear = true → n ≤ s.log.ring.length →
      exec (.errLogClrovf p) s = .next (s.executed p q fun x => { x with log := { removed x.log with ovf := 0 } }))
    ∧ (clear = false → s.log.ring.length < n → exec (.errLogPop p) s = .next (s.denied p q codePROT q.data.toNat))
    ∧ (clear = true → s.log.ring.length < n → exec (.errLogClrovf p) s = .next (s.denied p q codePROT q.data.toNat))

/-- ERROR_LOG_ENTRY_TRANSFER (R268): the oldest queued entry is written at index (HEAD + COUNT) mod 128, where the entry view
of R269 shows its two words, or counts in OVF when the ring holds 128. -/
def Obligations.ErrorLogRing : Prop :=
  ∀ (e : LogEntry) (rest : List LogEntry) (s : State), s.log.queue = e :: rest → s.pwr.stopped = false →
    (s.log.ring.length < 128 → ∃ t, exec .errorLogEntryTransfer s = .next t
      ∧ t = { s with log := { s.log with queue := rest, ring := s.log.ring ++ [e] } }
      ∧ (let i := (s.log.head.toNat + s.log.ring.length) % 128
         t.log.entryWord (2 * i) = e.w0.toNat ∧ t.log.entryWord (2 * i + 1) = e.w1.toNat))
    ∧ (s.log.ring.length = 128 → exec .errorLogEntryTransfer s =
        .next { s with log := { s.log with queue := rest, ovf := BitVec.ofNat 32 (min (s.log.ovf.toNat + 1) 0xFFFFFFFF) } })

/-- LATH_READ (R258): a read that passes checks 1 to 3 answers OK with the register's value and changes no register; a
poisoned context of the window answers DENY (R338), and the table and core views open with LEVEL (R356). A core's word is a free
value where nothing gives it, so such a read takes two of them (notes/assumptions/3). -/
def Obligations.LathReads : Prop :=
  ∀ (p : Port) (q : LathReq) (r : Reg) (s : State), s.Serves p q → q.write = false → q.addr.toNat % 8 = 0 →
    regOf q.addr.toNat = some r →
    ((∀ k, r ≠ .window k) → (∀ k, r ≠ .tableView k) → (∀ k, r ≠ .coreView k) →
      exec (.lathRead p) s = .next ((s.popped p).respond p q codeOK (s.readReg (p == .b) r)))
    ∧ (∀ k, r = .window k →
      (s.allocated (s.ctl.ctxBase.toNat + k / 4) = true → (s.ctl.ctxBase.toNat + k / 4) ∉ s.poison →
        exec (.lathRead p) s = .next ((s.popped p).respond p q codeOK
          (word64 (s.ctx (s.ctl.ctxBase.toNat + k / 4)).word (k % 4))))
      ∧ (s.allocated (s.ctl.ctxBase.toNat + k / 4) = false →
        exec (.lathRead p) s = .next ((s.popped p).respond p q codeOK 0))
      ∧ (s.allocated (s.ctl.ctxBase.toNat + k / 4) = true → (s.ctl.ctxBase.toNat + k / 4) ∈ s.poison →
        exec (.lathRead p) s = .next (s.denied p q codeDENY 0)))
    ∧ (∀ k, r = .tableView k →
      (s.dbg.level = 0 → exec (.lathRead p) s = .next (s.denied p q codePROT 0))
      ∧ (s.dbg.level ≠ 0 → exec (.lathRead p) s = .next ((s.popped p).respond p q codeOK (s.readReg (p == .b) r))))
    ∧ (∀ k, r = .coreView k →
      (s.dbg.level.toNat < 2 → exec (.lathRead p) s = .next (s.denied p q codePROT 0))
      ∧ (2 ≤ s.dbg.level.toNat → exec (.lathRead p) s = .next
        (({ s.popped p with free := s.free + 2 } : State).respond p q codeOK (s.readReg (p == .b) r))))

/-- REGISTER_WRITE (R261): a write by the owner to a register with RW fields completes with OK; the register then reads as
written, with its reserved and read-only bits zero; every other register of the list reads as before; nothing else changes, but
that a WAKE_CTL write compares WAKE_SENSE again (R318), against the voltage that stands there and with the hold band about the
new threshold (notes/assumptions/77 and 142: the model's choice). While a pass or a round runs, or a group is armed, its
registers answer BUSY (R125, R195, R199, R214). The registers whose writes have checks of their own follow: GN_GATE (R214, R260;
that its BUSY comes before GENMIX is the model's choice, notes/assumptions/155), BGRP_RANGE (R132), BGRP_XP (R222), DBG_RESP
(R359) and DBG_VIEWSEL (R363); and a bit written as 1 to NAN_COUNT or XP_DROPS clears that bit (R11, R68, R213). -/
def Obligations.RegisterWritesReadBack : Prop :=
  (let table : List (Reg × (Nat → Nat)) := [
    (.wakeCtl, fun d => d % 2 ^ 6), (.srSeed, fun d => d), (.srStep, fun d => d % 2 ^ 32), (.argsetBase, fun d => d / 2 ^ 6 * 2 ^ 6),
    (.routeSrc, fun d => d), (.routeDst, fun d => d / 2 ^ 4 % 2 ^ 44 * 2 ^ 4), (.routeCnt, fun d => d / 2 ^ 3 % 2 ^ 45 * 2 ^ 3),
    (.routeCtl, fun d => d % 2 ^ 39 + d / 2 ^ 40 * 2 ^ 40), (.stxSrc, fun d => d % 2 ^ 27 + d / 2 ^ 32 % 2 ^ 19 * 2 ^ 32),
    (.stxDst, fun d => d / 2 ^ 2 % 2 ^ 46 * 2 ^ 2), (.gnCtl, fun d => d), (.gnTags, fun d => d % 2 ^ 45),
    (.gnArgdst, fun d => d / 2 ^ 3 % 2 ^ 45 * 2 ^ 3), (.optStep, fun d => d % 2 ^ 32), (.xpCfg, fun d => d % 2 ^ 20),
    (.xpAper 0, fun d => d / 2 ^ 16 * 2 ^ 16), (.xpAper 1, fun d => d / 2 ^ 16 * 2 ^ 16), (.xpRemote 0, fun d => d % 2 ^ 48),
    (.xpRemote 1, fun d => d % 2 ^ 48), (.droopCtl, fun d => d % 2 ^ 4), (.chvSel, fun d => d % 2 ^ 13),
    (.ctxBase, fun d => d / 2 ^ 11 % 2 ^ 7 * 2 ^ 11), (.bsSpillBase, fun d => d / 2 ^ 12 * 2 ^ 12), (.bsSpillSize, fun d => d % 2 ^ 32),
    (.etSel, fun d => d % 2 ^ 14), (.etLoad, fun d => d % 2 ^ 32), (.patrolCtl, fun d => d % 2 ^ 6)]
  ∀ x ∈ table, ∀ (p : Port) (q : LathReq) (s : State), s.Serves p q → Writes q x.1 → s.Holds p q →
    s.route.busy = false → s.stx.busy = false → s.gn.state ≠ 1 → s.anyArmed = false →
    ∃ t, exec (.registerWrite p) s = .next t
      ∧ (∀ b, t.readReg b x.1 = x.2 q.data.toNat)
      ∧ (∀ b, ∀ y ∈ table, y.1 ≠ x.1 → t.readReg b y.1 = s.readReg b y.1)
      ∧ t.pwr.level = (if x.1 = .wakeCtl then
          ({ s.pwr with thresh := t.pwr.thresh, pol := t.pwr.pol } : Pwr).wakeLevel s.pwr.wakeMv else s.pwr.level)
      ∧ t = s.executed p q fun z => { z with
          pwr := { z.pwr with thresh := t.pwr.thresh, pol := t.pwr.pol, en := t.pwr.en, level := t.pwr.level }
          ctl := t.ctl
          route := { z.route with src := t.route.src, dst := t.route.dst, cnt := t.route.cnt, ctl := t.route.ctl }
          stx := { z.stx with src := t.stx.src, dst := t.stx.dst }
          gn := { z.gn with ctl := t.gn.ctl, tags := t.gn.tags, argDst := t.gn.argDst, optStep := t.gn.optStep }
          xp := { z.xp with shard := t.xp.shard, aper0 := t.xp.aper0, aper1 := t.xp.aper1, remote0 := t.xp.remote0, remote1 := t.xp.remote1 }
          spare := { z.spare with patrolEn := t.spare.patrolEn, rate := t.spare.rate, spareTest := t.spare.spareTest } })
  ∧ ∀ (p : Port) (q : LathReq) (s : State), s.Serves p q →
    let d := q.data.toNat
    let run := exec (.registerWrite p) s
    let me : BitVec 2 := match p with | .a => 0 | .b => 1
    (Writes q .gnGate → s.Holds p q →
      let mixes := d.testBit 24 = true ∧ s.img.genDiff = true ∧ s.spansWings (d % 2 ^ 12) (d / 2 ^ 12 % 2 ^ 12) = true
      (s.gn.state = 1 → run = .next (s.busied p q))
      ∧ (s.gn.state ≠ 1 → mixes → run = .next (s.denied p q codeGENMIX d))
      ∧ (s.gn.state ≠ 1 → ¬ mixes → run = .next (s.executed p q fun x =>
          { x with gn := { x.gn with gate := BitVec.ofNat 64 (d % 2 ^ 25) } })))
    ∧ (∀ g, (Writes q (.bgrpRange g) ∨ Writes q (.bgrpXp g)) → s.Holds p q →
      (g = 0 → run = .next (s.denied p q codePROT d))
      ∧ (g ≠ 0 → (s.group g).open = true → run = .next (s.busied p q))
      ∧ (g ≠ 0 → (s.group g).open = false → Writes q (.bgrpRange g) → run = .next (s.executed p q fun x =>
          x.setGroup g { s.group g with c0 := BitVec.ofNat 24 (d % 2 ^ 24), n := BitVec.ofNat 25 (d / 2 ^ 24 % 2 ^ 25) }))
      ∧ (g ≠ 0 → (s.group g).open = false → Writes q (.bgrpXp g) → run = .next (s.executed p q fun x =>
          x.setGroup g { s.group g with
            send := d.testBit 0, ownerC0 := BitVec.ofNat 24 (d / 2 ^ 8 % 2 ^ 24), ownerN := BitVec.ofNat 25 (d / 2 ^ 32 % 2 ^ 25) })))
    ∧ (∀ k, Writes q (.dbgResp k) →
      (s.dbg.state ≠ 2 ∨ s.dbg.source ≠ me → run = .next (s.denied p q codeDENY d))
      ∧ (s.dbg.state = 2 → s.dbg.source = me → ∃ t, run = .next t
        ∧ word64 t.dbg.resp.toNat k = d ∧ (∀ j, j ≠ k → word64 t.dbg.resp.toNat j = word64 s.dbg.resp.toNat j)
        ∧ t = s.executed p q fun x => { x with dbg := { x.dbg with resp := t.dbg.resp } }))
    ∧ (Writes q .dbgViewsel → s.dbg.level ≠ 0 →
      let bad := 33 < d % 2 ^ 6 ∨ 9 < d / 2 ^ 32 % 2 ^ 4
      (bad → run = .next (s.denied p q codePROT d))
      ∧ (¬ bad → run = .next (s.executed p q fun x => { x with dbg := { x.dbg with
          viewBay := BitVec.ofNat 6 (d % 2 ^ 6), rowBase := BitVec.ofNat 11 (d / 2 ^ 16 % 2 ^ 11)
          viewCore := BitVec.ofNat 4 (d / 2 ^ 32 % 2 ^ 4) } })))
    ∧ (∀ r, Writes q r → s.Holds p q →
        (r ∈ [Reg.routeSrc, .routeDst, .routeCnt, .routeCtl] ∧ s.route.busy = true)
        ∨ (r ∈ [Reg.stxSrc, .stxDst] ∧ s.stx.busy = true) ∨ (r ∈ [Reg.gnCtl, .gnTags, .gnArgdst, .optStep] ∧ s.gn.state = 1)
        ∨ (r ∈ [Reg.bsSpillBase, .bsSpillSize] ∧ ∃ g ∈ s.groups, g.2.open = true) →
      run = .next (s.busied p q))
    ∧ (Writes q .nanCount → run = .next (s.executed p q fun x =>
        { x with nan := { x.nan with count := x.nan.count &&& ~~~(BitVec.ofNat 32 d) } }))
    ∧ (Writes q .xpDrops → run = .next (s.executed p q fun x =>
        { x with xp := { x.xp with drops := x.xp.drops &&& ~~~(BitVec.ofNat 32 d) } }))

/-! ### Scaffold, bond groups and exact totals -/

/-- ET_CLEAR, ET_LOAD and ET_CMD_NOP (R114, R115). -/
def Obligations.ExactTotalCommands : Prop :=
  ∀ (p : Port) (q : LathReq) (s : State), s.Serves p q → WritesAt q 0x40038#32 → s.Holds p q →
    let op := q.data.toNat % 4
    let mode := q.data.toNat / 4 % 4
    let i := s.ctl.etSel.toNat
    let cleared : Total := { Total.zero with t := if mode = 0 then 0 else 0x7FC00000, mode := BitVec.ofNat 2 mode }
    (op = 0 ∨ op = 3 → exec (.etCmdNop p) s = .next (s.executed p q id))
    ∧ (op = 1 → mode ≠ 3 → s.totalInFlight i = false →
      exec (.etClear p) s = .next (s.executed p q fun x => x.setTotal i cleared))
    ∧ (op = 2 → mode ≠ 3 → s.totalInFlight i = false →
      exec (.etLoad p) s = .next (s.executed p q fun x => x.setTotal i (cleared.add s.ctl.etLoad)))
    ∧ (op = 1 → mode = 3 → exec (.etClear p) s = .next (s.denied p q codePROT q.data.toNat))
    ∧ (op = 2 → mode = 3 → exec (.etLoad p) s = .next (s.denied p q codePROT q.data.toNat))
    ∧ (op = 1 → mode ≠ 3 → s.totalInFlight i = true → exec (.etClear p) s = .next (s.busied p q))
    ∧ (op = 2 → mode ≠ 3 → s.totalInFlight i = true → exec (.etLoad p) s = .next (s.busied p q))

/-- CTX_ALLOC (R121 to R123): the contexts of the stripes take their initial state and their tags, and no other context
changes; a malformed range completes with PROT and a range with an allocated stripe with DENY. -/
def Obligations.ContextAllocation : Prop :=
  ∀ (p : Port) (q : LathReq) (s : State), s.Serves p q → WritesAt q 0x20000#32 → s.Holds p q → s.Canonical →
    let base := q.data.toNat % 2 ^ 18
    let n := q.data.toNat / 2 ^ 18 % 2 ^ 14
    let tag := q.data.toNat / 2 ^ 32
    let bad := base % 32 ≠ 0 ∨ n = 0 ∨ 262144 < base + 32 * n
    let inside (c : Nat) := base ≤ c ∧ c < base + 32 * n
    (bad → exec (.ctxAlloc p) s = .next (s.denied p q codePROT q.data.toNat))
    ∧ (¬ bad → (∃ c, inside c ∧ s.allocated c = true) → exec (.ctxAlloc p) s = .next (s.denied p q codeDENY q.data.toNat))
    ∧ (¬ bad → (∀ c, inside c → s.allocated c = false) → ∃ t, exec (.ctxAlloc p) s = .next t
      ∧ (∀ i, i < 32 * n → t.allocated (base + i) = true ∧ t.ctag (base + i) = BitVec.ofNat 32 (tag + i)
        ∧ t.ctx (base + i) = ⟨0x800000, false, false, 0, 0, 0, 0x7FC00000, 0x7FC00000, 0, 0, false, 0⟩)
      ∧ (∀ c, ¬ inside c → t.allocated c = s.allocated c ∧ t.ctag c = s.ctag c ∧ t.ctx c = s.ctx c)
      ∧ t = s.executed p q fun x => { x with ctxs := t.ctxs, alloc := t.alloc, tags := t.tags, poison := t.poison })

/-- CTX_FREE (R124): checked in the order PROT, BUSY, DENY; otherwise the stripes become unallocated and no other context
changes. That the tags of the freed stripes stay is the model's choice (notes/assumptions/60). -/
def Obligations.ContextFree : Prop :=
  ∀ (p : Port) (q : LathReq) (s : State), s.Serves p q → WritesAt q 0x20008#32 → s.Holds p q →
    let base := q.data.toNat % 2 ^ 18
    let n := q.data.toNat / 2 ^ 18 % 2 ^ 14
    let bad := base % 32 ≠ 0 ∨ n = 0 ∨ 262144 < base + 32 * n
    let inside (c : Nat) := base ≤ c ∧ c < base + 32 * n
    let used (c : Nat) := s.ctxInFlight c = true ∨ ∃ g ∈ s.groups, g.2.open = true ∧ g.2.names c = true
    (bad → exec (.ctxFree p) s = .next (s.denied p q codePROT q.data.toNat))
    ∧ (¬ bad → (∃ c, inside c ∧ used c) → exec (.ctxFree p) s = .next (s.busied p q))
    ∧ (¬ bad → (∀ c, inside c → ¬ used c) → (∃ c, inside c ∧ s.allocated c = false) →
      exec (.ctxFree p) s = .next (s.denied p q codeDENY q.data.toNat))
    ∧ (¬ bad → (∀ c, inside c → ¬ used c ∧ s.allocated c = true) → ∃ t, exec (.ctxFree p) s = .next t
      ∧ (∀ c, inside c → t.allocated c = false)
      ∧ (∀ c, ¬ inside c → t.allocated c = s.allocated c ∧ t.ctx c = s.ctx c)
      ∧ t = s.executed p q fun x => { x with ctxs := t.ctxs, alloc := t.alloc })

/-- SCAFFOLD_WINDOW_WRITE (R120, R126): an in-flight context gives BUSY, an unallocated one DENY; otherwise the word reads
back as written with its reserved bits zero, the other words and the other contexts are unchanged. -/
def Obligations.WindowWrite : Prop :=
  ∀ (p : Port) (q : LathReq) (k : Nat) (s : State), s.Serves p q → Writes q (.window k) → s.Holds p q → s.Canonical →
    let c := s.ctl.ctxBase.toNat + k / 4
    let d := q.data.toNat
    let kept := if k % 4 = 0 then d % 2 ^ 26 + d / 2 ^ 32 * 2 ^ 32 else if k % 4 = 3 then
      d % 2 ^ 29 + d / 2 ^ 32 * 2 ^ 32 else d
    (s.ctxInFlight c = true → exec (.scaffoldWindowWrite p) s = .next (s.busied p q))
    ∧ (s.ctxInFlight c = false → s.allocated c = false →
      exec (.scaffoldWindowWrite p) s = .next (s.denied p q codeDENY d))
    ∧ (s.ctxInFlight c = false → s.allocated c = true → ∃ t, exec (.scaffoldWindowWrite p) s = .next t
      ∧ (∀ b, t.readReg b (.window k) = kept)
      ∧ (∀ b j, j ≠ k → t.readReg b (.window j) = s.readReg b (.window j))
      ∧ (∀ o, o ≠ c → t.ctx o = s.ctx o)
      ∧ t = s.executed p q fun x => { x with ctxs := t.ctxs, poison := x.poison.filter (· ≠ c) })

/-- BGRP_ARM and BGRP_DISARM (R132, R139, R223): the PROT conditions, those of a SEND group among them, BUSY, DENY, and the
effect; entry 0 completes with PROT. That a disarm drops the group's nodes and list records and keeps DONE and ROOTS_LEFT
(notes/assumptions/61), and that list records which wait when the group is armed anew are those of an earlier row
(notes/assumptions/156), are the model's choices. -/
def Obligations.BondGroupCommands : Prop :=
  ∀ (p : Port) (q : LathReq) (g : Nat) (s : State), s.Serves p q → Writes q (.bgrpDef g) → s.Holds p q →
    let d := q.data.toNat
    let old := s.group g
    let base := d % 2 ^ 18
    let courses := d / 2 ^ 18 % 2 ^ 11
    let n := old.n.toNat
    let c0 := old.c0.toNat
    let sendOk := old.ownerC0.toNat ≤ c0 ∧ (c0 - old.ownerC0.toNat) % 2 ^ clog2 n = 0
      ∧ (n = 2 ^ clog2 n ∨ c0 + n = old.ownerC0.toNat + old.ownerN.toNat)
    let bad := base % 256 ≠ 0 ∨ courses < 1 ∨ 1024 < courses ∨ 262144 < base + 256 * courses ∨ n < 1 ∨ 2 ^ 24 < n
      ∨ 2 ^ 24 < c0 + n ∨ (old.send = true ∧ ¬ sendOk)
    let entries := 256 * courses * ((n + 1) / 2) + (courses * n + 127) / 128
    let fields (x : Bgrp) : Bgrp :=
      { x with base := BitVec.ofNat 18 base, courses := BitVec.ofNat 11 courses, csize := d.testBit 29 }
    (d.testBit 30 = true →
      (g = 0 ∨ bad → exec (.bgrpArm p) s = .next (s.denied p q codePROT d))
      ∧ (g ≠ 0 → ¬ bad → old.open = true → exec (.bgrpArm p) s = .next (s.busied p q))
      ∧ (g ≠ 0 → ¬ bad → old.open = false → ((∃ i, i < 256 * courses ∧ s.allocated (base + i) = false)
          ∨ 131072 + s.ctl.spillSize.toNat < s.reserved + entries) →
        exec (.bgrpArm p) s = .next (s.denied p q codeDENY d))
      ∧ (g ≠ 0 → ¬ bad → old.open = false → (∀ i, i < 256 * courses → s.allocated (base + i) = true) →
          s.reserved + entries ≤ 131072 + s.ctl.spillSize.toNat →
        exec (.bgrpArm p) s = .next (s.executed p q fun x =>
          { x.setGroup g { fields old with
              arm := true, done := false, rootsLeft := BitVec.ofNat 19 (256 * courses), marks := [], leaves := [], spans := [] } with
            topks := x.topks.map fun r => if r.bgrp.toNat = g then { r with past := r.past + 1 } else r })))
    ∧ (d.testBit 30 = false →
      (g = 0 → exec (.bgrpDisarm p) s = .next (s.denied p q codePROT d))
      ∧ (g ≠ 0 → old.open = true → s.groupInFlight g = true → exec (.bgrpDisarm p) s = .next (s.busied p q))
      ∧ (g ≠ 0 → old.open = true → s.groupInFlight g = false → exec (.bgrpDisarm p) s = .next (s.executed p q fun x =>
          { x.setGroup g { fields old with arm := false, marks := [], leaves := [], spans := [] } with
            store := x.store.filter fun e => e.bgrp.toNat ≠ g
            formed := x.formed.filter fun e => e.bgrp.toNat ≠ g
            spilled := x.spilled.filter fun y => y.entry.bgrp.toNat ≠ g
            topks := x.topks.filter fun r => r.bgrp.toNat ≠ g }))
      ∧ (g ≠ 0 → old.open = false →
        exec (.bgrpDisarm p) s = .next (s.executed p q fun x => x.setGroup g { fields old with arm := false })))

/-! ### Passes, the global-norm round and XP -/

/-- ROUTE_GO and ROUTING_PASS_DONE (R27, R195 to R197): the responses of the command; the writes that the pass puts before the
memory ports, none of them outside its entry array and its count array; and its end, which sets DONE, with every write
acknowledged and one entry for the first bad index. That the writes stand before the ports from ROUTE_GO on, or, where no core
runs then, reach memory with ROUTING_PASS_DONE, is the model's choice (notes/assumptions/27). -/
def Obligations.RoutingPass : Prop :=
  (∀ (p : Port) (q : LathReq) (s : State), s.Serves p q → WritesAt q 0xC038#32 → s.Holds p q → q.data.toNat.testBit 0 = true →
    let ctl := s.route.ctl.toNat
    let bad := ctl % 2 ^ 24 = 0 ∨ ctl / 2 ^ 24 % 2 ^ 13 = 0 ∨ 4096 < ctl / 2 ^ 24 % 2 ^ 13 ∨ ctl / 2 ^ 40 = 0
    (s.route.busy = true → exec (.routeGo p) s = .next (s.busied p q))
    ∧ (s.route.busy = false → bad → exec (.routeGo p) s = .next (s.denied p q codePROT q.data.toNat))
    ∧ (s.route.busy = false → ¬ bad →
      let r := routePass s.mem s.route
      let dst := s.route.dst.toNat
      let cnt := s.route.cnt.toNat
      (∃ t, exec (.routeGo p) s = .next t
        ∧ t.route = { s.route with
            busy := true, done := false, badIdx := false, doneRecs := 0, issued := if s.coresRun then some r.bad else none }
        ∧ (s.mpq.length = 4 → s.Puts t (if s.coresRun then r.writes s.route else []))
        ∧ t = s.executed p q fun x => { x with route := t.route, mpq := t.mpq, mpWait := t.mpWait })
      ∧ ∀ w ∈ r.writes s.route, w.writer = .pass false ∧ ∀ c ∈ w.cells,
        (dst ≤ c.1 ∧ c.1 < dst + 1024 * (ctl % 2 ^ 24)) ∨ (cnt ≤ c.1 ∧ c.1 < cnt + 8 * (ctl / 2 ^ 24 % 2 ^ 13))))
  ∧ ∀ s : State, s.route.busy = true → s.coresRun = true →
    let r := routePass s.mem s.route
    let dst := s.route.dst.toNat
    let cnt := s.route.cnt.toNat
    let bad := s.route.issued.getD r.bad
    let mine (w : MemWrite) : Bool := w.writer == .pass false
    ∃ t, exec .routingPassDone s = .next t
      ∧ t.route = { s.route with
          busy := false, done := true, badIdx := bad.isSome, doneRecs := BitVec.ofNat 24 (s.route.ctl.toNat % 2 ^ 24), issued := none }
      ∧ (s.route.issued = none → t.mem = landAll s.mem (r.writes s.route) ∧ t.mpq = s.mpq ∧ t.mpWait = s.mpWait
        ∧ ∀ a, ¬ (dst ≤ a ∧ a < dst + 1024 * (s.route.ctl.toNat % 2 ^ 24)) →
          ¬ (cnt ≤ a ∧ a < cnt + 8 * (s.route.ctl.toNat / 2 ^ 24 % 2 ^ 13)) → memByte t.mem a = memByte s.mem a)
      ∧ (s.route.issued.isSome = true → t.mem = landAll s.mem (s.writes.filter mine)
        ∧ (∀ a, (∀ w ∈ s.writes, mine w = true → ∀ c ∈ w.cells, c.1 ≠ a) → memByte t.mem a = memByte s.mem a)
        ∧ (s.mpq.length = 4 → t.writes.Perm (s.writes.filter fun w => !mine w)))
      ∧ (bad = none → t.log = s.log) ∧ (∀ b, bad = some b → t.log = (s.logE 0x27 5 0 0 0 0 b.1 b.2).log)
      ∧ t = { s with mem := t.mem, route := t.route, log := t.log, mpq := t.mpq, mpWait := t.mpWait }

/-- STX_GO and STX_PASS_DONE (R27, R199 to R201): BUSY, DENY and PROT in their order; a permitted pass starts, and an export
puts one word for each item, from ADDR, before the memory ports and nothing else; the end finds them all acknowledged, or sets
the field of each context from its word. A COUNT of 0 as PROT (notes/assumptions/131), and the writes that stand before the
ports from STX_GO on (notes/assumptions/27), are the model's choices. -/
def Obligations.StatisticTransfer : Prop :=
  (∀ (p : Port) (q : LathReq) (s : State), s.Serves p q → WritesAt q 0xC058#32 → s.Holds p q → q.data.toNat.testBit 0 = true →
    let w := s.stx.src
    let limit := if stxKind w = 1 then 16384 else 262144
    let named (i : Nat) := i < stxCount w ∧ stxFirst w + i < limit
    let held := (stxKind w = 0 ∧ ∃ i, named i ∧ s.ctxInFlight (stxFirst w + i) = true)
      ∨ (stxKind w = 1 ∧ ∃ i, named i ∧ s.totalInFlight (stxFirst w + i) = true)
    let absent := stxKind w = 0 ∧ ∃ i, named i ∧ s.allocated (stxFirst w + i) = false
    let bad := stxCount w = 0 ∨ limit < stxFirst w + stxCount w ∨ stxPermitted w = false
    let puts := s.coresRun && !stxImport w
    (s.stx.busy = true → exec (.stxGo p) s = .next (s.busied p q))
    ∧ (s.stx.busy = false → held → exec (.stxGo p) s = .next (s.busied p q))
    ∧ (s.stx.busy = false → ¬ held → absent → exec (.stxGo p) s = .next (s.denied p q codeDENY q.data.toNat))
    ∧ (s.stx.busy = false → ¬ held → ¬ absent → bad → exec (.stxGo p) s = .next (s.denied p q codePROT q.data.toNat))
    ∧ (s.stx.busy = false → ¬ held → ¬ absent → ¬ bad → ∃ t, exec (.stxGo p) s = .next t
      ∧ t.stx = { s.stx with busy := true, done := false, doneCnt := 0, issued := puts }
      ∧ (s.mpq.length = 4 → s.Puts t (if puts then (List.range (stxCount w)).map fun i =>
          ⟨.pass true, leCells (s.stx.dst.toNat + 4 * i) (s.stxExport w i).toNat 4⟩ else []))
      ∧ t = s.executed p q fun x => { x with stx := t.stx, mpq := t.mpq, mpWait := t.mpWait }))
  ∧ ∀ s : State, s.stx.busy = true → s.coresRun = true → s.Canonical →
    let w := s.stx.src
    let dst := s.stx.dst.toNat
    let mine (x : MemWrite) : Bool := x.writer == .pass true
    ∃ t, exec .stxPassDone s = .next t
      ∧ t.stx = { s.stx with busy := false, done := true, doneCnt := BitVec.ofNat 19 (stxCount w), issued := false }
      ∧ (stxImport w = false → s.stx.issued = false →
        (∀ i, i < stxCount w → memRead t.mem (dst + 4 * i) 4 = (s.stxExport w i).toNat)
        ∧ (∀ a, ¬ (dst ≤ a ∧ a < dst + 4 * stxCount w) → memByte t.mem a = memByte s.mem a)
        ∧ t = { s with mem := t.mem, stx := t.stx })
      ∧ (stxImport w = false → s.stx.issued = true → t.mem = landAll s.mem (s.writes.filter mine)
        ∧ (∀ a, (∀ x ∈ s.writes, mine x = true → ∀ c ∈ x.cells, c.1 ≠ a) → memByte t.mem a = memByte s.mem a)
        ∧ (s.mpq.length = 4 → t.writes.Perm (s.writes.filter fun x => !mine x))
        ∧ t = { s with mem := t.mem, stx := t.stx, mpq := t.mpq, mpWait := t.mpWait })
      ∧ (stxImport w = true →
        (∀ i, i < stxCount w → t.ctx (stxFirst w + i) = (s.ctx (stxFirst w + i)).setField (stxField w)
          (BitVec.ofNat 32 (memRead s.mem (dst + 4 * i) 4)))
        ∧ (∀ c, ¬ (stxFirst w ≤ c ∧ c < stxFirst w + stxCount w) → t.ctx c = s.ctx c)
        ∧ t = { s with ctxs := t.ctxs, stx := t.stx })

/-- GN_START and GN_ABORT (R214 to R217, R220): a START opens the round and sends one NORM frame whose limbs add up to the exact
sum of the gradient tallies, or to zero under FLAG, with the vote word and the word 1.0; gated tiles that wait for the round
(R219), as none does under PASS, do not delay it; an ABORT of an open round ends it as SKIP with one entry. That it counts in
SKIPS and sets DECIDED too (notes/assumptions/62), and that the tiles discarded then keep their acceptance marks
(notes/assumptions/42), are the model's choices. -/
def Obligations.GlobalNormCommands : Prop :=
  ∀ (p : Port) (q : LathReq) (s : State), s.Serves p q → WritesAt q 0xC090#32 → s.Holds p q →
    let tags := s.gn.tags.toNat
    let lo := tags % 2 ^ 12
    let hi := tags / 2 ^ 12 % 2 ^ 12
    let expected := tags / 2 ^ 24 % 2 ^ 21
    let tally (i : Nat) : Nat := 4096 + 3 * (lo + i) + 1
    let ts := (List.range (hi + 1 - lo)).map fun i => s.total (tally i)
    let sum : Int := (ts.map fun x => x.t.toInt).sum
    let flag := ts.any (fun x => x.nan || x.pinf || x.ninf || x.ovf) || decide (sum < -2 ^ 319) || decide (2 ^ 319 ≤ sum)
    let op := q.data.toNat % 4
    let held := s.gn.state = 1 ∨ (∃ b ∈ s.bays, ∃ u ∈ b.tiles, u.status = .admitted ∧ s.gated u.chain = true)
      ∨ ∃ i, i < hi + 1 - lo ∧ s.totalInFlightOf (fun u => !s.gated u.chain || s.gn.state == 2) (tally i) = true
    (op = 3 → exec (.gnStart p) s = .next (s.denied p q codePROT q.data.toNat))
    ∧ (op = 1 → held → exec (.gnStart p) s = .next (s.busied p q))
    ∧ (op = 1 → ¬ held → (hi < lo ∨ expected < 1 ∨ 1048576 < expected) →
      exec (.gnStart p) s = .next (s.denied p q codePROT q.data.toNat))
    ∧ (op = 1 → ¬ held → lo ≤ hi → 1 ≤ expected → expected ≤ 1048576 → ∃ words : List W32,
      exec (.gnStart p) s = .next (s.executed p q fun x => { x with
        gn := { x.gn with state := 1, flag := flag }
        xp := { x.xp with out := x.xp.out ++ [⟨1, 6, s.xp.shard, BitVec.ofNat 32 (s.gn.ctl.toNat % 2 ^ 32), 0, 0, 0, words⟩] } })
      ∧ words.length = 96
      ∧ (∃ l : Nat → Int, (∀ j, j < 80 → wordInt (words.getD j 0) = some (l j))
          ∧ ((List.range 80).map fun j => l j * 16 ^ j).sum = if flag then 0 else sum)
      ∧ words.getD 80 0 = (if flag then 0x3F800000 else 0) ∧ words.getD 81 0 = 0x3F800000)
    ∧ (op = 2 → s.gn.state ≠ 1 → exec (.gnAbort p) s = .next (s.executed p q id))
    ∧ (op = 2 → s.gn.state = 1 → ∃ t, exec (.gnAbort p) s = .next t
      ∧ t.gn = { s.gn with state := 3, decided := true, skips := s.gn.skips + 1 }
      ∧ t.log = (s.logE 0x26 (portKind p) 0 0 0 (s.gn.ctl.toNat % 2 ^ 32) 0 0).log
      ∧ (∀ n, n < 32 → ∀ u ∈ (t.bay n).tiles, s.gated u.chain = true → u.status ≠ .accepted)
      ∧ t = s.executed p q fun x => { x with gn := t.gn, log := t.log, bays := t.bays })

/-- GN_SUMMED_FRAME (R218): the frame of the open round. A word that fails its check ends the round in SKIP with one entry;
otherwise VOTES and SHARDS are set, CLIP goes to GN_ARGDST, and the round is PASS when no shard voted, every shard took part and
the sum is not negative, else SKIP, with one entry for a wrong count of shards and one for a negative sum; under SKIP the gated
tiles that were accepted are discarded (R219). That CLIP reaches memory before STATE changes is R218's own order. That a discarded
tile keeps its acceptance marks (notes/assumptions/42), and the minimum in CLIP (notes/assumptions/63), are the model's choices.
-/
def Obligations.GlobalNormDecision : Prop :=
  ∀ (f : XpFrame) (s : State), s.pwr.phase = .run → f.kind = 1 → frameOk f = true → s.gn.state = 1 →
    f.roundId.toNat = s.gn.ctl.toNat % 2 ^ 32 → s.Canonical →
    let word (i : Nat) : W32 := f.words.getD i 0
    let good (i : Nat) : Prop := ∃ v : Int, wordInt (word i) = some v ∧ (80 ≤ i → 0 ≤ v)
    let discarded (t : State) : Prop := ∀ n, n < 32 → t.bay n = { s.bay n with
      tiles := (s.bay n).tiles.map fun u =>
        if u.status = .accepted ∧ s.gated u.chain = true then
          { u with status := .skipped, staged := [], data := [], args := [], view := [] } else u }
    (∀ i, i < 82 → ¬ good i → (∀ j, j < i → good j) → ∃ t, exec (.gnSummedFrame f) s = .next t
      ∧ t.gn = { s.gn with state := 3, decided := true, skips := s.gn.skips + 1 }
      ∧ t.log = (s.logE 0x29 3 0 0 0 (s.gn.ctl.toNat % 2 ^ 32) i (word i).toNat).log ∧ discarded t
      ∧ t = { s with gn := t.gn, log := t.log, bays := t.bays })
    ∧ (∀ v : Nat → Int, (∀ i, i < 82 → wordInt (word i) = some (v i)) → 0 ≤ v 80 → 0 ≤ v 81 →
      let sum := ((List.range 80).map fun j => v j * 16 ^ j).sum
      let expect : Nat := s.gn.tags.toNat / 2 ^ 24 % 2 ^ 21
      let pass := v 80 = 0 ∧ v 81 = expect ∧ 0 ≤ sum
      let dst := s.gn.argDst.toNat % 2 ^ 48
      let round := s.gn.ctl.toNat % 2 ^ 32
      let maxNorm : W32 := BitVec.ofNat 32 (s.gn.ctl.toNat / 2 ^ 32)
      let exact := (Num.ofInt sum).scale (-149)
      let counted := if v 81 = expect then s else s.logE 0x25 3 0 0 0 round (v 81).toNat expect
      let told := if sum < 0 then counted.logE 0x28 3 0 0 0 round (v 81).toNat expect else counted
      ∃ t, exec (.gnSummedFrame f) s = .next t
        ∧ t.gn.votes = BitVec.ofInt 32 (v 80) ∧ t.gn.shards = BitVec.ofInt 32 (v 81)
        ∧ t.gn.sumsq = toF32 exact
        ∧ t.gn.clip = (if maxNorm = 0 ∨ sum ≤ 0 then 0x3F800000
            else toF32 (Num.min .one (ofF32 (toF32 ((ofF32 maxNorm).mul (evalFunc s.refTables 5 exact 0))))))
        ∧ t.log = told.log
        ∧ t.gn.decided = true
        ∧ (pass → t.gn.state = 2 ∧ t.gn.optStep = s.gn.optStep + 1 ∧ t.gn.skips = s.gn.skips ∧ t.bays = s.bays)
        ∧ (¬ pass → t.gn.state = 3 ∧ t.gn.optStep = s.gn.optStep ∧ t.gn.skips = s.gn.skips + 1 ∧ discarded t)
        ∧ (dst = 0 → t.mem = s.mem) ∧ (dst ≠ 0 → memRead t.mem dst 8 = t.gn.clip.toNat)
        ∧ (∀ a, ¬ (dst ≤ a ∧ a < dst + 8) → memByte t.mem a = memByte s.mem a)
        ∧ t = { s with gn := t.gn, log := t.log, bays := t.bays, mem := t.mem })

/-- XP_FOLD_ARM and XP_FOLD_DISARM (R213, R225). COUNT = 0 completes with PROT by notes/assumptions/52 (the model's
choice). -/
def Obligations.FoldCommands : Prop :=
  ∀ (p : Port) (q : LathReq) (s : State), s.Serves p q → WritesAt q 0xC0E0#32 → s.Holds p q →
    let d := q.data.toNat
    let base := d % 2 ^ 14
    let count := d / 2 ^ 14 % 2 ^ 13
    let frames := d / 2 ^ 27 % 2 ^ 24
    let arm := d.testBit 51
    let fields (x : Xp) : Xp := { x with
      foldBase := BitVec.ofNat 14 base, foldCount := BitVec.ofNat 13 count, foldFrames := BitVec.ofNat 24 frames, foldArm := arm }
    let held := s.xp.foldArm = true ∨ ∃ i, i < count ∧ s.totalInFlight (base + i) = true
    let bad := 4096 < base + count ∨ frames = 0 ∨ count = 0
    (arm = true → held → exec (.xpFoldArm p) s = .next (s.busied p q))
    ∧ (arm = true → ¬ held → bad → exec (.xpFoldArm p) s = .next (s.denied p q codePROT d))
    ∧ (arm = true → ¬ held → ¬ bad → exec (.xpFoldArm p) s = .next (s.executed p q fun x =>
        { x with xp := { fields x.xp with left := BitVec.ofNat 24 frames } }))
    ∧ (arm = false → exec (.xpFoldDisarm p) s = .next (s.executed p q fun x => { x with xp := fields x.xp }))

/-- The frames received on XP (R45, R209, R210, R212, R218, R224, R225): the header beat holds what it spells; STORE, FOLD and
LEAF frames that are taken, and the frames that are dropped, each with one entry and one count. Every NaN is taken in as the
canonical one (R45). An entry of a LEAF frame enters the tree of its group as a node, or counts as a DUPLEAF when a chunk that
it covers is marked for its row already; one that names no row or node of the tree has no place to enter (notes/assumptions/12:
the model's choice). -/
def Obligations.ReceivedFrames : Prop :=
  (∀ f : XpFrame, XpFrame.ofHeader (XpFrame.header f) f.words = f
    ∧ let h := (XpFrame.header f).toNat
      h % 2 ^ 4 = f.kind.toNat ∧ h / 2 ^ 8 % 2 ^ 24 = f.len.toNat ∧ h / 2 ^ 32 % 2 ^ 20 = f.shard.toNat
      ∧ h / 2 ^ 64 % 2 ^ 32 = f.roundId.toNat ∧ h / 2 ^ 96 % 2 ^ 64 = f.addr.toNat ∧ h / 2 ^ 160 % 2 ^ 13 = f.wcount.toNat)
  ∧ ∀ (f : XpFrame) (s : State), s.pwr.phase.xpOpen = true →
    let words := f.words.take f.wcount.toNat
    let nans := (words.filter fun w => (ofF32 w).isNan).length
    let dropped (cause : Nat) (o : Host.Outcome State Fault Refusal) : Prop := ∃ t, o = .next t
      ∧ t.log = (s.logE cause 3 0 0 0 f.roundId.toNat (f.kind.toNat + 2 ^ 8 * f.len.toNat) f.shard.toNat).log
      ∧ t.xp = { s.xp with drops := BitVec.ofNat 32 (min (s.xp.drops.toNat + 1) 0xFFFFFFFF) }
      ∧ t = { s with log := t.log, xp := t.xp }
    let first := f.addr.toNat % 2 ^ 14
    let inFold := s.xp.foldArm = true ∧ s.xp.foldBase.toNat ≤ first
      ∧ first + f.wcount.toNat ≤ s.xp.foldBase.toNat + s.xp.foldCount.toNat
    let stale := s.gn.state ≠ 1 ∨ f.roundId.toNat ≠ s.gn.ctl.toNat % 2 ^ 32
    let strange (e : BondEntry) := (s.group e.bgrp.toNat).open = false ∨ (s.group e.bgrp.toNat).send = true
    let enter (x : State) (e : BondEntry) : State :=
      let g := x.group e.bgrp.toNat
      let lo := e.node.toNat * 2 ^ e.level.toNat
      let hi := min (lo + 2 ^ e.level.toNat) g.n.toNat
      let row := e.ctx.toNat
      let marked (q : Nat) : Bool := g.marks.contains (row / 256, q)
        || g.leaves.any fun l => l.1 == row && decide (l.2.1 ≤ q) && decide (q < l.2.1 + l.2.2)
      if 256 * g.courses.toNat ≤ row ∨ hi ≤ lo ∨ clog2 g.n.toNat < e.level.toNat then x
      else if (List.range (hi - lo)).any fun i => marked (g.c0.toNat + lo + i) then
        let y := x.logE 0x24 3 0 0 0 0 row (e.node.toNat + 2 ^ 24 * e.level.toNat)
        { y with xp := { y.xp with drops := BitVec.ofNat 32 (min (y.xp.drops.toNat + 1) 0xFFFFFFFF) } }
      else
        (x.setGroup e.bgrp.toNat { g with leaves := g.leaves ++ [(row, g.c0.toNat + lo, hi - lo)] }).addNode
          { e with ctx := BitVec.ofNat 18 (g.base.toNat + row), psum := if (ofF32 e.psum).isNan then 0x7FC00000 else e.psum }
    (f.kind = 4 → frameOk f = true → ∃ t, exec (.xpStoreFrame f) s = .next t
      ∧ s.Sends t ⟨.core, (words.zipIdx.map fun w => leCells (f.addr.toNat + 4 * w.2)
          (if (ofF32 w.1).isNan then 0x7FC00000 else w.1.toNat) 4).flatten⟩
      ∧ t.nan.count = (if nans = 0 then s.nan.count else BitVec.ofNat 32 (min (s.nan.count.toNat + nans) 0xFFFFFFFF))
      ∧ t = { s with mpq := t.mpq, mpWait := t.mpWait, nan := t.nan })
    ∧ (f.kind = 3 → frameOk f = true → inFold → ∃ t, exec (.xpFoldFrame f) s = .next t
      ∧ t.runs = s.runs ++ words.zipIdx.map (fun w => ⟨32, first + w.2, [w.1], none, 0, 0⟩)
      ∧ t.xp = { s.xp with
          left := s.xp.left - 1, foldDone := s.xp.foldDone || decide (s.xp.left = 1), foldArm := decide (s.xp.left ≠ 1) }
      ∧ t = { s with runs := t.runs, xp := t.xp, nan := t.nan })
    ∧ (f.kind = 3 → frameOk f = true → ¬ inFold → dropped 0x22 (exec (.xpFoldFrame f) s))
    ∧ (f.kind = 2 → frameOk f = true → (∀ e ∈ leafEntries f, ¬ strange e) →
      exec (.xpLeafFrame f) s = .next ((leafEntries f).foldl enter s))
    ∧ (f.kind = 2 → frameOk f = true → (∃ e ∈ leafEntries f, strange e) → dropped 0x23 (exec (.xpLeafFrame f) s))
    ∧ (f.kind = 1 → frameOk f = true → stale → dropped 0x21 (exec (.gnSummedFrame f) s))
    ∧ (frameOk f = false →
      (f.kind = 4 → dropped 0x20 (exec (.xpStoreFrame f) s)) ∧ (f.kind = 3 → dropped 0x20 (exec (.xpFoldFrame f) s))
      ∧ (f.kind = 2 → dropped 0x20 (exec (.xpLeafFrame f) s)) ∧ (f.kind = 1 → dropped 0x20 (exec (.gnSummedFrame f) s)))
    ∧ (∀ complete, frameOk f = false ∨ complete = false → dropped 0x20 (exec (.xpFrameInvalid f complete) s))

/-! ### The configuration image and the start -/

/-- IMG_CMD_NONE, COMMIT, PROGRAM, RETEST, RESPEED and the checks that RESTART_WING shares with them (R294, R299 to R301): BUSY
during a start or a RESUME, the checks in their order, PROT for the reserved OPs 6 and 7, and the effects. A selection entry that
cannot be programmed makes one LOGFAIL entry (R304) and changes nothing in NVM; that COMMIT then keeps PREFERRED and sets RESULT
to NVMIO (notes/assumptions/126), and REASON 3 in that entry (notes/assumptions/82), are the model's choices. -/
def Obligations.ImageCommands : Prop :=
  ∀ (p : Port) (q : LathReq) (written : Bool) (env : StartEnv) (s : State), s.Serves p q → WritesAt q 0x4050#32 →
    let d := q.data.toNat
    let op := d % 8
    let copy := d / 2 ^ 4 % 4
    let addr := d / 2 ^ 16
    let bad := copy = 3 ∨ ((op = 2 ∨ op = 3) ∧ copy = 2) ∨ addr % 256 ≠ 0
    let owns := s.sem.owner = some p ∧ q.gen = s.sem.copy
    let inUse := s.img.copyE.toNat = copy ∨ s.img.copyW.toNat = copy ∨ s.img.fwCopy.toNat = copy
    let slot := selFree s.nvm
    let told : State := s.logE 0x4E 5 0 0 0 s.img.startNo.toNat (selAddr (if slot < 256 then slot else 0))
      (2 ^ 10 * s.img.speed.toNat + 2 ^ 16 * 3)
    (∀ row ∈ [(0, Instr.imgCmdNone p), (1, .restartWing p env), (2, .commit ⟨p, written⟩), (3, .program p), (4, .retest ⟨p, written⟩),
        (5, .respeed ⟨p, written⟩)], op = row.1 →
      (s.fullStart = true → exec row.2 s = .next (s.busied p q))
      ∧ (s.fullStart = false → bad → exec row.2 s = .next (s.denied p q codePROT d))
      ∧ (s.fullStart = false → ¬ bad → ¬ owns → exec row.2 s = .next (s.denied p q codeDENY d))
      ∧ (s.fullStart = false → ¬ bad → owns → s.img.busy = true → exec row.2 s = .next (s.busied p q)))
    ∧ (6 ≤ op → (s.fullStart = true → exec (.registerWrite p) s = .next (s.busied p q))
      ∧ (s.fullStart = false → exec (.registerWrite p) s = .next (s.denied p q codePROT d)))
    ∧ (s.fullStart = false → ¬ bad → owns → s.img.busy = false →
      (op = 0 → exec (.imgCmdNone p) s = .next (s.executed p q id))
      ∧ (op = 2 → s.img.genDiff = true → exec (.commit ⟨p, written⟩) s = .next (s.denied p q codeGENMIX d))
      ∧ (op = 2 → s.img.genDiff = false → s.img.copyE.toNat ≠ copy ∨ s.img.copyW.toNat ≠ copy →
        exec (.commit ⟨p, written⟩) s = .next (s.denied p q codeDENY d))
      ∧ (op = 2 → s.img.genDiff = false → s.img.copyE.toNat = copy → s.img.copyW.toNat = copy →
        exec (.commit ⟨p, true⟩) s = .next (s.executed p q fun x => { x with
          nvm := (s.writeSelection true copy (2 ^ copy) false false).nvm
          img := { x.img with preferred := BitVec.ofNat 2 copy, op := 2, result := 0 } })
        ∧ exec (.commit ⟨p, false⟩) s = .next (s.executed p q fun x => { x with
          log := told.log
          img := { x.img with op := 2, result := 5 } }))
      ∧ (op = 3 → inUse → exec (.program p) s = .next (s.denied p q codeDENY d))
      ∧ (op = 3 → ¬ inUse → exec (.program p) s = .next (s.executed p q fun x => { x with
          img := { x.img with busy := true, op := 3, program := some (BitVec.ofNat 2 copy, addr) } }))
      ∧ (op = 4 → exec (.retest ⟨p, true⟩) s = .next (s.executed p q fun x => { x with
          nvm := (s.writeSelection true 3 0 true false).nvm }))
      ∧ (op = 5 → exec (.respeed ⟨p, true⟩) s = .next (s.executed p q fun x => { x with
          nvm := (s.writeSelection true 3 0 false true).nvm }))
      ∧ (op = 4 → exec (.retest ⟨p, false⟩) s = .next (s.executed p q fun x => { x with log := told.log }))
      ∧ (op = 5 → exec (.respeed ⟨p, false⟩) s = .next (s.executed p q fun x => { x with log := told.log })))

/-- RESTART_WING (R229, R302): the responses BUSY, DENY and GENMIX, and the wing start: SI_RST of the wing's bays rises and BUSY
and OP are set. Where nothing hangs, the start runs on to step 16, or ends without READY with RESULT, EVENT and BUSY 0, and
SI_RST is low again in both; a copy whose header fails check 1 ends it in step 5. That the steps run within the command, up to
one that the surroundings hold, is the model's choice (notes/assumptions/16). -/
def Obligations.RestartWing : Prop :=
  ∀ (p : Port) (q : LathReq) (env : StartEnv) (s : State), s.Serves p q → WritesAt q 0x4050#32 → s.Holds p q →
    s.img.busy = false → s.bays.length = 32 →
    let d := q.data.toNat
    let west := d.testBit 3
    let copy := d / 2 ^ 4 % 4
    let g := s.img.copies.getD copy ⟨0, false, false⟩
    d % 8 = 1 → copy ≠ 3 → d / 2 ^ 16 % 256 = 0 →
    let mixes := s.img.genDiff = true ∧ g.gen ≠ s.img.genE ∧ g.gen ≠ s.img.genW
    (s.wingBusy west = true → exec (.restartWing p env) s = .next (s.busied p q))
    ∧ (s.wingBusy west = false → g.valid = false ∨ g.failed = true →
      exec (.restartWing p env) s = .next (s.denied p q codeDENY d))
    ∧ (s.wingBusy west = false → g.valid = true → g.failed = false → mixes →
      exec (.restartWing p env) s = .next (s.denied p q codeGENMIX d))
    ∧ (s.wingBusy west = false → g.valid = true → g.failed = false → ¬ mixes → 3 ∈ env.hang →
      (s.dbg.readFuses env.lifecycle).lc ≠ 3 →
      ∃ t, exec (.restartWing p env) s = .next t
        ∧ t.img.busy = true ∧ t.img.op = 1
        ∧ (∃ x, t.img.start = some x ∧ x.step = 3 ∧ x.kind = (if west then 4 else 3) ∧ x.copy = BitVec.ofNat 2 copy)
        ∧ (∀ n, n < 32 → t.bay n = { s.bay n with siRst := (s.bay n).siRst || decide (westBay n = west) })
        ∧ t = s.executed p q fun x => { x with
            bays := t.bays, img := { x.img with busy := true, op := 1, start := t.img.start }, dbg := x.dbg.readFuses env.lifecycle
            nvm := nvmTake x.nvm env.device })
    ∧ (s.wingBusy west = false → g.valid = true → g.failed = false → ¬ mixes → env.hang = [] → (∀ c ∈ s.cores, c.halted = false) →
      s.spare.mortar ≠ 0xFFFF → ∃ t, exec (.restartWing p env) s = .next t
        ∧ t.img.op = 1 ∧ (∀ n, n < 32 → westBay n = west → (t.bay n).siRst = false)
        ∧ ((t.img.busy = true ∧ ∃ x, t.img.start = some x ∧ x.step = 16 ∧ x.kind = (if west then 4 else 3))
          ∨ (t.img.busy = false ∧ t.img.start = none ∧ t.img.event = true ∧ t.img.result ≠ 0))
        ∧ (imgCheck1 (({ s with nvm := nvmTake s.nvm env.device } : State).copyRd copy) = false →
          t.img.start = none ∧ t.img.result = 1))

/-- PROGRAM_DONE (R300, R304, R305): with a good source that reads back as written, passes the five checks and is accepted, the
operation ends with RESULT OK, the copy not FAILED and holding the bytes of the source, and a selection entry that CLEARs it; no
byte of flash changes outside the copy's sectors and the sector of the selection records. A failure ends it with its RESULT,
FAILED and one PROGFAIL entry, whose WHERE is the item concerned; a source without a good header changes no byte of flash. EVENT
is set and BUSY falls in every case. REASON in that entry (notes/assumptions/87) and the end of a PROGRAM whose selection entry
cannot be programmed, with its LOGFAIL entry (notes/assumptions/126, 82), are the model's choices. -/
def Obligations.ProgramEnds : Prop :=
  ∀ (verdict : BitVec 8) (verifyOk written : Bool) (c : BitVec 2) (src : Nat) (s : State), s.img.program = some (c, src) →
    s.pwr.phase = .run → s.coresRun = true → c.toNat < s.img.copies.length →
    let base := copyBase c.toNat
    let done : State := { s with nvm := s.programNvm c.toNat src (programSectors (s.srcRd src)) (cdiv (programLen (s.srcRd src)) 256) }
    let slot := selFree done.nvm
    let told : State := s.logE 0x4E 5 0 0 0 s.img.startNo.toNat (selAddr (if slot < 256 then slot else 0))
      (2 ^ 10 * s.img.speed.toNat + 2 ^ 16 * 3)
    let failed (x : State) (reason where_ : Nat) : ErrLog := (x.logE 0x50 5 0 0 0 s.img.startNo.toNat where_
      (2 ^ 8 * c.toNat + 2 ^ 10 * s.img.speed.toNat + 2 ^ 16 * reason)).log
    ∃ t, exec (.programDone verdict ⟨verifyOk, written⟩) s = .next t
      ∧ t.img.busy = false ∧ t.img.event = true ∧ t.img.program = none
      ∧ (t.img.copies.getD c.toNat ⟨0, false, false⟩).failed = (t.img.result != 0)
      ∧ (imgCheck1 (s.srcRd src) = false → t.img.result = 9 ∧ t.nvm = s.nvm ∧ t.log = failed s 1 0)
      ∧ (imgCheck1 (s.srcRd src) = true → verifyOk = false → t.img.result = 8 ∧ t.nvm = done.nvm ∧ t.log = failed s 0 base)
      ∧ (imgCheck1 (s.srcRd src) = true → verifyOk = true →
          (∀ k chain a, imgFault (done.copyRd c.toNat) = some (k, chain, a) →
            t.img.result = (if k = 1 then 1 else if k ≤ 3 then 2 else 3) ∧ t.log = failed s k (base + a))
          ∧ (imgFault (done.copyRd c.toNat) = none → verdict ≠ 0 → t.img.result = 3
            ∧ t.log = failed s verdict.toNat (base + imgLen (done.copyRd c.toNat)))
          ∧ (imgFault (done.copyRd c.toNat) = none → verdict = 0 → written = false →
            t.img.result = 5 ∧ t.nvm = done.nvm ∧ t.log = failed told 3 0)
          ∧ (imgFault (done.copyRd c.toNat) = none → verdict = 0 → written = true →
            t.img.result = 0 ∧ t.log = s.log ∧ t.nvm = (done.writeSelection true 3 (2 ^ c.toNat) false false).nvm
            ∧ (s.Canonical → c.toNat < 3 → ∀ i, i < programLen (s.srcRd src) → sget nvmDefault t.nvm (base + i) = s.srcRd src i)))
      ∧ (s.Canonical → ∀ a, ¬ (base ≤ a ∧ a < base + 4096 * programSectors (s.srcRd src)) →
          ¬ (0x1C00000 ≤ a ∧ a < 0x1C01000) → sget nvmDefault t.nvm a = sget nvmDefault s.nvm a)
      ∧ t = { s with nvm := t.nvm, img := t.img, log := t.log }

/-- COLD_START, START_STEP_TIMEOUT and READY (R286, R293, R302, R308, R314, R320, R322, R351, R358): step 1 passes to the
power-up, with LEVEL at the DEFAULT of the lifecycle state, which only goes forward (R352), or fails into Stop; a step 16 whose
digests match opens both wings; one that times out in a full start ends in Stop entry. SEQ 0 of the AOFAULT entry at a first start
(notes/assumptions/81), its REASON CHECK after a failed check of the regulator (notes/assumptions/175), its way straight into the
ring (notes/assumptions/14) and that step 1 waits for a good VDD (notes/assumptions/74) are the model's choices. -/
def Obligations.StartCommands : Prop :=
  ∀ s : State,
    (∀ lifecycle, s.pwr.phase = .trim → s.pwr.vddGood = true → ∃ t, exec (.coldStart true lifecycle) s = .next t
      ∧ t.dbg = { s.dbg with
          lc := if s.dbg.fuse.toNat < lifecycle.toNat then lifecycle else s.dbg.fuse
          fuse := if s.dbg.fuse.toNat < lifecycle.toNat then lifecycle else s.dbg.fuse
          level := BitVec.ofNat 2 (lcDefault t.dbg.lc) }
      ∧ t.pwr = { s.pwr with phase := .powerUp .cold, droopCal := (List.range 34).map fun b => (Config.droopTrim b, 0) }
      ∧ t = { s with pwr := t.pwr, dbg := t.dbg, cores := t.cores })
    ∧ (∀ lifecycle, s.pwr.phase = .trim → ∃ t, exec (.coldStart false lifecycle) s = .next t
      ∧ t.pwr = { s.pwr with phase := .stop }
      ∧ (s.log.ring.length < 128 → t.log.ring = s.log.ring ++ [logWords 0x40 6 0 0 0 s.img.startNo.toNat 0 (1 + 2 ^ 17)])
      ∧ t = { s with pwr := t.pwr, log := t.log })
    ∧ (s.pwr.phase = .trim → ∃ t, exec (.startStepTimeout 1) s = .next t
      ∧ t.pwr = { s.pwr with phase := .stop } ∧ t = { s with pwr := t.pwr, log := t.log })
    ∧ (∀ x, s.img.start = some x → x.step = 16 → x.kind.toNat ≤ 2 → s.pwr.phase = .run →
      (16 ∈ x.env.hang → ∃ t, exec (.startStepTimeout 16) s = .next t
        ∧ t.img.start = none ∧ t.img.busy = false ∧ t.pwr.phase = .entering false
        ∧ t.img.eastReady = s.img.eastReady ∧ t.img.westReady = s.img.westReady)
      ∧ (16 ∉ x.env.hang → x.env.digestOk = (true, true) → x.reload = false →
        imgDigest (s.copyRd s.img.copyE.toNat) = x.hashE → imgDigest (s.copyRd s.img.copyW.toNat) = x.hashW → s.allHalted = false →
        ∃ t, exec .ready s = .next t
          ∧ t.img.eastReady = true ∧ t.img.westReady = true ∧ t.img.genDiff = (s.img.genE != s.img.genW)
          ∧ t.img.busy = false ∧ t.img.start = none ∧ t.spare.dnew = (s.spare.dnew || s.spare.degraded)
          ∧ (x.env.recordFails = [] → t.log = s.log)
          ∧ t = { s with img := t.img, nvm := t.nvm, log := t.log, spare := { s.spare with dnew := t.spare.dnew } }))

/-! ### Power, Stop and reset -/

/-- PWR_STOP, PWR_WARMRESET, PWR_CMD_NONE and PWR_BAYOFF (R312, R313, R323, R327); OP 3 of PWR_CMD, a REGISTER_WRITE, completes with
PROT. -/
def Obligations.PowerCommands : Prop :=
  ∀ (p : Port) (q : LathReq) (s : State), s.Serves p q → s.Holds p q →
    let op := q.data.toNat % 4
    (WritesAt q 0x8010#32 → op = 0 → exec (.pwrCmdNone p) s = .next (s.executed p q id))
    ∧ (WritesAt q 0x8010#32 → op = 3 → exec (.registerWrite p) s = .next (s.denied p q codePROT q.data.toNat))
    ∧ (WritesAt q 0x8010#32 → op = 1 → s.stopBlocked = true → exec (.pwrStop p) s = .next (s.busied p q))
    ∧ (WritesAt q 0x8010#32 → op = 1 → s.stopBlocked = false → exec (.pwrStop p) s = .next (s.executed p q fun x =>
        { x with pwr := { x.pwr with
            phase := .entering (s.img.eastReady && s.img.westReady), seen := s.pwr.level, rstSeen := s.pwr.rstLow || s.pwr.rstSeen } }))
    ∧ (WritesAt q 0x8010#32 → op = 2 → ∃ t, exec (.pwrWarmreset p) s = .next t
      ∧ t.pwr = { s.pwr with phase := .drain .warm, lastCause := 4 }
      ∧ (∀ n, (t.bay n).tiles = [] ∧ (t.bay n).act = none ∧ (t.bay n).held = none)
      ∧ (∀ n, (t.bay n).egress = (s.bay n).egress ++ (s.bay n).inOrder.map fun u => tokenError u.seq 0x61 u.chain.toNat)
      ∧ t.mpWait = []
      ∧ (t.lath p).reqs = [] ∧ (∀ o, o ≠ p → (t.lath o).reqs = [] ∧ (t.lath o).rsps = (s.lath o).rsps)
      ∧ t.img.start = none ∧ t.img.program = none ∧ t.route.busy = false ∧ t.stx.busy = false
      ∧ t.ctxs = s.ctxs ∧ t.totals = s.totals ∧ t.groups = s.groups ∧ t.spare = s.spare ∧ t.sem = s.sem)
    ∧ (WritesAt q 0x8018#32 → exec (.pwrBayoff p) s = .next (s.executed p q fun x =>
        { x with pwr := { x.pwr with bayOff := BitVec.ofNat 32 (q.data.toNat % 2 ^ 32) } }))

/-- BAY_GATE and BAY_POWER_RESTORED (R34, R248, R312): a bay whose PWR_BAYOFF bit is set is switched off once it holds no header
and no operation and its egress queue is empty; a bay that is off and that a ready wing uses comes back; its sampling window
starts anew. The empty egress queue as a condition, and which bays come back, are the model's choices (notes/assumptions/119).
-/
def Obligations.BayGating : Prop :=
  ∀ (n : Fin 32) (s : State), s.pwr.phase = .run →
    let idle := (s.bay n.val).tiles = [] ∧ (s.bay n.val).held = none ∧ (s.bay n.val).egress = []
    let anew (t : State) : Prop :=
      (∀ i, i ≠ s.physBay n.val → t.pwr.domains.toNat.testBit i = s.pwr.domains.toNat.testBit i)
      ∧ t = { (s.mapBay n.val fun b => { b with window := 0 }) with pwr := { s.pwr with domains := t.pwr.domains } }
    (s.pwr.bayOff.toNat.testBit n.val = true → idle →
      ∃ t, exec (.bayGate n) s = .next t ∧ t.bayOn n.val = false ∧ anew t)
    ∧ (s.pwr.bayOff.toNat.testBit n.val = false ∨ ¬ idle → exec (.bayGate n) s = .next s)
    ∧ (s.wantsBay (s.physBay n.val) = true → s.bayOn n.val = false →
      ∃ t, exec (.bayPowerRestored n) s = .next t ∧ t.bayOn n.val = true ∧ anew t)
    ∧ (s.wantsBay (s.physBay n.val) = false ∨ s.bayOn n.val = true → exec (.bayPowerRestored n) s = .next s)

/-- Stop entry (R272, R314, R316, R319, R323, R326, R358): the save fills the Cellar once the log queue is empty; the commit window,
with the queue empty again, raises STOPPED, lowers LEVEL to DEFAULT and discards the ports' requests; the domains go off and the
switched state returns to reset; an RST_N seen since the entry began, or a wake level, takes the exit; low-power mode ends the
entry. The model's choices: LOST only with EN (notes/assumptions/76), the save as one step (notes/assumptions/78), WAKELOST and
WARMRESET straight into the ring (notes/assumptions/14), the fields of WARMRESET (notes/assumptions/70), and a LEVEL bounded by the
DEFAULT of the state that STATE shows after an advance granted in ENTERING (notes/assumptions/129). -/
def Obligations.StopEntry : Prop :=
  ∀ s : State,
    (∀ v, s.pwr.phase = .entering v → s.log.queue = [] → ∃ t, exec .stopEntrySave s = .next t
      ∧ t.cellar.length = 116 ∧ t.cellar.getD 0 0 = BitVec.ofNat 64 (0x4C4C4543 + 2 ^ 32 + 2 ^ 40 * b2n v + 2 ^ 48 * 116)
      ∧ t.cellar.getD 12 0 = s.ctl.srSeed ∧ (t.cellar.getD 13 0).toNat = s.ctl.srStep.toNat
      ∧ t.cellar.getD 14 0 = s.ctl.argsetBase ∧ (t.cellar.getD 15 0).toNat = s.xp.shard.toNat
      ∧ (t.cellar.getD 16 0).toNat = s.gn.optStep.toNat ∧ (t.cellar.getD 17 0).toNat = s.ctl.allow.toNat
      ∧ t.cellarBuf = t.cellar ∧ t.cellarValid = true
      ∧ t = { s with cellar := t.cellar, cellarBuf := t.cellarBuf, pwr := { s.pwr with phase := .saved } })
    ∧ (s.pwr.phase = .saved → s.log.queue ≠ [] → exec .stopCommitWindow s = .next s)
    ∧ (s.pwr.phase = .saved → s.log.queue = [] → ∃ t, exec .stopCommitWindow s = .next t
      ∧ t.pwr = { s.pwr with phase := .committed, stopped := true }
      ∧ t.dbg = { s.dbg with level := BitVec.ofNat 2 (min s.dbg.level.toNat (lcDefault s.dbg.lc)) }
      ∧ t.lathA = { s.lathA with reqs := [], rsps := [] } ∧ t.lathB = { s.lathB with reqs := [], rsps := [] }
      ∧ t = { s with pwr := t.pwr, dbg := t.dbg, lathA := t.lathA, lathB := t.lathB, cores := t.cores })
    ∧ (s.pwr.phase = .committed →
      let reset := s.pwr.rstLow = true ∨ s.pwr.rstSeen = true
      let wakes := s.pwr.en = true ∧ s.pwr.level = true
      ∃ t, exec .stopDomainsOff s = .next t
        ∧ (¬ reset → ¬ wakes → t.pwr.phase = .off)
        ∧ (reset → s.pwr.vddGood = true → t.pwr.phase = .powerUp .warm ∧ t.pwr.lastCause = 3)
        ∧ (¬ reset → wakes → s.pwr.vddGood = true → t.pwr.phase = .powerUp .wake ∧ t.pwr.lastCause = s.pwr.lastCause)
        ∧ (s.log.ring.length + 2 ≤ 128 → t.log.ring = s.log.ring
          ++ (if s.pwr.en = true ∧ s.pwr.seen = true ∧ s.pwr.level = false then
              [logWords 0x64 6 0 0 0 s.pwr.stopCount.toNat 0 (s.pwr.thresh.toNat + 16 * b2n s.pwr.pol)] else [])
          ++ (if (s.pwr.rstLow = true ∨ s.pwr.rstSeen = true) ∧ s.pwr.vddGood = true then
              [logWords 0x61 6 0 0 0 s.sem.gen.toNat 0 3] else []))
        ∧ t.pwr.domains = 0 ∧ t.pwr.stopped = s.pwr.stopped
        ∧ t.pwr.lost = (s.pwr.lost || (s.pwr.en && s.pwr.seen && !s.pwr.level))
        ∧ (∀ c, t.ctx c = RowCtx.zero) ∧ (∀ i, t.total i = Total.zero) ∧ (∀ g, t.group g = Bgrp.zero)
        ∧ t.cellar = s.cellar ∧ t.cellarRest = s.cellarRest ∧ t.mem = s.mem ∧ t.nvm = s.nvm
        ∧ t.sem.gen = s.sem.gen ∧ t.sem.owner = none
        ∧ t.log.queue = [] ∧ t.dbg.level = s.dbg.level ∧ t.spare.retired = s.spare.retired)
    ∧ (s.pwr.phase = .off → s.pwr.exit = none → exec .stopLowPower s = .next { s with pwr := { s.pwr with
        phase := .stop, lowPower := true, stopCount := s.pwr.stopCount + 1 } })

/-- WAKE_EVENT, RST_N_ASSERT and RST_N_RELEASE (R317 to R319, R323, R324, R326): the comparator with its hysteresis of 25 mV in
every phase, the wake from Stop, the level that counts in ENTERING, the Warm reset from Run, and the exit from Stop as a Warm
reset with its WARMRESET entry; RST_N that is low at any time in ENTERING is seen. The model's choices: an exit met while the
domains go off waits until the entry ends (notes/assumptions/75), the comparator takes the latest voltage
(notes/assumptions/77), and the fields and the place of the WARMRESET entry (notes/assumptions/70 and 14). -/
def Obligations.WakeAndResetPins : Prop :=
  ∀ s : State,
    (∀ mv,
      let vth := 200 + 40 * s.pwr.thresh.toNat
      let rises : Bool := if s.pwr.pol then decide (mv < vth) else decide (vth < mv)
      let falls : Bool := if s.pwr.pol then decide (vth + 25 < mv) else decide (mv + 25 < vth)
      let level : Bool := rises || (s.pwr.level && !falls)
      let run := exec (.wakeEvent mv) s
      let seen : Pwr := { s.pwr with wakeMv := mv, level := level }
      let wakes := level = true ∧ s.pwr.en = true ∧ s.pwr.exit = none
      (s.pwr.phase = .stop → wakes → s.pwr.vddGood = true → run = .next { s with pwr := { seen with
          phase := .powerUp .wake, lowPower := false, exit := none, taken := false } })
      ∧ (s.pwr.phase = .stop → wakes → s.pwr.vddGood = false → run = .next { s with pwr := { seen with exit := some .wake } })
      ∧ (s.pwr.phase = .off → wakes → run = .next { s with pwr := { seen with exit := some .wake } })
      ∧ (s.pwr.phase.enteringStop = true → run = .next { s with pwr := { seen with seen := s.pwr.seen || level } })
      ∧ (s.pwr.phase.enteringStop = false → (s.pwr.phase = .stop ∨ s.pwr.phase = .off → ¬ wakes) → run = .next { s with pwr := seen }))
    ∧ (s.pwr.phase = .run → ∃ t, exec .rstNAssert s = .next t
      ∧ t.pwr = { s.pwr with phase := .drain .warm, lastCause := 3, rstLow := true }
      ∧ (∀ n, (t.bay n).tiles = [])
      ∧ (s.log.ring.length < 128 → t.log.ring = s.log.ring ++ [logWords 0x61 6 0 0 0 s.sem.gen.toNat 0 3]))
    ∧ (s.pwr.phase = .stop → s.pwr.vddGood = true → s.log.ring.length < 128 → exec .rstNAssert s = .next { s with
        pwr := { s.pwr with
          rstLow := true, phase := .powerUp .warm, lowPower := false, exit := none, taken := false, lastCause := 3 }
        log := { s.log with ring := s.log.ring ++ [logWords 0x61 6 0 0 0 s.sem.gen.toNat 0 3] } })
    ∧ (s.pwr.phase = .stop → s.pwr.vddGood = true → s.log.ring.length = 128 → exec .rstNAssert s = .next { s with
        pwr := { s.pwr with
          rstLow := true, phase := .powerUp .warm, lowPower := false, exit := none, taken := false, lastCause := 3 }
        log := { s.log with ovf := BitVec.ofNat 32 (min (s.log.ovf.toNat + 1) 0xFFFFFFFF) } })
    ∧ (s.pwr.phase = .stop → s.pwr.vddGood = false → exec .rstNAssert s = .next { s with pwr := { s.pwr with
        rstLow := true, exit := some .warm } })
    ∧ (s.pwr.phase.enteringStop = true →
      exec .rstNAssert s = .next { s with pwr := { s.pwr with rstLow := true, rstSeen := true } })
    ∧ (s.pwr.phase = .off → exec .rstNAssert s = .next { s with pwr := { s.pwr with rstLow := true, exit := some .warm } })
    ∧ (s.pwr.phase = .warmHold → exec .rstNRelease s = .next { s with pwr := { s.pwr with
        rstLow := false, phase := .released .warm } })
    ∧ (s.pwr.phase ≠ .warmHold → exec .rstNRelease s = .next { s with pwr := { s.pwr with rstLow := false } })

/-- The supplies (R308, R314, R323, R326): VAUX below its trip level loses everything in AO; a brown-out in Run drains with
BROWNOUT tokens and then starts cold; one after the commit window, when the block is not in Stop yet, starts cold at once
(notes/assumptions/73 and 141: the model's choice); VDD that is good again lets an exit that waits begin. -/
def Obligations.SupplyEvents : Prop :=
  ∀ s : State,
    (∃ t, exec .vauxPowerOnTrip s = .next t ∧ t.pwr.phase = .noAux ∧ t.pwr.stopped = true ∧ t.log = ⟨[], [], 0, 0⟩
      ∧ t.sem = State.reset.sem ∧ t.spare = State.reset.spare ∧ t.cellar = State.reset.cellar ∧ t.dbg.zdone = false
      ∧ t.pwr.stopCount = 0 ∧ t.pwr.fstop = 0 ∧ t.pwr.lastCause = 0 ∧ t.bays = State.reset.bays)
    ∧ (s.pwr.phase = .noAux → exec .vauxPowerOnRelease s = .next { s with pwr := { s.pwr with phase := .trim } })
    ∧ (s.pwr.phase = .run → ∃ t, exec .aoBrownout s = .next t
      ∧ t.pwr = { s.pwr with phase := .drain (.cold 1) } ∧ t.mpWait = []
      ∧ (∀ n, (t.bay n).egress = (s.bay n).egress ++ (s.bay n).inOrder.map fun u => tokenError u.seq 0x60 u.chain.toNat))
    ∧ (s.pwr.phase = .run → ∃ t, exec .coreBrownout s = .next t
      ∧ t.pwr = { s.pwr with phase := .drain (.cold 2), vddGood := false } ∧ t.mpWait = []
      ∧ (∀ n, (t.bay n).egress = (s.bay n).egress ++ (s.bay n).inOrder.map fun u => tokenError u.seq 0x60 u.chain.toNat))
    ∧ (s.pwr.phase = .stop → exec .coreBrownout s = .next { s with pwr := { s.pwr with vddGood := false } })
    ∧ (s.pwr.phase = .committed ∨ s.pwr.phase = .off → ∃ t, exec .coreBrownout s = .next t
      ∧ t.pwr.phase = .trim ∧ t.pwr.stopped = true ∧ t.pwr.lastCause = 2 ∧ t.pwr.vddGood = false ∧ t.log = ⟨[], [], 0, 0⟩
      ∧ t.sem = State.reset.sem ∧ t.mem = s.mem ∧ t.nvm = s.nvm)
    ∧ (s.pwr.phase = .stop → s.pwr.exit = some .wake → exec .coreBrownoutRelease s = .next { s with pwr := { s.pwr with
        vddGood := true, phase := .powerUp .wake, lowPower := false, exit := none, taken := false } })

/-- DRAIN_END (R266, R315, R323, R329, R358): a cold start waits for step 1 with AO at its Cold values; a warm reset raises
STOPPED, releases the semaphore with a new GEN, lowers LEVEL to the DEFAULT of the state that the fuses then hold (R361), and keeps
what the column Warm keeps; a fault Stop enters Stop, and the work that needed the failed units ends. That an access of REGACC that
waits executes before a fault Stop's drain ends (notes/assumptions/166), that the entries queued for
the log stay through a warm reset (notes/assumptions/154), that a cold start begins at step 1 (notes/assumptions/74), and that
LEVEL follows the fuses (notes/assumptions/129), are the model's choices. -/
def Obligations.DrainEnd : Prop :=
  ∀ s : State,
    (∀ c, s.pwr.phase = .drain (.cold c) → ∃ t, exec .drainEnd s = .next t
      ∧ t.pwr.phase = .trim ∧ t.pwr.stopped = true ∧ t.pwr.lastCause = c ∧ t.log = ⟨[], [], 0, 0⟩ ∧ t.sem = State.reset.sem
      ∧ t.mem = s.mem ∧ t.nvm = s.nvm)
    ∧ (s.pwr.phase = .drain .warm → ∃ t, exec .drainEnd s = .next t
      ∧ t.pwr.stopped = true ∧ t.pwr.phase = (if s.pwr.rstLow then .warmHold else .released .warm)
      ∧ t.sem.owner = none ∧ t.sem.gen = s.sem.gen + 1 ∧ t.sem.copy = s.sem.gen + 1
      ∧ t.log = s.log ∧ t.cellar = s.cellar ∧ t.mem = s.mem ∧ t.nvm = s.nvm ∧ t.spare.retired = s.spare.retired
      ∧ t.dbg.level.toNat = min s.dbg.level.toNat (lcDefault s.dbg.fuse) ∧ t.dbg.refusals = s.dbg.refusals ∧ t.first = .a
      ∧ t.ctl = State.reset.ctl ∧ t.xp = State.reset.xp ∧ t.gn = State.reset.gn ∧ t.bays = State.reset.bays
      ∧ (∀ c, t.ctx c = RowCtx.zero ∧ t.allocated c = false) ∧ (∀ i, t.total i = Total.zero))
    ∧ (∀ x, s.pwr.phase = .drain .faultStop → s.pwr.stopped = false → s.tap.held = [x] → s.tap.ir = 0x12 → (∀ o, s.ready o = false) →
      ∀ u, exec (.regacc x.addr x.write x.data x.env) { s with tap := { s.tap with held := [] } } = .next u →
      exec .drainEnd s = .next u.endDrain)
    ∧ (s.pwr.phase = .drain .faultStop → s.tap.held = [] → ∃ t, exec .drainEnd s = .next t
      ∧ t.pwr = { s.pwr with phase := .entering false, seen := s.pwr.level, rstSeen := s.pwr.rstLow || s.pwr.rstSeen }
      ∧ (∀ n, t.bay n = { s.bay n with soq := [], stalled := [] })
      ∧ t = { s with bays := t.bays, pwr := t.pwr, store := [], formed := [], spilled := [], topks := [], runs := [] })

/-- Power-up (R266, R309, R316, R320): the next slot's domain comes on; CONTROL leaves reset once every slot is on, with a new
GEN at an exit; a valid Cellar is restored after a wake; STOPPED falls, LEVEL takes the DEFAULT of the lifecycle state read
then, or falls to it, and the start begins. Where nothing hangs it runs on to step 16, or a mandatory step fails and Stop entry
follows with IMGVALID 0 (R286). That STOPPED does not fall while RST_N is low (notes/assumptions/72) and that the steps run
within the command, up to one that the surroundings hold (notes/assumptions/16), are the model's choices. -/
def Obligations.PowerUp : Prop :=
  ∀ s : State,
    (∀ (d : Fin 38) (k : ExitKind), s.pwr.phase = .powerUp k → (s.slots.find? fun i => !s.pwr.domains.toNat.testBit i) = some d.val →
      ∃ t, exec (.powerupDomainOn d) s = .next t
        ∧ t.pwr.domains = s.pwr.domains ||| BitVec.ofNat 38 (2 ^ d.val)
        ∧ t = { s with pwr := { s.pwr with domains := t.pwr.domains }, log := t.log })
    ∧ (∀ k, s.pwr.phase = .powerUp k → (∀ i ∈ s.slots, s.pwr.domains.toNat.testBit i = true) →
      (k = .cold → exec .isolationRelease s = .next { s with pwr := { s.pwr with phase := .released k } })
      ∧ (k ≠ .cold → exec .isolationRelease s = .next { s with
          pwr := { s.pwr with phase := .released k }
          sem := { s.sem with owner := none, gen := s.sem.gen + 1, copy := s.sem.gen + 1 } }))
    ∧ (s.pwr.phase = .released .wake → s.restorable = true → ∃ t, exec .cellarRestore s = .next t
      ∧ t.ctl.srSeed = s.cellar.getD 12 0 ∧ t.ctl.srStep = BitVec.ofNat 32 (s.cellar.getD 13 0).toNat
      ∧ t.ctl.argsetBase = s.cellar.getD 14 0 ∧ t.xp.shard = BitVec.ofNat 20 (s.cellar.getD 15 0).toNat
      ∧ t.gn.optStep = BitVec.ofNat 32 (s.cellar.getD 16 0).toNat ∧ t.ctl.allow = BitVec.ofNat 4 (s.cellar.getD 17 0).toNat
      ∧ t = { s with
          ctl := { s.ctl with srSeed := t.ctl.srSeed, srStep := t.ctl.srStep, argsetBase := t.ctl.argsetBase, allow := t.ctl.allow }
          xp := { s.xp with shard := t.xp.shard }, gn := { s.gn with optStep := t.gn.optStep }
          pwr := { s.pwr with droopCal := t.pwr.droopCal }, spare := t.spare, cellarBuf := s.cellar })
    ∧ (∀ (k : ExitKind) (env : StartEnv), s.pwr.phase = .released k → s.pwr.rstLow = false →
      (k = .wake → s.restorable = true → s.cellarBuf = s.cellar) → 2 ∈ env.hang → (s.dbg.readFuses env.lifecycle).lc ≠ 3 →
      ∃ t, exec (.stoppedFall env) s = .next t
        ∧ t.pwr.phase = .run ∧ t.pwr.stopped = false ∧ t.pwr.taken = (s.pwr.taken || decide (k = .wake))
        ∧ t.img.busy = true ∧ t.img.op = 0
        ∧ t.dbg = { s.dbg.readFuses env.lifecycle with level := BitVec.ofNat 2 (if k = .cold then lcDefault t.dbg.lc
            else min s.dbg.level.toNat (lcDefault t.dbg.lc)) }
        ∧ (∃ x, t.img.start = some x ∧ x.step = 2
          ∧ (k = .cold → x.kind = 0) ∧ (k = .warm → x.kind = 1) ∧ (k = .wake → x.kind = if s.restorable then 2 else 1))
        ∧ t = { s with
            pwr := t.pwr, img := { s.img with busy := true, op := 0, start := t.img.start }, dbg := t.dbg, cores := t.cores
            nvm := nvmTake s.nvm env.device })
    ∧ (∀ (k : ExitKind) (env : StartEnv), s.pwr.phase = .released k → s.pwr.rstLow = false →
      (k = .wake → s.restorable = true → s.cellarBuf = s.cellar) → env.hang = [] → (∀ c ∈ s.cores, c.halted = false) →
      ∃ t, exec (.stoppedFall env) s = .next t ∧ t.pwr.stopped = false ∧ t.img.op = 0
        ∧ ((t.pwr.phase = .run ∧ t.img.busy = true ∧ ∃ x, t.img.start = some x ∧ x.step = 16)
          ∨ (t.pwr.phase = .entering false ∧ t.img.busy = false ∧ t.img.start = none)))

/-! ### Spares, patrol and data errors -/

/-- SPARE_CMD_RETIRE and SPARE_CMD_NONE (R345, R346): PROT for the reserved OPs 2 and 3 and outside R330, BUSY while PENDING is 1,
otherwise the unit is retired as a finding of SOURCE 5; a unit already retired changes nothing; a lane that has a spare is added
to its bay's map with one RETIRE entry, and its mapping waits for the tile boundary of a bay that has a tile in its lanes (R332);
a core that runs a task of several commands serves until the task ends. Which units the map then shows and in what order its lists
stand while a mapping waits is the model's choice (notes/assumptions/95 and 67). -/
def Obligations.SpareCommands : Prop :=
  ∀ (p : Port) (q : LathReq) (s : State), s.Serves p q → WritesAt q 0x80030#32 → s.Holds p q →
    let d := q.data.toNat
    let kind := d / 2 ^ 4 % 2 ^ 4
    let unit := d / 2 ^ 8 % 2 ^ 6
    let index := d / 2 ^ 16 % 2 ^ 11
    let u : UnitId := ⟨BitVec.ofNat 4 kind, BitVec.ofNat 6 unit, BitVec.ofNat 11 index⟩
    let listed := (kind = 0 ∧ unit < 34 ∧ index < 264) ∨ (kind = 1 ∧ unit < 34 ∧ index = 0) ∨ (kind = 2 ∧ unit < 2 ∧ index < 17)
      ∨ (kind = 3 ∧ unit = 0 ∧ index < 17) ∨ (kind = 4 ∧ unit < 34 ∧ index < 1296) ∨ (kind = 5 ∧ unit = 0 ∧ index < 10)
      ∨ (kind = 6 ∧ unit = 0 ∧ index < 16) ∨ (kind = 7 ∧ unit < 34 ∧ index < 2) ∨ (kind = 8 ∧ unit < 34 ∧ index < 16)
    (d % 4 = 0 → exec (.spareCmdNone p) s = .next (s.executed p q id))
    ∧ (2 ≤ d % 4 → exec (.registerWrite p) s = .next (s.denied p q codePROT d))
    ∧ (d % 4 = 1 → ¬ listed → exec (.spareCmdRetire p) s = .next (s.denied p q codePROT d))
    ∧ (d % 4 = 1 → listed → s.spare.pending = true → exec (.spareCmdRetire p) s = .next (s.busied p q))
    ∧ (d % 4 = 1 → listed → s.spare.pending = false →
      exec (.spareCmdRetire p) s = .next (s.executed p q fun x => x.findingGoesOn u 5))
    ∧ (d % 4 = 1 → listed → s.spare.pending = false → s.spare.retire u = none → s.allHalted = false →
      exec (.spareCmdRetire p) s = .next (s.executed p q id))
    ∧ (d % 4 = 1 → kind = 0 → listed → s.spare.pending = false → unit < s.spare.bays.length → s.spare.prepares unit = false →
      BitVec.ofNat 9 index ∉ (s.spare.bay unit).lanes → (s.spare.bay unit).lanes.length < 7 → s.allHalted = false →
      let busy := ∃ n, s.spare.serving unit = some n ∧ (s.bay n).act.isSome = true
      ∃ t, exec (.spareCmdRetire p) s = .next t
        ∧ (¬ busy → (t.spare.bay unit).lanes = (s.spare.bay unit).lanes ++ [BitVec.ofNat 9 index] ∧ t.spare.waiting = s.spare.waiting)
        ∧ (busy → (t.spare.bay unit).lanes.Perm ((s.spare.bay unit).lanes ++ [BitVec.ofNat 9 index])
          ∧ t.spare.waiting = s.spare.waiting ++ [u])
        ∧ (∀ i, i ≠ unit → t.spare.bay i = s.spare.bay i)
        ∧ t.spare.rnew = true
        ∧ t.log = (s.logE 0x70 5 0 0 0 s.spare.sweeps.toNat (2 ^ 8 * unit + 2 ^ 16 * index) 5).log
        ∧ t = s.executed p q fun x => { x with
            spare := { x.spare with bays := t.spare.bays, rnew := true, waiting := t.spare.waiting, unwritten := t.spare.unwritten }
            log := t.log, pwr := { x.pwr with domains := (s.powerSpare).pwr.domains } })
    ∧ (d % 4 = 1 → kind = 5 → listed → s.spare.pending = false → s.spare.cores.toNat.testBit index = false →
      popCount 10 s.spare.cores.toNat < 6 → s.allHalted = false →
      let works := s.route.busy = true ∨ s.stx.busy = true ∨ s.img.program.isSome = true ∨ s.img.start.isSome = true
      let waits := works ∧ (s.cores.getD index Core.reset).halted = false
      ∃ t, exec (.spareCmdRetire p) s = .next t
        ∧ t.spare.cores = s.spare.cores ||| BitVec.ofNat 10 (2 ^ index)
        ∧ (waits → t.spare.waiting = s.spare.waiting ++ [u]) ∧ (¬ waits → t.spare.waiting = s.spare.waiting)
        ∧ (popCount 10 s.spare.cores.toNat = 0 → t.log = (s.logE 0x70 5 0 0 0 s.spare.sweeps.toNat (5 + 2 ^ 16 * index) 5).log)
        ∧ t = s.executed p q fun x => { x with
            spare := { x.spare with
              cores := t.spare.cores, rnew := true, waiting := t.spare.waiting, unwritten := t.spare.unwritten, dnew := t.spare.dnew }
            log := t.log, pwr := { x.pwr with domains := (s.powerSpare).pwr.domains } })

/-- PATROL_VECTOR and PATROL_CONFIRM (R331, R335 to R337, R345, R347, R348): an activity covers its units, LEFT falls when it has
covered them all, and the sweep ends with the last; a corrected bank counts up to its sixteenth entry; a lane is found at its
second failed vector in succession, another unit at its failed test, a table row at any corrected read, a bank at an uncorrectable
error in an entry that holds nothing (notes/assumptions/189: the model's choice of its entry); a sample is judged once; one whose
pattern is that of the FP64 reference, rounded into the lane's target (R74), matches; a mismatch makes one PATROLMISS entry: it is
a CHECK finding where the check units disagree, hard where one of 8 replays repeats it, and else soft and counted, the third of a
bay in a sweep retiring the lane. A bay that a wing start suspends, one that is off or lost, and what was not sampled give
nothing. The model's choices: LEFT 0 before the first unit and 0xFD afterwards (notes/assumptions/15), SOFT 0 again at the third
mismatch (notes/assumptions/93), and what a confirmation gives and of which group (notes/assumptions/120). -/
def Obligations.PatrolEvents : Prop :=
  (∀ (u : UnitId) (s : State), s.pwr.phase = .run → u.wf = true → u.kind = 4 →
    exec (.patrolVector (.finding u 4)) s = .next (s.findingRun u 4))
  ∧ ∀ s : State, s.patrolOn = true →
    let patrols (a v : Nat) := v ∈ s.sweepUnits a ∧ (a ∈ [1, 3, 5, 8] → s.patrolsBay v = true)
    (∀ (a : BitVec 4) (v : BitVec 6), ¬ patrols a.toNat v.toNat → exec (.patrolVector (.clean a v)) s = .next s)
    ∧ (∀ (a : BitVec 4) (v : BitVec 6), patrols a.toNat v.toNat →
      let covered := (a.toNat, v.toNat) :: s.spare.covered
      let left := if s.spare.left = 0 then 0xFD else s.spare.left
      let opened (i : Nat) := left.toNat.testBit i = true ∧ ∃ w ∈ s.sweepUnits (i + 1), (i + 1, w) ∉ covered
      ∃ t, exec (.patrolVector (.clean a v)) s = .next t
        ∧ t.spare.vfail = (if a = 1 ∨ a = 3 then s.spare.vfail.filter fun u => u.unit.toNat ≠ v.toNat else s.spare.vfail)
        ∧ ((∃ i, i < 8 ∧ opened i) → t.spare.covered = covered ∧ t.spare.sweeps = s.spare.sweeps
          ∧ t.spare.bankCnt = s.spare.bankCnt ∧ t.spare.bays = s.spare.bays
          ∧ ∀ i, i < 8 → (t.spare.left.toNat.testBit i = true ↔ opened i))
        ∧ ((∀ i, i < 8 → ¬ opened i) → t.spare.covered = [] ∧ t.spare.sweeps = s.spare.sweeps + 1 ∧ t.spare.left = 0xFD
          ∧ t.spare.bankCnt = [] ∧ ∀ b, (t.spare.bay b).soft = 0)
        ∧ t = { s with spare := { s.spare with
            covered := t.spare.covered, left := t.spare.left, sweeps := t.spare.sweeps, bankCnt := t.spare.bankCnt
            bays := t.spare.bays, vfail := t.spare.vfail } })
    ∧ (∀ (h : BitVec 2) (b : BitVec 5), h.toNat < 3 → b.toNat < 17 → 17 * h.toNat + b.toNat ∈ s.sweepUnits 4 →
      let k := 32 * h.toNat + b.toNat
      let n := sget 0 s.spare.bankCnt k
      let counted : State := { s with spare := { s.spare with bankCnt := sset 0 s.spare.bankCnt k (min (n + 1) 16) } }
      (n ≠ 15 → exec (.patrolVector (.bankCorrected h b)) s = .next counted)
      ∧ (n = 15 → exec (.patrolVector (.bankCorrected h b)) s =
        .next (counted.findingRun (if h = 2 then unitOf 3 0 b.toNat else unitOf 2 h.toNat b.toNat) 4).settleSweep))
    ∧ (∀ u : UnitId, u.wf = true → u.kind = 2 ∨ u.kind = 3 →
      let h := u.unit.toNat
      let i := u.index.toNat
      let reads := (if u.kind = 2 then 17 * h + i else 34 + i) ∈ s.sweepUnits 4
        ∧ (u.kind = 2 → ∀ c, c < 16 → s.spare.ctxBank (16 * h + c) ≠ (h, i))
      (reads → exec (.patrolVector (.finding u 4)) s = .next (s.findingRun u 4 (some 0)).settleSweep)
      ∧ (¬ reads → exec (.patrolVector (.finding u 4)) s = .next s))
    ∧ (∀ u : UnitId, u.wf = true →
      let run := exec (.patrolVector (.finding u 1)) s
      let cleared : State := { s with spare := { s.spare with vfail := s.spare.vfail.filter fun v => v != u } }
      (s.findsUnit u = false → run = .next s)
      ∧ (s.findsUnit u = true → u.kind = 0 → u ∉ s.spare.vfail →
        run = .next { s with spare := { s.spare with vfail := u :: s.spare.vfail } })
      ∧ (s.findsUnit u = true → u.kind ≠ 0 ∨ u ∈ s.spare.vfail →
        let t := cleared.findingRun u 1
        run = .next (if t.pwr.phase = .run then t.settleSweep else t)))
    ∧ (∀ (n : Fin 32) (lane : BitVec 9) (row : BitVec 8) (stage : BitVec 4) (element : W32) (m : Confirm), lane.toNat < 264 →
      let b := s.physBay n.val
      let run := exec (.patrolConfirm n lane row stage element m) s
      let sampled := (s.spare.sampled.getD b []).find? fun x =>
        x.ready && x.lane == lane.toNat && x.row == row.toNat && x.stage == stage.toNat && x.element == element.toNat
      let serves := s.patrolsBay b = true ∧ s.bayOn n.val = true ∧ s.isLost n.val = false
      (¬ serves ∨ sampled = none → run = .next s)
      ∧ (∀ x, serves → sampled = some x → b < s.spare.bays.length →
        let value : BitVec 128 := x.check m.fault1
        let judged : State := { s with spare := { s.spare with sampled := s.spare.sampled.modify b fun xs => xs.erase x } }
        let missed (hard : Nat) : State := judged.logE 0x71 0 n.val x.chain 0 x.seq element.toNat
          (row.toNat + 2 ^ 8 * stage.toNat + 2 ^ 16 * lane.toNat + 2 ^ 31 * hard)
        let wrong := m.got ≠ value
        let k := (s.spare.bay b).soft.toNat
        let unit : UnitId := ⟨0, BitVec.ofNat 6 b, BitVec.ofNat 11 lane.toNat⟩
        (¬ wrong → run = .next judged)
        ∧ (wrong → value ≠ x.check m.fault2 → run = .next (((missed 0).logE 0x76 0 n.val 0 0
            s.spare.sweeps.toNat b (m.u1.toNat + 2 ^ 4 * m.u2.toNat)).findingRun ⟨8, BitVec.ofNat 6 b, BitVec.ofNat 11 m.u1.toNat⟩ 1))
        ∧ (wrong → value = x.check m.fault2 → m.got ∈ m.replays.take 8 → run = .next ((missed 1).findingRun unit 2))
        ∧ (wrong → value = x.check m.fault2 → m.got ∉ m.replays.take 8 → k < 2 → ∃ t, run = .next t
          ∧ (t.spare.bay b).soft.toNat = k + 1 ∧ t.log = (missed 0).log
          ∧ t = { judged with spare := { judged.spare with bays := t.spare.bays }, log := t.log })
        ∧ (wrong → value = x.check m.fault2 → m.got ∉ m.replays.take 8 → 2 ≤ k → run = .next (State.findingRun
            { missed 0 with spare := judged.spare.mapPhys b fun m => { m with soft := 0 } } unit 3))
        ∧ (∀ ref, x.refs = [ref] → x.scale = .none → m.fault1 = 0 →
            value = BitVec.ofNat 128 (encode x.fmt (convert x.fmt x.mode x.draw x.wrap (decode 0xD ref.toNat))))))

/-- SPARE_MAPPING, BANK_COPY_DONE, SPARE_BAY_PREPARED and SPARE_MAP_NVM_WRITE (R332 to R334, R343, R344, R348, R349): what waits
in a bay takes effect at its tile boundary; the bank copy that runs ends; a logical bay moves to its spare, whose domain stays on
where the bay is in use (R311); the oldest unwritten finding is programmed, field by field, into the first free entry of the
latest sector, or a snapshot of the whole map opens the next sector, and a failed program makes one SPAREWRITE entry and leaves
the finding unwritten. A core's mapping takes effect once its task has ended. The queue of bank copies (notes/assumptions/94), the
bay that serves on until its preparation has ended (notes/assumptions/92) and the wait for an active core (notes/assumptions/104)
are the model's choices. -/
def Obligations.SpareMappings : Prop :=
  ∀ s : State,
    (∀ n : Fin 32, s.coresRun = true →
      let works := s.route.busy || s.stx.busy || s.img.program.isSome || s.img.start.isSome
      exec (.spareMapping n) s = .next { s with spare := { s.spare with waiting := s.spare.waiting.filter fun u =>
        if u.kind = 5 then works else (s.bay n.val).act.isSome || decide (u.unit.toNat ≠ s.physBay n.val) } })
    ∧ (∀ n : Fin 32, s.coresRun = false → exec (.spareMapping n) s = .next s)
    ∧ exec .bankCopyDone s = .next { s with spare := { s.spare with copies := s.spare.copies.tail } }
    ∧ (∀ (west : Bool) (n : Nat), s.pwr.phase = .run → s.coresRun = true →
      (s.spare.preps.find? fun x => x.1 == west) = some (west, n) → n < 32 →
      ((s.bay n).act = none → ∃ t, exec (.spareBayPrepared west true) s = .next t
        ∧ t.spare = { s.spare with
            preps := s.spare.preps.filter fun x => x.1 ≠ west
            waiting := s.spare.waiting.filter fun u => u.kind = 5 ∨ u.unit.toNat ≠ n }
        ∧ t.pwr.domains.toNat.testBit n = false
        ∧ (let spare := if west then 33 else 32
           let used := s.bayOn n = true ∨ t.wantsBay spare = true
           (used → t.pwr.domains.toNat.testBit spare = s.pwr.domains.toNat.testBit spare)
           ∧ (¬ used → t.pwr.domains.toNat.testBit spare = false))
        ∧ (∀ i, i ≠ n → i ≠ (if west then 33 else 32) → t.pwr.domains.toNat.testBit i = s.pwr.domains.toNat.testBit i)
        ∧ t = { (s.mapBay n fun b => { b with window := 0 }) with spare := t.spare, pwr := { s.pwr with domains := t.pwr.domains } })
      ∧ ((s.bay n).act.isSome = true → exec (.spareBayPrepared west true) s = .next s)
      ∧ exec (.spareBayPrepared west false) s = .next (s.findingRun ⟨1, if west then 33 else 32, 0⟩ 1))
    ∧ (∀ (f : FindingRec) (m : List Host.Cell) (a : Nat), swf nvmDefault m = true → (∀ i, i < 32 → sget nvmDefault m (a + i) = 0xFF) →
      let t := nvmProgram m (findingBytes f a)
      nvmRead t a 2 = 0x4E46 ∧ nvmRead t (a + 2) 1 = f.unit.kind.toNat ∧ nvmRead t (a + 3) 1 = f.unit.unit.toNat
        ∧ nvmRead t (a + 4) 2 = f.unit.index.toNat ∧ nvmRead t (a + 6) 1 = f.source.toNat ∧ nvmRead t (a + 7) 1 = f.result.toNat
        ∧ nvmRead t (a + 8) 4 = f.startNo.toNat ∧ nvmRead t (a + 12) 16 = 2 ^ 128 - 1
        ∧ nvmRead t (a + 28) 4 = crc32 ((List.range 28).map fun i => sget nvmDefault t (a + i))
        ∧ ∀ b, b < a ∨ a + 32 ≤ b → sget nvmDefault t b = sget nvmDefault m b)
    ∧ (∀ a, nextFinding s.nvm = .inl a → ∃ i k, latestSector s.nvm = some i ∧ k < 56 ∧ a = 0x1C01000 + 4096 * i + 0x900 + 32 * k
      ∧ nvmRead s.nvm a 2 = 0xFFFF ∧ ∀ j, j < k → nvmRead s.nvm (0x1C01000 + 4096 * i + 0x900 + 32 * j) 2 ≠ 0xFFFF)
    ∧ (s.pwr.phase = .run → s.coresRun = true → s.spare.unwritten = [] →
      ∀ ok, exec (.spareMapNvmWrite ok) s = .next s)
    ∧ (∀ f rest, s.pwr.phase = .run → s.coresRun = true → s.spare.unwritten = f :: rest →
      (∀ a, nextFinding s.nvm = .inl a →
        exec (.spareMapNvmWrite true) s = .next { s with
          nvm := nvmProgram s.nvm (findingBytes f a), spare := { s.spare with unwritten := rest } }
        ∧ exec (.spareMapNvmWrite false) s = .next (s.logE 0x75 5 0 0 0 s.img.startNo.toNat a (kui f.unit)))
      ∧ (∀ k serial, nextFinding s.nvm = .inr (k, serial) →
        exec (.spareMapNvmWrite true) s = .next { s with
          nvm := nvmProgram (nvmErase s.nvm (mapSector k) (mapSector (k + 1)))
            (s.spare.snapshot (mapSector k) serial s.img.startNo.toNat)
          spare := { s.spare with unwritten := [] } }
        ∧ exec (.spareMapNvmWrite false) s = .next (s.logE 0x75 5 0 0 0 s.img.startNo.toNat (mapSector k) (kui f.unit))))

/-- ECCLOSS (R272, R333, R338, R348): each case makes one entry, behind those of the tiles of a bay that its finding loses; a
Scaffold entry is poisoned and the bank that holds it meets a finding; a bond-store node is lost, and one that waits for room
enters the store; a total becomes OVF and reads as NaN in every mode; a table row and a core meet a finding. The model's
choices: the entry of an error that a prefetch meets is that of the tile that it refuses (notes/assumptions/107), the bank of a
bond-store node is a free one of the 16 in service (notes/assumptions/106 and 3), the node that waited for room enters at once
(notes/assumptions/28), and the bank of a running copy stays in
service until the copy ends (notes/assumptions/94). -/
def Obligations.DataErrors : Prop :=
  ∀ s : State, s.pwr.phase = .run →
    (∀ (c : BitVec 18) (prefetch : Bool),
      let q := s.spare.ctxBank c.toNat
      let unit : UnitId := ⟨2, BitVec.ofNat 6 q.1, BitVec.ofNat 11 q.2⟩
      let poisoned : State := if s.allocated c.toNat = true ∧ c.toNat ∉ s.poison then { s with poison := c.toNat :: s.poison } else s
      let told := prefetch && s.prefetching c.toNat
      exec (.eccloss (.scaffold c prefetch)) s = .next (poisoned.findingGoesOn unit 4 (if told then none else some c.toNat))
      ∧ (s.spare.retire unit = none → s.allHalted = false → exec (.eccloss (.scaffold c prefetch)) s = .next (if told then poisoned
          else poisoned.logE 0x72 5 0 0 0 0 (2 + 2 ^ 8 * (q.1 % 2 ^ 6) + 2 ^ 16 * (q.2 % 2 ^ 11)) c.toNat))
      ∧ (¬ (s.spare.copies.contains 1 = true ∨ s.spare.copies.contains 2 = true) → q = (c.toNat / 16 % 2,
          if (if c.toNat / 16 % 2 = 0 then s.spare.scf0 else s.spare.scf1).toNat = c.toNat % 16 then 16 else c.toNat % 16)))
    ∧ (∀ (g : BitVec 8) (c : BitVec 18) (l : BitVec 5) (j : BitVec 24),
      let here (x : BondEntry) : Bool := x.bgrp == g && x.ctx == c && x.level == l && x.node == j
      ((∀ x ∈ s.store, here x = false) → exec (.eccloss (.bondEntry g c l j)) s = .next s)
      ∧ ((∃ x ∈ s.store, here x = true) →
        let rest := s.store.filter fun x => !here x
        let bank := s.spare.bondBanks.getD (Config.freeValue s.free % 16) 0
        exec (.eccloss (.bondEntry g c l j)) s = .next ((({ s with
            free := s.free + 1
            store := rest ++ s.formed.take (131072 - rest.length)
            formed := s.formed.drop (131072 - rest.length) } : State)).findingGoesOn ⟨3, 0, BitVec.ofNat 11 bank⟩ 4
              (some (c.toNat + 2 ^ 18 * g.toNat)))
        ∧ bank ∈ s.spare.bondBanks))
    ∧ (∀ i : BitVec 14, s.Canonical → ∃ t, exec (.eccloss (.total i)) s = .next t
      ∧ t.total i.toNat = { s.total i.toNat with ovf := true } ∧ (t.total i.toNat).read = 0x7FC00000
      ∧ (∀ k, k ≠ i.toNat → t.total k = s.total k)
      ∧ t = { (s.logEcc (unitOf 6 0 (s.mortarUnit i.toNat)) (i.toNat + 2 ^ 31)) with totals := t.totals })
    ∧ (∀ (b : Fin 34) (row : BitVec 11), row.toNat < 1296 →
      exec (.eccloss (.tableRow b row)) s = .next (s.findingGoesOn ⟨4, BitVec.ofNat 6 b.val, row⟩ 4 (some 0)))
    ∧ (∀ core : Fin 10, exec (.eccloss (.coreSram core)) s = .next (s.findingGoesOn ⟨5, 0, BitVec.ofNat 11 core.val⟩ 4 (some 0)))
    ∧ (∀ (u : UnitId) (aux : Nat), s.allHalted = false → s.spare.retire u = none → s.findingGoesOn u 4 (some aux)
        = s.logE 0x72 5 0 0 0 0 (u.kind.toNat + 2 ^ 8 * u.unit.toNat + 2 ^ 16 * u.index.toNat) aux)

/-! ### Lifecycle, debug and the TAP -/

/-- DBG_NONE, SETLEVEL, CHALLENGE, RESPOND, ADVANCE and CANCEL (R358, R359, R367): PROT for LEVEL 3 and the reserved OPs, DENY for
a port that is not the owner or brings an old GEN, then every row of its table. A SETLEVEL that lets the halted cores go on lets a
start that waited for them go on (R357). That a SETLEVEL to the level that stands makes no entry (notes/assumptions/99), and that
the start runs on within the command (notes/assumptions/16 and 104), are the model's choices. -/
def Obligations.DebugCommands : Prop :=
  ∀ (p : Port) (q : LathReq) (s : State), s.Serves p q → WritesAt q 0xC0008#32 →
    let d := q.data.toNat
    let op := d % 8
    let l := d / 2 ^ 4 % 4
    let target := d / 2 ^ 6 % 4
    let ret := d.testBit 8
    let me : BitVec 2 := match p with | .a => 0 | .b => 1
    let ceiling := if s.dbg.lc = 2 then 1 else 2
    let asking := s.dbg.state = 1 ∨ s.dbg.state = 3
    let permitted := (s.dbg.lc = 0 ∧ target ≠ 0) ∨ (s.dbg.lc = 1 ∧ 2 ≤ target) ∨ (s.dbg.lc = 2 ∧ target = 3)
    let owns := s.sem.owner = some p ∧ q.gen = s.sem.copy
    (∀ row ∈ [(0, Instr.dbgNone p), (1, .setlevel p), (2, .challenge p), (3, .respond p), (4, .advance p), (5, .cancel p)],
      op = row.1 → (l = 3 → exec row.2 s = .next (s.denied p q codePROT d))
        ∧ (l ≠ 3 → ¬ owns → exec row.2 s = .next (s.denied p q codeDENY d)))
    ∧ (6 ≤ op → exec (.registerWrite p) s = .next (s.denied p q codePROT d))
    ∧ (l ≠ 3 → owns →
    (op = 0 → exec (.dbgNone p) s = .next (s.executed p q id))
    ∧ (op = 1 → l ≤ ceiling ∨ l ≤ s.dbg.level.toNat → s.allHalted = true → exec (.setlevel p) s = .next (s.executed p q fun x =>
        (if l = s.dbg.level.toNat then x else State.setLevel (x.logE 0x80 (portKind p) 0 0 0 s.sem.copy.toNat
          (l + 2 ^ 8 * s.dbg.level.toNat) s.dbg.lc.toNat) l).runStart))
    ∧ (op = 1 → l ≤ ceiling ∨ l ≤ s.dbg.level.toNat → s.allHalted = false → ∃ t, exec (.setlevel p) s = .next t
      ∧ t.dbg = { s.dbg with level := BitVec.ofNat 2 l }
      ∧ (l = s.dbg.level.toNat → t.log = s.log ∧ t.cores = s.cores)
      ∧ (l ≠ s.dbg.level.toNat → t.log = (s.logE 0x80 (portKind p) 0 0 0 s.sem.copy.toNat (l + 2 ^ 8 * s.dbg.level.toNat)
          s.dbg.lc.toNat).log ∧ (l = 2 → t.cores = s.cores) ∧ (l < 2 → ∀ c ∈ t.cores, c.halted = false))
      ∧ t = s.executed p q fun x => { x with dbg := t.dbg, log := t.log, cores := t.cores })
    ∧ (op = 1 → ceiling < l → s.dbg.level.toNat < l → exec (.setlevel p) s = .next (s.denied p q codeDENY d))
    ∧ (op = 2 → asking → exec (.challenge p) s = .next (s.busied p q))
    ∧ (op = 2 → ¬ asking → (s.dbg.lc ≠ 2 ∨ (ret = false ∧ l ≠ 2) ∨ 8 ≤ s.dbg.refusals.toNat) →
      exec (.challenge p) s = .next (s.denied p q codeDENY d))
    ∧ (op = 2 → ¬ asking → s.dbg.lc = 2 → (ret = true ∨ l = 2) → s.dbg.refusals.toNat < 8 →
      exec (.challenge p) s = .next (s.executed p q fun x => { x with dbg := { x.dbg with
        state := 1, purpose := if ret then 1 else 0, tlevel := BitVec.ofNat 2 l, source := me, chal := 0, resp := 0 } }))
    ∧ (op = 3 → s.dbg.state ≠ 2 ∨ s.dbg.source ≠ me → exec (.respond p) s = .next (s.denied p q codeDENY d))
    ∧ (op = 3 → s.dbg.state = 2 → s.dbg.source = me → s.dbg.purpose = 1 → s.stopBlocked = true →
      exec (.respond p) s = .next (s.busied p q))
    ∧ (op = 3 → s.dbg.state = 2 → s.dbg.source = me → ¬ (s.dbg.purpose = 1 ∧ s.stopBlocked = true) →
      exec (.respond p) s = .next (s.executed p q fun x => { x with dbg := { x.dbg with state := 3 } }))
    ∧ (op = 4 → ¬ permitted → exec (.advance p) s = .next (s.denied p q codePROT d))
    ∧ (op = 4 → s.dbg.lc = 2 → target = 3 → exec (.advance p) s = .next (s.denied p q codeDENY d))
    ∧ (op = 4 → permitted → s.dbg.lc ≠ 2 → asking ∨ s.stopBlocked = true → exec (.advance p) s = .next (s.busied p q))
    ∧ (op = 4 → permitted → s.dbg.lc ≠ 2 → ¬ asking → s.stopBlocked = false →
      exec (.advance p) s = .next (s.executed p q fun x => { x with dbg := { x.dbg with
        state := 1, purpose := 2, target := BitVec.ofNat 2 target, source := me } }))
    ∧ (op = 5 → asking → exec (.cancel p) s = .next (s.busied p q))
    ∧ (op = 5 → s.dbg.state = 2 → exec (.cancel p) s = .next (s.executed p q fun x => { x with dbg := { x.dbg with
        state := 0, result := 3, chal := 0, resp := 0 } }))
    ∧ (op = 5 → s.dbg.state = 0 → exec (.cancel p) s = .next (s.executed p q id)))

/-- GATEHOUSE_CHALLENGE, GATEHOUSE_ANSWER and GATEHOUSE_TIMEOUT (R352, R353, R360, R361), while the Control domain is awake: the
challenge arrives; a grant of an unlock sets LEVEL to Full, with one DBGLEVEL entry where it changes; a grant of an advance
programs the fuses and begins a Warm reset with LASTCAUSE 4; a refusal counts and makes one entry; STATE returns to IDLE and the
challenge and the response become zero. That LEVEL unchanged makes no entry (notes/assumptions/99), that an advance granted in a
drain or in ENTERING begins no second reset (notes/assumptions/129), that a refused ADVANCE counts in REFUSALS too
(notes/assumptions/100) and the fields of the WARMRESET entry (notes/assumptions/70) are the model's choices. -/
def Obligations.GatehouseAnswers : Prop :=
  ∀ s : State, s.pwr.stopped = false →
    let ended (t : State) (result : BitVec 3) (reason : BitVec 8) : Prop :=
      t.dbg.state = 0 ∧ t.dbg.result = result ∧ t.dbg.reason = reason ∧ t.dbg.chal = 0 ∧ t.dbg.resp = 0
    let refused (t : State) (reason : BitVec 8) : Prop :=
      ended t 2 reason ∧ t.dbg.refusals.toNat = min (s.dbg.refusals.toNat + 1) 255
        ∧ t.log = (s.logE 0x81 (sourceKind s.dbg.source) 0 0 0 s.sem.copy.toNat
            (s.dbg.purpose.toNat + 2 ^ 8 * s.dbg.tlevel.toNat + 2 ^ 16 * s.dbg.target.toNat)
            (reason.toNat + 2 ^ 8 * min (s.dbg.refusals.toNat + 1) 255)).log
        ∧ t = { s with dbg := t.dbg, log := t.log }
    (∀ nonce, s.dbg.state = 1 → s.dbg.purpose ≠ 2 → exec (.gatehouseChallenge nonce) s = .next { s with dbg := { s.dbg with
        state := 2, chal := nonce } })
    ∧ ((s.dbg.state = 1 ∨ s.dbg.state = 3) →
      (∀ reason fuseOk, ∃ t, exec (.gatehouseAnswer false reason fuseOk) s = .next t ∧ refused t reason)
      ∧ (∃ t, exec .gatehouseTimeout s = .next t ∧ refused t 4)
      ∧ (∀ reason fuseOk, s.dbg.state = 3 → s.dbg.purpose = 0 → ∃ t, exec (.gatehouseAnswer true reason fuseOk) s = .next t
        ∧ ended t 1 0 ∧ t.dbg.level = 2 ∧ t.dbg.refusals = s.dbg.refusals
        ∧ (s.dbg.level = 2 → t.log = s.log)
        ∧ (s.dbg.level ≠ 2 → t.log =
          (s.logE 0x80 (sourceKind s.dbg.source) 0 0 0 s.sem.copy.toNat (2 + 2 ^ 8 * s.dbg.level.toNat) s.dbg.lc.toNat).log)
        ∧ t = { s with dbg := t.dbg, log := t.log })
      ∧ (∀ reason, (s.dbg.purpose = 2 ∨ (s.dbg.purpose = 1 ∧ s.dbg.state = 3)) →
        let dest : BitVec 2 := if s.dbg.purpose = 2 then s.dbg.target else 3
        let told := s.logE 0x82 (sourceKind s.dbg.source) 0 0 0 s.sem.copy.toNat dest.toNat s.dbg.lc.toNat
        (∃ t, exec (.gatehouseAnswer true reason true) s = .next t ∧ ended t 1 0 ∧ t.dbg.fuse = dest
          ∧ (s.pwr.phase = .run → t.pwr = { s.pwr with phase := .drain .warm, lastCause := 4 }
            ∧ t.log = (told.logE 0x61 (sourceKind s.dbg.source) 0 0 0 s.sem.gen.toNat 0 4).log)
          ∧ (s.pwr.phase ≠ .run → t = { s with dbg := t.dbg, log := told.log }))
        ∧ (∃ t, exec (.gatehouseAnswer true reason false) s = .next t ∧ refused t 6)))

/-- TAP_TEST_LOGIC_RESET, TAP_UPDATE_IR, LOGREAD and REGACC (R354, R355, R367): a listed instruction that is available is loaded;
one that is not selects the bypass register with one TAPDENY entry; an unlisted one selects the bypass register without one; the
data register takes the entry of the log, or the register that REGACC reads. A REGACC write outside the debug registers needs
Full, and there makes one DBGWRITE entry; below Full it completes with PROT and its entry. REGACC waits while a Lath request is
ready, and executes behind the last one (the step in which it does so is notes/assumptions/166). SAMPLE/PRELOAD, EXTEST and INTEST
take free values into the wrapper boundary register, which they then show (notes/assumptions/165). DENIED 0 and no entry at an
unlisted opcode (notes/assumptions/97) and SEQ 0 of REGACC's entries (notes/assumptions/109) are the model's choices. -/
def Obligations.TapCommands : Prop :=
  ∀ s : State, s.pwr.phase ≠ .noAux →
    (s.testing = false → exec .tapTestLogicReset s = .next { s with tap := { s.tap with ir := 1 } })
    ∧ (s.testing = true → s.pwr.phase = .run → ∃ t, exec .tapTestLogicReset s = .next t ∧ t.tap = { s.tap with ir := 1 }
      ∧ t.pwr = { s.pwr with phase := .drain .warm, lastCause := 4 })
    ∧ (∀ op : BitVec 8, s.testing = true → s.pwr.phase = .run → (s.tapAvailable op.toNat = some true → op ≠ s.tap.ir) →
      ∃ t, exec (.tapUpdateIr op) s = .next t ∧ t.pwr = { s.pwr with phase := .drain .warm, lastCause := 4 }
        ∧ t.tap.ir = (if s.tapAvailable op.toNat = some true then op else 0xFF)
        ∧ t.tap.denied = decide (s.tapAvailable op.toNat = some false))
    ∧ (∀ op : BitVec 8, s.testing = false → s.tapAvailable op.toNat = some true → op ∉ [2, 3, 4] →
      exec (.tapUpdateIr op) s = .next { s with tap := { s.tap with ir := op, denied := false, traceLeft := 256 } })
    ∧ (∀ op : BitVec 8, s.testing = false → s.tapAvailable op.toNat = some true → op ∈ [2, 3, 4] → ∃ t,
      exec (.tapUpdateIr op) s = .next t ∧ t.captureDr = Config.freeValue s.free % 2 ^ Config.boundaryCells
        ∧ t = { s with
            free := s.free + 1
            tap := { s.tap with ir := op, denied := false, traceLeft := 256, boundary := t.captureDr } })
    ∧ (∀ op : BitVec 8, s.testing = false → s.pwr.stopped = false → s.tapAvailable op.toNat = some false →
      ∃ t, exec (.tapUpdateIr op) s = .next t ∧ t.tap = { s.tap with ir := 0xFF, denied := true }
        ∧ (s.log.queue.length < 32 → ∃ e, t.log.queue = s.log.queue ++ [e] ∧ e.w0.toNat % 256 = 0x84
            ∧ e.w1.toNat % 2 ^ 32 = op.toNat)
        ∧ t = { s with tap := t.tap, log := t.log })
    ∧ (∀ op : BitVec 8, s.testing = false → s.tapAvailable op.toNat = none →
      exec (.tapUpdateIr op) s = .next { s with tap := { s.tap with ir := 0xFF, denied := false } })
    ∧ (∀ i : BitVec 8, s.tap.ir = 0x11 → 1 ≤ s.dbg.level.toNat → i.toNat < 128 → ∃ t, exec (.logread i) s = .next t
      ∧ t.tap.dr.toNat = s.log.head.toNat + 2 ^ 8 * s.log.entryWord (2 * i.toNat) + 2 ^ 72 * s.log.entryWord (2 * i.toNat + 1)
      ∧ t = { s with tap := { s.tap with logIndex := i, dr := t.tap.dr } })
    ∧ (∀ (p : Port) (q : LathReq) (x : TapAccess) (r : Reg), s.tap.held = [x] → s.tap.ir = 0x12 → s.pwr.phase = .run →
      s.pwr.stopped = false → (s.lath p).reqs.head? = some q → q.write = false → q.addr.toNat % 8 = 0 → regOf q.addr.toNat = some r →
      (∀ i, r ≠ .window i) → (∀ i, r ≠ .tableView i) → (∀ i, r ≠ .coreView i) → (s.lath p).rsps.length < 8 →
      (s.tie = true → s.first = p) →
      let u : State := (State.popped { s with tap := { s.tap with held := [] } } p).respond p q codeOK (s.readReg (p == .b) r)
      ((∃ o, u.ready o = true) → exec (.lathRead p) s = .next { u with tap := s.tap })
      ∧ ((∀ o, u.ready o = false) → exec (.lathRead p) s = exec (.regacc x.addr x.write x.data x.env) u))
    ∧ (∀ (addr : W32) (data : W64) (env : StartEnv) (r : Reg), s.tap.ir = 0x12 → s.pwr.phase = .run → s.pwr.stopped = false →
      regOf addr.toNat = some r → addr.toNat % 8 = 0 →
      let ready (o : Port) := (s.lath o).reqs ≠ [] ∧ (s.lath o).rsps.length < 8
      let inDebug := 0xC0000 ≤ addr.toNat ∧ addr.toNat ≤ 0xC0078
      let table : List (Reg × (Nat → Nat)) := [
        (.srSeed, fun d => d), (.srStep, fun d => d % 2 ^ 32), (.argsetBase, fun d => d / 2 ^ 6 * 2 ^ 6), (.droopCtl, fun d => d % 2 ^ 4),
        (.chvSel, fun d => d % 2 ^ 13), (.ctxBase, fun d => d / 2 ^ 11 % 2 ^ 7 * 2 ^ 11), (.etSel, fun d => d % 2 ^ 14),
        (.etLoad, fun d => d % 2 ^ 32)]
      (∀ write, (∃ o, ready o) → exec (.regacc addr write data env) s = .next { s with tap := { s.tap with
        held := s.tap.held ++ [⟨addr, write, data, env⟩] } })
      ∧ (s.tap.held = [] → (∀ o, ¬ ready o) →
        (1 ≤ s.dbg.level.toNat → (∀ k, r ≠ .window k) → (∀ k, r ≠ .coreView k) → ∃ t, exec (.regacc addr false data env) s = .next t
          ∧ t.tap.dr = BitVec.ofNat 136 (addr.toNat + 2 ^ 33 * (s.readReg false r % 2 ^ 64))
          ∧ t = { s with tap := { s.tap with dr := t.tap.dr } })
        ∧ (s.dbg.level = 0 → ¬ inDebug → ∃ t, exec (.regacc addr false data env) s = .next t
          ∧ t.tap.dr = BitVec.ofNat 136 (addr.toNat + 2 ^ 97 * 3)
          ∧ t.log = (s.logE 0x31 7 0 0 3 0 addr.toNat 0).log ∧ t = { s with tap := { s.tap with dr := t.tap.dr }, log := t.log })
        ∧ (s.dbg.level.toNat < 2 → ¬ inDebug → ∃ t, exec (.regacc addr true data env) s = .next t
          ∧ t.tap.dr = BitVec.ofNat 136 (addr.toNat + 2 ^ 32 + 2 ^ 97 * 3)
          ∧ t.log = (s.logE 0x31 7 0 0 3 0 addr.toNat data.toNat).log
          ∧ t = { s with tap := { s.tap with dr := t.tap.dr }, log := t.log })
        ∧ (∀ x ∈ table, r = x.1 → s.dbg.level = 2 → s.fullStart = false → ∃ t, exec (.regacc addr true data env) s = .next t
          ∧ (∀ b, t.readReg b r = x.2 data.toNat)
          ∧ (∀ b, ∀ y ∈ table, y.1 ≠ r → t.readReg b y.1 = s.readReg b y.1)
          ∧ t.tap.dr = BitVec.ofNat 136 (addr.toNat + 2 ^ 32)
          ∧ t.log = (s.logE 0x85 7 0 0 0 0 addr.toNat data.toNat).log
          ∧ t = { s with ctl := t.ctl, log := t.log, tap := { s.tap with dr := t.tap.dr } })))

/-- CORETRACE and COREDBG (R354, R357, R367): a core is halted, stepped and resumed with one COREHALT entry each, its SRAM reads
what was written, zero in a data SRAM that R362 has zeroed, and else a free value; nothing else of the block changes, but for a
start that waited for a core (R25), which goes on. A STEP of a running core without an entry (notes/assumptions/98), and the
free words of the trace and of the SRAM with nothing else that a STEP changes (notes/assumptions/105 and 3), are the model's
choices. -/
def Obligations.CoreDebug : Prop :=
  ∀ (core : BitVec 4) (s : State), core.toNat < 10 → s.pwr.stopped = false → s.cores.length = 10 →
    let halted := (s.cores.getD core.toNat Core.reset).halted
    let entry (op : Nat) : ErrLog := (s.logE 0x86 7 0 0 0 0 core.toNat op).log
    (s.tap.ir = 0x20 → 1 ≤ s.dbg.level.toNat → ∃ t, exec (.coretrace core) s = .next t
      ∧ t.tap.traceCore = core ∧ t.tap.traceLeft = (if core = s.tap.traceCore then s.tap.traceLeft else 256) - 1
      ∧ t.free = s.free + 1 ∧ t = { s with free := t.free, tap := t.tap })
    ∧ (s.tap.ir = 0x21 → 2 ≤ s.dbg.level.toNat →
      (∃ t, exec (.coredbgStatus core) s = .next t ∧ t.tap.dr.toNat = 2 ^ 54 * b2n halted
        ∧ t = { s with tap := { s.tap with dr := t.tap.dr } })
      ∧ (∃ t, exec (.coredbgHalt core) s = .next t ∧ t.tap.dr.toNat = 2 ^ 54 ∧ t.log = entry 1
        ∧ (∀ i, (t.cores.getD i Core.reset) = if i = core.toNat then { s.cores.getD i Core.reset with halted := true }
            else s.cores.getD i Core.reset)
        ∧ t = { s with tap := { s.tap with dr := t.tap.dr }, log := t.log, cores := t.cores })
      ∧ (∃ t, exec (.coredbgStep core) s = .next t ∧ t.tap.dr.toNat = 2 ^ 54 * b2n halted
        ∧ t.log = (if halted then entry 2 else s.log) ∧ t = { s with tap := { s.tap with dr := t.tap.dr }, log := t.log })
      ∧ (s.allHalted = false ∨ s.img.start = none → ∃ t, exec (.coredbgResume core) s = .next t ∧ t.tap.dr.toNat = 0 ∧ t.log = entry 3
        ∧ (∀ i, (t.cores.getD i Core.reset) = if i = core.toNat then { s.cores.getD i Core.reset with halted := false }
            else s.cores.getD i Core.reset)
        ∧ t = { s with tap := { s.tap with dr := t.tap.dr }, log := t.log, cores := t.cores })
      ∧ (s.allHalted = true → exec (.coredbgResume core) s = .next
        ((((s.setHalt core.toNat false).logE 0x86 7 0 0 0 0 core.toNat 3).runStart).coreDr core.toNat 0))
      ∧ (∀ word : BitVec 14, ∃ t, exec (.coredbgRead core word) s = .next t
        ∧ (let x := s.cores.getD core.toNat Core.reset
           let value := match x.sram.find? fun y => y.1 == word.toNat with
             | some y => y.2.toNat
             | none => if x.zeroed = true ∧ 8192 ≤ word.toNat then 0 else Config.freeValue s.free % 2 ^ 32
           t.tap.dr.toNat = 2 ^ 22 * value + 2 ^ 54 * b2n halted)
        ∧ t = { s with free := s.free + 1, tap := { s.tap with dr := t.tap.dr } })
      ∧ (∀ word (data : W32), ∃ t u, exec (.coredbgWrite core word data) s = .next t
        ∧ t = { s with tap := { s.tap with dr := t.tap.dr }, cores := t.cores }
        ∧ exec (.coredbgRead core word) t = .next u ∧ u.tap.dr.toNat = 2 ^ 22 * data.toNat + 2 ^ 54 * b2n halted
        ∧ (∀ w, w ≠ word.toNat → (t.cores.getD core.toNat Core.reset).sram.find? (fun x => x.1 == w)
            = (s.cores.getD core.toNat Core.reset).sram.find? fun x => x.1 == w)
        ∧ (∀ i, i ≠ core.toNat → t.cores.getD i Core.reset = s.cores.getD i Core.reset)
        ∧ u = { t with free := t.free + 1, tap := { t.tap with dr := u.tap.dr } }))

/-! ### Tiles -/

/-- SI_HEADER (R230, R232, R234, R235, R313): a header inside the window takes its free slot with its fields as R230 lays them
out and one credit; any other is discarded with one SEQWIN entry, and one that comes in a Stop entry with one STOPDROP entry. -/
def Obligations.SiHeaders : Prop :=
  ∀ (n : Fin 32) (hdr : Beat) (s : State), s.pwr.stopped = false → (s.bay n.val).siRst = false → s.testing = false →
    let h := hdr.toNat
    let b := s.bay n.val
    let seq : W32 := BitVec.ofNat 32 (h % 2 ^ 32)
    let chain := h / 2 ^ 32 % 2 ^ 12
    let base := h / 2 ^ 44 % 2 ^ 18
    let elem0 := h / 2 ^ 64 % 2 ^ 32
    let occupied := ∃ u ∈ b.tiles, u.seq.toNat % 64 = seq.toNat % 64
    let drops := s.pwr.phase = .saved ∨ s.pwr.phase = .drain .faultStop ∨ ∃ v, s.pwr.phase = .entering v
    (¬ drops → ¬ occupied → (seq - b.next).toNat < 64 → ∃ u : Tile,
      exec (.siHeader n hdr) s = .next (s.mapBay n.val fun x => { x with
        tiles := x.tiles ++ [u], hdrCredits := x.hdrCredits - 1 })
      ∧ u.seq = seq ∧ u.chain.toNat = chain ∧ u.ctxBase.toNat = base ∧ u.elem0.toNat = elem0
      ∧ u.beats.toNat = h / 2 ^ 96 % 2 ^ 13 ∧ u.eor = h.testBit 109 ∧ u.overwrite = h.testBit 110
      ∧ u.shift.toNat = h / 2 ^ 111 % 4 ∧ u.infmt.toNat = h / 2 ^ 113 % 16 ∧ u.bgrp.toNat = h / 2 ^ 120 % 256
      ∧ u.chunk.toNat = h / 2 ^ 128 % 2 ^ 24 ∧ u.argset.toNat = h / 2 ^ 152 % 2 ^ 16
      ∧ u.status = .waiting ∧ u.granted = 0 ∧ u.arrived = 0 ∧ u.data = [])
    ∧ (¬ drops → occupied ∨ 64 ≤ (seq - b.next).toNat →
      exec (.siHeader n hdr) s = .next (s.logE 0x14 0 n.val chain 0 seq.toNat base elem0))
    ∧ (drops → exec (.siHeader n hdr) s = .next ((s.logE 0x63 0 n.val 0 0 seq.toNat base chain).mapBay n.val fun x =>
        { x with hdrCredits := x.hdrCredits - 1 }))

/-- SI_BEAT, SI_LAST and SI_RESERVED_KIND (R231, R233, R234, R240, R369): a beat in its place is stored, or discarded when its tile
is refused or ended; a protocol error of a BEAT or a LAST refuses a tile not yet admitted and ends an admitted one, and a transfer
that its tile does not await is discarded; each error makes one SIPROTO entry, that of a refused tile at the tile's retirement
(notes/assumptions/30: the model's choice). A lost bay discards the beats of its tiles, a LAST still ends the wait of its tile, and
a transfer whose slot holds no tile is logged there too (R341). The model's choices: the marks that a SIPROTO refusal takes back
(notes/assumptions/41), the LAST in a lost bay (103), the free fields of an entry without a tile and the LAST of a refused one
(10, 11), and what a group that stands between two passes of a SEGCTX chain does when its tile ends (9). -/
def Obligations.SiTransfers : Prop :=
  ∀ (n : Fin 32) (tag : BitVec 6) (data : Beat) (s : State), s.pwr.stopped = false → (s.bay n.val).siRst = false →
    s.testing = false →
    let b := s.bay n.val
    let discarded (t : State) : Prop := ∃ e : LogEntry, t.log = (s.pushLog e).log ∧ e.w0.toNat % 256 = 0x13
      ∧ e.w0.toNat / 2 ^ 11 % 32 = n.val ∧ t = { s with log := t.log, free := t.free }
    (b.tile? tag.toNat = none →
      (∃ t, exec (.siBeat n tag data) s = .next t ∧ discarded t)
      ∧ (∀ ovf, ∃ t, exec (.siLast n tag ovf data) s = .next t ∧ discarded t)
      ∧ ∃ t, exec (.siReservedKind n tag) s = .next t ∧ discarded t)
    ∧ (∀ u, b.tile? tag.toNat = some u →
      let set (t : State) (f : Tile → Tile) : State := t.mapBay n.val fun x => x.mapTile tag.toNat f
      let logged := s.logE 0x13 0 n.val u.chain.toNat 0 u.seq.toNat u.ctxBase.toNat u.elem0.toNat
      exec (.siReservedKind n tag) s = .next logged
      ∧ (s.isLost n.val = true → exec (.siBeat n tag data) s = .next s
        ∧ ∀ ovf, exec (.siLast n tag ovf data) s = .next (set s fun y => { y with lastSeen := true }))
      ∧ (s.isLost n.val = false →
      let awaits := u.arrived < u.beats.toNat ∧ u.lastSeen = false
      let act (e : Bool) := ∃ a, b.act = some a ∧ a.ended = e
      let stores := u.status = .accepted ∨ (u.status = .admitted ∧ act false)
      let drops := (∃ c e, u.status = .refused c e) ∨ (u.status = .admitted ∧ act true)
      let lastPlace := u.arrived + 1 = u.beats.toNat
      let early := u.status = .waiting ∨ u.status = .accepted
      let refusedBy (i : Instr) (last : Bool) : Prop := ∃ t w, exec i s = .next t
        ∧ (t.bay n.val).tile? tag.toNat = some w ∧ w.data = [] ∧ w.lastSeen = last
        ∧ w.status = .refused 0x13 (some (BitVec.ofNat 32 u.ctxBase.toNat, u.elem0))
        ∧ t = { s with bays := t.bays, groups := if u.status = .accepted then (s.unmark u).groups else s.groups }
      (awaits → stores → u.arrived < u.granted →
        (¬ lastPlace → exec (.siBeat n tag data) s = .next (set s fun y =>
          { y with arrived := y.arrived + 1, data := y.data ++ [data] }))
        ∧ ∀ ovf, lastPlace → exec (.siLast n tag ovf data) s = .next (set s fun y =>
          { y with arrived := y.arrived + 1, data := y.data ++ [data], lastSeen := true, ovf := ovf }))
      ∧ (awaits → drops → u.arrived < u.granted →
        (¬ lastPlace → exec (.siBeat n tag data) s = .next (set s fun y => { y with arrived := y.arrived + 1 }))
        ∧ ∀ ovf, lastPlace → exec (.siLast n tag ovf data) s = .next (set s fun y =>
          { y with arrived := y.arrived + 1, lastSeen := true, ovf := ovf }))
      ∧ (u.status = .accepted ∨ u.status = .admitted → ¬ awaits → exec (.siBeat n tag data) s = .next logged
        ∧ ∀ ovf, exec (.siLast n tag ovf data) s = .next logged)
      ∧ (awaits → u.status = .admitted → act false →
        let issued := logged.finishIssued n.val
        let ended := issued.mapBay n.val fun x => { x with act := x.act.map fun a => { a with ended := true } }
        ((∀ p ∈ b.activeTile, p.1.pass = 0 ∨ (chainOf p.2.words).segctx = none) → issued = logged)
        ∧ (u.granted ≤ u.arrived ∨ lastPlace → exec (.siBeat n tag data) s = .next ended)
        ∧ ∀ ovf, u.granted ≤ u.arrived ∨ ¬ lastPlace → exec (.siLast n tag ovf data) s = .next ended)
      ∧ (awaits → early → (u.granted ≤ u.arrived ∨ lastPlace → refusedBy (.siBeat n tag data) false)
        ∧ ∀ ovf, u.granted ≤ u.arrived ∨ ¬ lastPlace → refusedBy (.siLast n tag ovf data) true)
      ∧ (awaits → drops → (u.granted ≤ u.arrived ∨ lastPlace → exec (.siBeat n tag data) s = .next logged)
        ∧ ∀ ovf, u.granted ≤ u.arrived ∨ ¬ lastPlace → exec (.siLast n tag ovf data) s = .next (set logged fun y =>
          { y with lastSeen := true }))))

/-- BEAT_CREDIT_GRANT (R219, R233, R240): NEXT may take any entry that is not held or granted; the other tiles together keep to 512
entries and are served in increasing order, so that none of them is granted credits while an earlier one still lacks beats; a
tile that is refused, or skipped under R219, is granted credits without entries; one that waits, that an error has ended or that
BAYLOST has refused is granted none (R341, R369). -/
def Obligations.BeatCredits : Prop :=
  ∀ (n : Fin 32) (tag k : BitVec 6) (u : Tile) (s : State), (s.bay n.val).tile? tag.toNat = some u → s.pwr.phase = .run →
    s.bayOn n.val = true → (∀ q ∈ s.spare.preps, q.2 ≠ n.val) → (s.tileChain n.val u).insrc = false →
    1 ≤ k.toNat → k.toNat ≤ 32 → u.granted + k.toNat ≤ u.beats.toNat →
    let b := s.bay n.val
    let others := ((b.tiles.filter fun x => x.seq ≠ b.next).map b.entriesOf).sum
    let all := (b.tiles.map b.entriesOf).sum
    let given : State := s.mapBay n.val fun x => x.mapTile tag.toNat fun y => { y with granted := y.granted + k.toNat }
    let live := u.status = .accepted ∨ (u.status = .admitted ∧ ∃ a, b.act = some a ∧ a.ended = false)
    (live → u.seq = b.next → all + k.toNat ≤ 1024 → exec (.beatCreditGrant n tag k) s = .next given)
    ∧ (live → u.seq ≠ b.next → all + k.toNat ≤ 1024 → others + k.toNat ≤ 512 →
      (∀ x ∈ b.tiles, x.seq ≠ b.next → x.status = .accepted → (x.seq - b.next).toNat < (u.seq - b.next).toNat →
        x.taken = x.beats.toNat) → exec (.beatCreditGrant n tag k) s = .next given)
    ∧ (live → u.seq ≠ b.next → (∃ x ∈ b.tiles, x.seq ≠ b.next ∧ x.status = .accepted
      ∧ (x.seq - b.next).toNat < (u.seq - b.next).toNat ∧ x.taken ≠ x.beats.toNat) → exec (.beatCreditGrant n tag k) s = .next s)
    ∧ (live → u.seq ≠ b.next → 512 < others + k.toNat → exec (.beatCreditGrant n tag k) s = .next s)
    ∧ (live → 1024 < all + k.toNat → exec (.beatCreditGrant n tag k) s = .next s)
    ∧ (∀ c e, u.status = .refused c e → c ≠ 0x74 → exec (.beatCreditGrant n tag k) s = .next given)
    ∧ (u.status = .skipped → exec (.beatCreditGrant n tag k) s = .next given)
    ∧ (u.status = .waiting ∨ (u.status = .admitted ∧ b.endedTile u = true) ∨ (∃ e, u.status = .refused 0x74 e) →
      exec (.beatCreditGrant n tag k) s = .next s)

/-- TILE_ACCEPTANCE and the read of a direct tile's argument set (R133, R150, R227, R239, R240, R341): a tile that meets no
check of 1 to 7 becomes a bond instance with its chain entry and its marks; one that fails is refused with that cause; a lost
bay refuses with BAYLOST; at 1,024 instances a header that adds another one waits; check 8 lets an accepted direct tile whose
argument set has come go on. That instances are counted by operation is notes/assumptions/68, and that a refusal's entry waits
with the tile until it retires is notes/assumptions/30: the model's choices. -/
def Obligations.TileAcceptance : Prop :=
  (∀ (n : Fin 32) (slot : BitVec 6) (u : Tile) (s : State), (s.bay n.val).tile? slot.toNat = some u → u.status = .accepted →
    u.argArrived = true → u.argDone = false → u.bgrp = 0 → s.argCause n.val u (chainOf u.words) = none →
    exec (.argumentRead n slot) s = .next (s.mapBay n.val fun b => b.mapTile slot.toNat fun x => { x with argDone := true }))
  ∧ ∀ (n : Fin 32) (slot : BitVec 6) (u : Tile) (s : State), (s.bay n.val).tile? slot.toNat = some u → u.status = .waiting →
    s.pwr.phase = .run → s.Canonical →
    let run := exec (.tileAcceptance n slot) s
    let im := s.wingImage (westBay n.val)
    let begins := (s.bay n.val).adds u ((im.find u.chain).getD [])
    let refused (cause : BitVec 8) (where_ aux : Nat) : Prop := ∃ t w, run = .next t
      ∧ (t.bay n.val).tile? slot.toNat = some w
      ∧ w.status = .refused cause (some (BitVec.ofNat 32 where_, BitVec.ofNat 32 aux)) ∧ w.data = []
      ∧ (s.poison = [] → t.log = s.log ∧ t.groups = s.groups)
      ∧ t = { s with bays := t.bays, groups := t.groups, log := t.log }
    (s.isLost n.val = true → refused 0x74 u.ctxBase.toNat u.elem0.toNat)
    ∧ (s.isLost n.val = false → s.bayOn n.val = false ∨ s.wingReady n.val = false → run = .next s)
    ∧ (s.isLost n.val = false → s.bayOn n.val = true → s.wingReady n.val = true →
      (u.reserved = true ∨ 14 ≤ u.infmt.toNat ∨ u.beats = 0 ∨ 4096 < u.beats.toNat
          ∨ 2 ^ 32 < u.elem0.toNat + u.beats.toNat → refused 0x01 u.ctxBase.toNat u.elem0.toNat)
      ∧ (∀ cause where_, s.checkAccept n.val u = some (cause, where_) →
        refused (BitVec.ofNat 8 cause) where_ (if cause = 0x12 then 0 else u.elem0.toNat))
      ∧ (s.checkAccept n.val u = none → 1024 ≤ s.instances → begins = true → run = .next s)
      ∧ (s.checkAccept n.val u = none → s.instances < 1024 ∨ begins = false → (s.gn.state = 3 → s.gated u.chain = false) → s.poison = [] →
        ∃ t w words, run = .next t ∧ (t.bay n.val).tile? slot.toNat = some w
          ∧ im.find u.chain = some words ∧ w.status = .accepted ∧ w.words = words
          ∧ (u.bgrp ≠ 0 → t.group u.bgrp.toNat = { s.group u.bgrp.toNat with
              marks := (t.group u.bgrp.toNat).marks }
            ∧ ∀ course q, (course, q) ∈ (t.group u.bgrp.toNat).marks ↔ (course, q) ∈ (s.group u.bgrp.toNat).marks
              ∨ (course = (s.group u.bgrp.toNat).course u.ctxBase.toNat
                ∧ q ∈ u.chunks (s.group u.bgrp.toNat).chunkSize))
          ∧ (∀ g, g ≠ u.bgrp.toNat ∨ g = 0 → t.group g = s.group g)
          ∧ t = { s with bays := t.bays, groups := t.groups }))

/-- MEMORY_READ_RESPONSE and ARGUMENT_READ (R154, R231, R233, R239, R240): the bytes returned are what the block sees of memory; the
tile takes its eight argument words from ARGSET_BASE + 64 × ARGSET, or its next input beat while the Hod has an entry for it, or its
second input; check 8 lets the tile go on, or refuses it and takes back its marks. The model's choices: when the argument set, the
arrays that it names and the input beats are read, and that a read shows memory as the response leaves it (notes/assumptions/53, 54,
55); that a conflict of segment contexts, which only the argument set shows, is found here (124). -/
def Obligations.ArgumentReads : Prop :=
  ∀ (n : Fin 32) (slot : BitVec 6) (u : Tile) (s : State), (s.bay n.val).tile? slot.toNat = some u →
    let gated := s.gated u.chain = true ∧ s.gn.state ≠ 2
    let live := u.status = .accepted ∨ (u.status = .admitted ∧ ∃ a, (s.bay n.val).act = some a ∧ a.ended = false)
    (∀ (port : Fin 4) (data : List (Nat × Byte)), s.pwr.stopped = false →
      let m := memSetMany s.mem data
      let seen (f : Tile → Tile) : State := ({ s with mem := m } : State).mapBay n.val fun b => b.mapTile slot.toNat f
      (u.status = .accepted → u.argArrived = false → ¬ gated →
        exec (.memoryReadResponse port (.argSet n slot) data) s = .next (seen fun x => { x with
          argArrived := true
          args := (List.range 8).map fun i =>
            BitVec.ofNat 64 (memRead m (s.ctl.argsetBase.toNat + 64 * u.argset.toNat + 8 * i) 8)
          view := m }))
      ∧ (live → u.argDone = true → (chainOf u.words).insrc = true → u.arrived < u.beats.toNat →
          (s.bay n.val).room u 1 = true →
        exec (.memoryReadResponse port (.inputBeat n slot) data) s = .next (seen fun x => { x with
          arrived := x.arrived + 1
          data := x.data ++ [inputBeat m u (chainOf u.words) u.arrived]
          lastSeen := x.lastSeen || decide (u.arrived + 1 = u.beats.toNat) }))
      ∧ (live → u.argDone = true → (chainOf u.words).secen = true → u.secondRead < u.beats.toNat →
        exec (.memoryReadResponse port (.second n slot) data) s = .next (seen fun x => { x with
          secondRead := x.secondRead + 1 })))
    ∧ (u.status ≠ .accepted ∨ u.argArrived = false ∨ u.argDone = true → exec (.argumentRead n slot) s = .next s)
    ∧ (u.status = .accepted → u.argArrived = true → u.argDone = false →
      (s.argCause n.val u (chainOf u.words) = none → u.bgrp = 0 ∨ (chainOf u.words).segctx = none →
          exec (.argumentRead n slot) s = .next (s.mapBay n.val fun b => b.mapTile slot.toNat fun x => { x with argDone := true }))
      ∧ (s.argCause n.val u (chainOf u.words) = none → u.bgrp ≠ 0 → (chainOf u.words).segctx.isSome = true → s.Canonical →
        ∃ t, exec (.argumentRead n slot) s = .next t
          ∧ (t.bay n.val) = (s.bay n.val).mapTile slot.toNat (fun x => { x with argDone := true })
          ∧ t.group u.bgrp.toNat = { s.group u.bgrp.toNat with spans := (t.group u.bgrp.toNat).spans }
          ∧ (∀ g, g ≠ u.bgrp.toNat → t.group g = s.group g)
          ∧ t = { s with bays := (s.mapBay n.val fun b => b.mapTile slot.toNat fun x => { x with argDone := true }).bays
                         groups := t.groups })
      ∧ (∀ cause, s.checkArgs u (chainOf u.words) = some cause →
        s.argCause n.val u (chainOf u.words) = some (cause, u.ctxBase.toNat))
      ∧ (∀ cause where_, s.argCause n.val u (chainOf u.words) = some (cause, where_) → ∃ t w, exec (.argumentRead n slot) s = .next t
        ∧ (t.bay n.val).tile? slot.toNat = some w ∧ w.data = []
        ∧ w.status = .refused (BitVec.ofNat 8 cause) (some (BitVec.ofNat 32 where_,
            BitVec.ofNat 32 (if cause = 0x12 then 0 else u.elem0.toNat)))
        ∧ (s.poison = [] → t.groups = (s.unmark u).groups ∧ t.log = s.log)
        ∧ t = { s with bays := t.bays, groups := t.groups, log := t.log }))

/-- TILE_ADMISSION (R19, R51, R174, R175, R219, R236): the tile whose SEQ is NEXT takes empty lanes with its staging copy and the
seed sampled then, or lanes whose registers carry over; one that carries on an operation that was written back before its header
came finds the list buffers, segment runs and, in a bonded operation, the extrema again (notes/assumptions/29: the model's
choice); an overflowed delivery is discarded for replay, or admitted with one REPLAYSAT entry when its SHIFT is 3; under STATE
SKIP a gated tile is discarded, and keeps its acceptance marks (notes/assumptions/42: the model's choice); a tile that brings in a
segment whose contexts are poisoned is refused with ECCLOSS, one entry and its marks taken back (R192, R240, R338; that the
contexts are held against the marks at admission is notes/assumptions/159, the model's choice). -/
def Obligations.TileAdmission : Prop :=
  ∀ (n : Fin 32) (u : Tile) (s : State), (s.bay n.val).nextTile? = some u → u.status = .accepted → s.pwr.phase = .run →
    let b := s.bay n.val
    let c := chainOf u.words
    let run := exec (.tileAdmission n) s
    let admitted (t : State) : Prop := ∃ w, (t.bay n.val).tile? u.slot = some w ∧ w = { u with status := .admitted, staged := [] }
      ∧ (t.bay n.val).act = some ⟨u.seq, s.ctl.srSeed, s.ctl.srStep, 0, 0, 0, false⟩
      ∧ (t.bay n.val).egress = b.egress ++ (if c.toSo then [tokenOpen u c] else []) ∧ (t.bay n.val).resume = none
      ∧ (∀ i, i ≠ n.val → t.bay i = s.bay i)
    let start (x : RowCtx) : RowCtx := if u.overwrite = true ∨ u.bgrp ≠ 0 then x.initial else x
    let taken (t : State) : Prop := (t.bay n.val).lanes.length = u.staged.length
      ∧ ∃ h, (t.bay n.val).held = some h ∧ h.ctxBase = u.ctxBase ∧ h.chain = u.chain ∧ h.bgrp = u.bgrp ∧ h.overwrite = u.overwrite
        ∧ h.carry = true ∧ h.chunks = u.chunks (s.group u.bgrp.toNat).chunkSize
        ∧ ((∀ k ls, b.resume = some (k, ls) → u.carries k = false) → h.segCtx = none
          ∧ ∀ (r : Nat) (x : RowCtx) (l : Lane), u.staged[r]? = some x → (t.bay n.val).lanes[r]? = some l →
            l.ctx = start x ∧ l.topk = [] ∧ l.segs = [])
        ∧ (∀ k ls, b.resume = some (k, ls) → u.carries k = true → h.segCtx = k.segCtx
          ∧ (k.segCtx = none → ∀ (r : Nat) (x : RowCtx) (l y : Lane), u.staged[r]? = some x → (t.bay n.val).lanes[r]? = some l →
            ls[r]? = some y → l.topk = y.topk ∧ l.segs = y.segs
            ∧ l.ctx = if u.bgrp ≠ 0 then { start x with maxv := y.ctx.maxv, minv := y.ctx.minv } else start x))
    let ready := b.act = none ∧ u.argDone = true ∧ s.bayOn n.val = true
      ∧ (∀ q ∈ s.spare.preps, q.2 ≠ n.val) ∧ (s.gated u.chain = true → s.gn.state = 2) ∧ (c.has opOVFCHK = true → u.lastSeen = true)
    let inLanes (x : Nat) : Prop := ∃ h q sg, b.held = some h ∧ h.segCtx = some (q, sg) ∧ x = q + 256 * sg
    let clean := ∀ x ∈ u.segCourses c, ¬ inLanes x → ∀ i, i < 256 → x + i ∉ s.poison
    let takes := (b.held = none ∧ u.staged ≠ []) ∨ ∃ h, b.held = some h ∧ u.carries h = true
    (∀ x i, s.gn.state ≠ 3 → takes → ready → x ∈ u.segCourses c → ¬ inLanes x → i < 256 → x + i ∈ s.poison →
      (∀ y ∈ u.segCourses c, y < x → inLanes y ∨ ∀ j, j < 256 → y + j ∉ s.poison) → (∀ j, j < i → x + j ∉ s.poison) →
      ∃ t w, run = .next t
        ∧ (t.bay n.val).tile? u.slot = some w ∧ w.status = .refused 0x72 none ∧ w.data = [] ∧ (t.bay n.val).act = none
        ∧ (s.poison = [x + i] → (∀ y ∈ b.tiles, y.isAccepted = true → ∀ j, j < 256 → y.base + j ≠ x + i) →
          t.log = (s.logE 0x72 5 0 u.chain.toNat 0 u.seq.toNat
              (2 + 2 ^ 8 * (s.spare.ctxBank (x + i)).1 + 2 ^ 16 * (s.spare.ctxBank (x + i)).2) (x + i)).log
          ∧ t.groups = (s.unmark u).groups)
        ∧ t = { s with bays := t.bays, groups := t.groups, log := t.log })
    ∧ (∀ h, s.gn.state ≠ 3 → b.held = some h → u.carries h = true → ready → clean → ¬ (c.has opOVFCHK = true ∧ u.ovf = true) →
      ∃ t k, run = .next t ∧ admitted t ∧ t = { s with bays := t.bays } ∧ (t.bay n.val).held = some k
        ∧ k = { h with
            chunks := h.chunks ++ u.chunks (s.group u.bgrp.toNat).chunkSize, courses := k.courses, totals := k.totals, tile := k.tile }
        ∧ (t.bay n.val).lanes.length = b.lanes.length
        ∧ ∀ (r : Nat) (l y : Lane), b.lanes[r]? = some l → (t.bay n.val).lanes[r]? = some y → y = { l with etRead := y.etRead })
    ∧ (s.gn.state ≠ 3 → b.held = none → u.staged ≠ [] → ready → clean →
      (¬ (c.has opOVFCHK = true ∧ u.ovf = true) → ∃ t, run = .next t ∧ admitted t ∧ taken t ∧ t = { s with bays := t.bays })
      ∧ (c.has opOVFCHK = true → u.ovf = true → u.shift = 3 → ∃ t, run = .next t ∧ admitted t ∧ taken t
        ∧ t.log = (s.logE 0x0B 0 n.val u.chain.toNat 0 u.seq.toNat u.ctxBase.toNat u.elem0.toNat).log
        ∧ t = { s with bays := t.bays, log := t.log })
      ∧ (c.has opOVFCHK = true → u.ovf = true → u.shift ≠ 3 → ∃ t, run = .next t
        ∧ (t.bay n.val).egress = b.egress ++ [tokenReplay u.seq (u.shift.toNat + 1)]
        ∧ (t.bay n.val).replay = some (u.seq, u.shift + 1) ∧ (t.bay n.val).tile? u.slot = none
        ∧ (t.bay n.val).next = b.next ∧ (t.bay n.val).hdrCredits = b.hdrCredits + 1 ∧ (t.bay n.val).act = none
        ∧ (s.poison = [] → t.groups = (s.unmark u).groups ∧ t.log = s.log)
        ∧ t = { s with bays := t.bays, groups := t.groups, log := t.log }))
    ∧ (s.gn.state ≠ 3 → b.act.isSome = true ∨ u.argDone = false ∨ (s.gated u.chain = true ∧ s.gn.state ≠ 2)
        ∨ (b.held = none ∧ u.staged = []) → run = .next s)
    ∧ (s.gn.state = 3 → s.gated u.chain = true → ∃ t w, run = .next t ∧ (t.bay n.val).nextTile? = some w ∧ w.status = .skipped
      ∧ (t.bay n.val).act = b.act ∧ t = { s with bays := t.bays })

/-- ISSUE_GROUP (R17, R237): an issue group whose beats have arrived passes the lanes for one pass, and the next group and pass
follow the order of R237; a group that has not arrived, or a full egress queue, waits (that a group waits at 32 entries and stalls
behind them with what it makes is notes/assumptions/23: the model's choice). Nothing outside the listed parts changes; before the
memory ports come no writes but the tile's own output and its records, and none of a kind that the chain does not make. What a
group computes is shown for one beat in one pass: ROUND converts each lane's element, its decoded pattern scaled by the delivery's
SHIFT, once into its target, FP32 among them, under every rounding mode, SR with the draw of R49 (R39, R47, R53 to R57, R174), and
the code leaves on SO or stands in memory at the row's place (R155); under Once, FUNC or SCALE and then ROUND round the exact
result once (R77, R160, R166); of chains without output EXTREMA and PIVOT update the lane's registers (R43, R116, R117); and at
the end of a chunk of a bonded tile each row's leaf joins the tree, and PIVOT and PSUM start afresh (R127, R134). -/
def Obligations.IssueGroups : Prop :=
  ∀ (n : Fin 32) (a : Active) (u : Tile) (s : State), (s.bay n.val).activeTile = some (a, u) →
    let c := chainOf u.words
    let run := exec (.issueGroup n) s
    let hi := min ((a.group + 1) * c.group) u.beats.toNat
    let groups := (u.beats.toNat + c.group - 1) / c.group
    let finished := a.ended = true ∨ (c.oneTile = true ∧ c.passes ≤ a.pass) ∨ (c.oneTile = false ∧ groups ≤ a.group)
    let held := u.data.length < hi ∨ (c.secen = true ∧ u.secondRead < hi) ∨ 32 ≤ (s.bay n.val).soq.length
    let lanes := (s.bay n.val).lanes
    let size := (s.group u.bgrp.toNat).chunkSize
    let chunkEnds := u.bgrp ≠ 0 ∧ (u.elem0.toNat + a.group + 1) % size = 0
    let oneBeat := c.passes = 1 ∧ c.group = 1 ∧ c.secen = false ∧ c.oneTile = false ∧ a.pass = 0
      ∧ a.group + 1 < u.beats.toNat ∧ (s.bay n.val).held.isSome = true ∧ lanes ≠ [] ∧ ∀ l ∈ lanes, l.elems = []
    let x (r : Nat) : Machine.Num := (decode c.infmt (beatCode c.infmt r (u.data.getD a.group 0))).scale u.shift.toNat
    let plain (w : Nat) := stPass w = 0 ∧ stIn w = 0 ∧ stDst w = 0
    let rounds (w : Nat) := stOp w = opROUND ∧ plain w ∧ stScale w = 0 ∧ stRnd w < 5 ∧ stSfmt w < 0xC
    let draw (w i : Nat) (l : Lane) : Nat := if stRnd w = 4 then
        srDraw a.seed (BitVec.ofNat 32 (u.elem0.toNat + a.group)) l.tag (srC2 u.chain.toNat i) a.step
      else 0
    let codes (w i : Nat) (y : Nat → Machine.Num) : List Nat := lanes.zipIdx.map fun p =>
      encode (stSfmt w) (convert (stSfmt w) (stRnd w) (draw w i p.1) (bit w 27) (y p.2))
    let sends (t : State) (w i : Nat) (y : Nat → Machine.Num) : Prop :=
      (t.bay n.val).egress = (s.bay n.val).egress ++ [⟨0, packBeat (stSfmt w) (codes w i y)⟩]
    let stores (t : State) (w i : Nat) (y : Nat → Machine.Num) : Prop :=
      (t.bay n.val).egress = (s.bay n.val).egress
      ∧ s.Puts t [⟨.tile n.val u.seq, ((codes w i y).zipIdx.map fun p => bitCells (argRow (u.arg c.outarg) p.2)
          (fmtWidth (stSfmt w) * a.group) (fmtWidth (stSfmt w)) p.1).flatten⟩]
    (finished ∨ held → run = .next s)
    ∧ (¬ finished → ¬ held → ∃ t y, run = .next t ∧ (t.bay n.val).act = some y
      ∧ y.seq = a.seq ∧ y.seed = a.seed ∧ y.step = a.step ∧ y.ended = a.ended
      ∧ (c.oneTile = false → a.pass + 1 < c.passes → y.group = a.group ∧ y.pass = a.pass + 1)
      ∧ (c.oneTile = false → c.passes ≤ a.pass + 1 → y.group = a.group + 1 ∧ y.pass = 0)
      ∧ (c.oneTile = true → a.group + 1 < groups → y.group = a.group + 1 ∧ y.pass = a.pass)
      ∧ (c.oneTile = true → groups ≤ a.group + 1 → y.group = 0 ∧ y.pass = a.pass + 1)
      ∧ (oneBeat → ¬ chunkEnds → ∀ w, c.stages = [w] → rounds w → (c.out = 1 → sends t w 0 x)
        ∧ (c.out = 2 → s.mpq.length = 4 → (∀ r, s.aperture (argRow (u.arg c.outarg) r) = none) → stores t w 0 x))
      ∧ (oneBeat → ¬ chunkEnds → c.out = 1 → c.staged = false → ∀ f w, c.stages = [f, w] → plain f → rounds w →
        (stOp f = opFUNC → bit f 29 = false → sends t w 1 fun r =>
          evalFunc (s.wingImage (westBay n.val)).tables (bits f 28 24) (toBond (x r)) 0)
        ∧ (stOp f = opSCALE → bits f 26 24 = 0 → bits f 32 30 = 0 → bits f 29 27 = 0 → sends t w 1 fun r =>
          let k := decode 0 (u.arg (stArgi f) % 2 ^ 32)
          Machine.Num.add (decide (stRnd w = 3)) ((toBond (x r)).mul k) (decode 0 (u.arg 0 % 2 ^ 32))))
      ∧ (oneBeat → c.out = 0 → ∀ w, c.stages = [w] → plain w → ∀ (r : Nat) (l : Lane), lanes[r]? = some l →
        let v := toBond (x r)
        let seen : RowCtx := { l.ctx with nanSeen := l.ctx.nanSeen || v.isNan, infSeen := l.ctx.infSeen || v.isInf }
        let top : BitVec 24 := if v.isFinite = false then l.ctx.pivot
          else if l.ctx.pivot = 0x800000 then BitVec.ofInt 24 (pivotOf v)
          else BitVec.ofInt 24 (max l.ctx.pivot.toInt (pivotOf v))
        (¬ chunkEnds → stOp w = opEXTREMA → bit w 24 = true → bit w 25 = true → (t.bay n.val).lanes[r]? = some { l with
          ctx := { seen with
            maxv := toF32 (Num.max (ofF32 l.ctx.maxv) (ofF32 (toF32 v)))
            minv := toF32 (Num.min (ofF32 l.ctx.minv) (ofF32 (toF32 v))) } })
        ∧ (¬ chunkEnds → stOp w = opPIVOT → (t.bay n.val).lanes[r]? = some { l with ctx := { seen with pivot := top } })
        ∧ (chunkEnds → stOp w = opPIVOT → c.segctx = none → ∃ z, (t.bay n.val).lanes[r]? = some z
          ∧ z.ctx = { seen with pivot := 0x800000, psum := 0 }))
      ∧ (oneBeat → chunkEnds → c.out = 0 → ∀ w h, c.stages = [w] → plain w → stOp w = opPIVOT → (s.bay n.val).held = some h →
          h.segCtx = none →
        let leafed := lanes.zipIdx.foldl (fun (y : State) p =>
          let v := toBond (x p.2)
          y.addLeaf u.bgrp.toNat (h.ctxBase.toNat + p.2) ((u.elem0.toNat + a.group) / size)
            (if v.isFinite = false then p.1.ctx.pivot
              else if p.1.ctx.pivot = 0x800000 then BitVec.ofInt 24 (pivotOf v)
              else BitVec.ofInt 24 (max p.1.ctx.pivot.toInt (pivotOf v))) p.1.ctx.psum p.1.leafNan p.1.leafInf) s
        t.ctxs = leafed.ctxs ∧ t.groups = leafed.groups ∧ t.store = leafed.store ∧ t.formed = leafed.formed ∧ t.xp = leafed.xp)
      ∧ (s.mpq.length = 4 → ∃ ws, s.Puts t ws ∧ (∀ w ∈ ws, w.writer = .tile n.val u.seq ∨ w.writer = .record n.val u.seq)
        ∧ (c.toMem = false → (∀ w ∈ c.stages, stOp w = opROUND → bit w 31 = false) →
          ∀ w ∈ ws, w.writer = .record n.val u.seq)
        ∧ (c.has opSEG = false → c.has opTOPK = false → c.pivrecs = [] → ∀ w ∈ ws, w.writer = .tile n.val u.seq))
      ∧ (t.bay n.val = { s.bay n.val with
          act := some y, lanes := (t.bay n.val).lanes, held := (t.bay n.val).held, soq := (t.bay n.val).soq
          stalled := (t.bay n.val).stalled })
      ∧ (∀ i, i ≠ n.val → t.bay i = s.bay i)
      ∧ t = { s with
          bays := t.bays, ctxs := t.ctxs, groups := t.groups, store := t.store, formed := t.formed, runs := t.runs, mpq := t.mpq
          mpWait := t.mpWait, topks := t.topks, nan := t.nan, xp := { s.xp with out := t.xp.out }, free := t.free
          spare := { s.spare with bays := t.spare.bays, rot := t.spare.rot, sampled := t.spare.sampled } })

/-- MORTAR_RUN_ADD (R108, R111): the unit takes the first run of the bay that comes next in rotating order, then those from XP, and
adds its terms into its total; every other total and run stays. -/
def Obligations.MortarRuns : Prop :=
  ∀ (u : Fin 16) (s : State), s.Canonical →
    let last := s.served.getD u.val 31
    let mine (r : MRun) := s.mortarUnit r.total = u.val ∧ r.source ≤ 32
    let turn (r : MRun) : Nat := if r.source = 32 then 32 else (r.source + 31 - last % 32) % 32
    ((∀ r ∈ s.runs, ¬ mine r) → exec (.mortarRunAdd u) s = .next s)
    ∧ ((∃ r ∈ s.runs, mine r) → ∃ (t : State) (i : Nat) (r : MRun), exec (.mortarRunAdd u) s = .next t
      ∧ s.runs[i]? = some r ∧ mine r
      ∧ (∀ j o, s.runs[j]? = some o → mine o → turn r ≤ turn o ∧ (o.source = r.source → i ≤ j))
      ∧ t.runs = s.runs.eraseIdx i ∧ t.total r.total = r.terms.foldl Total.add (s.total r.total)
      ∧ (∀ k, k ≠ r.total → t.total k = s.total k)
      ∧ t = { s with runs := t.runs, totals := t.totals, served := t.served })

/-- TILE_RETIREMENT (R227, R232, R235, R240, R325, R341, R369): a tile in the lanes retires once it has issued everything, its
output has entered the egress queue, its writes and records are acknowledged and its runs taken; a refused one once nothing more
comes for it, with its ERROR token and its entry, unless that was made already (CTXLOST, ECCLOSS); a discarded one without; NEXT
and the header credits advance by one. A tile of a lost bay waits for no beat (notes/assumptions/103: the model's choice). -/
def Obligations.TileRetirement : Prop :=
  ∀ (n : Fin 32) (u : Tile) (s : State), (s.bay n.val).nextTile? = some u → s.pwr.phase = .run →
    let b := s.bay n.val
    let run := exec (.tileRetirement n) s
    let quiet := b.stalled = [] ∧ (∀ w ∈ s.writes, w.writer ≠ .tile n.val u.seq ∧ w.writer ≠ .record n.val u.seq)
      ∧ ∀ r ∈ s.runs, r.source ≠ n.val
    let leaves := u.lastSeen = true ∨ (s.tileChain n.val u).insrc = true ∨ s.isLost n.val = true
    let gone (t : State) (tokens : List SoItem) : Prop := (t.bay n.val).next = b.next + 1
      ∧ (t.bay n.val).hdrCredits = b.hdrCredits + 1 ∧ (t.bay n.val).tile? u.slot = none ∧ (t.bay n.val).replay = none
      ∧ (t.bay n.val).egress = b.egress ++ tokens
      ∧ t.bay n.val = { b with
          tiles := (t.bay n.val).tiles, next := b.next + 1, hdrCredits := b.hdrCredits + 1, replay := none, act := (t.bay n.val).act
          held := (t.bay n.val).held, soq := (t.bay n.val).soq, stalled := (t.bay n.val).stalled }
      ∧ (∀ i, i ≠ n.val → t.bay i = s.bay i) ∧ t = { s with bays := t.bays, groups := t.groups, log := t.log }
      ∧ (s.poison = [] → t.groups = s.groups)
    (∀ a, u.status = .admitted → b.act = some a → a.done u (chainOf u.words) = true → quiet → ∃ t, run = .next t
      ∧ gone t (if a.ended then [tokenError u.seq 0x13 u.chain.toNat] else []) ∧ (t.bay n.val).act = none
      ∧ (s.poison = [] → t.log = s.log))
    ∧ (∀ a, u.status = .admitted → b.act = some a → a.done u (chainOf u.words) = false ∨ ¬ quiet → s.gn.state ≠ 3 → run = .next s)
    ∧ (∀ (cause : BitVec 8) (entry : Option (W32 × W32)), u.status = .refused cause entry →
      (leaves ∨ cause = 0x74 → ∃ t, run = .next t
        ∧ gone t [tokenError u.seq cause.toNat u.chain.toNat] ∧ (t.bay n.val).act = b.act
        ∧ (s.poison = [] → t.log = (match entry with
          | some e => (s.logE cause.toNat 0 n.val u.chain.toNat 0 u.seq.toNat e.1.toNat e.2.toNat).log
          | none => s.log)))
      ∧ (¬ leaves → cause ≠ 0x74 → s.gn.state ≠ 3 → run = .next s))
    ∧ (u.status = .skipped → ¬ leaves → s.gn.state ≠ 3 → run = .next s)
    ∧ (u.status = .skipped → leaves → ∃ t, run = .next t ∧ gone t [] ∧ (t.bay n.val).act = b.act
      ∧ (s.poison = [] → t.log = s.log))
    ∧ (u.status = .waiting → s.gn.state ≠ 3 → run = .next s)

/-- CONTEXT_WRITE_BACK (R19, R127, R147, R192): the lanes' contexts return to the Scaffold as they stand for a direct operation, and
merged into the stored ones for a bonded operation: under SEGCTX to the contexts of the segment in the lanes, and to none before the
first segment; no other context changes, and nothing is written to memory. What the Scaffold does not hold
stays with the bay for a tile that still carries the operation on (notes/assumptions/29: the model's choice). -/
def Obligations.ContextWriteBack : Prop :=
  ∀ (n : Fin 32) (h : HeldOp) (s : State), (s.bay n.val).held = some h → (s.bay n.val).act = none → s.pwr.phase = .run →
    s.Canonical →
    let run := exec (.contextWriteBack n) s
    let outside := (chainOf h.tile.words).segctx.isSome = true ∧ h.segCtx = none
    let home (r : Nat) : Nat := match h.segCtx with
      | some (q, sg) => q + 256 * sg + r
      | none => h.ctxBase.toNat + r
    (∀ u, (s.bay n.val).nextTile? = some u → u.status = .accepted → u.mayCarry h = true → run = .next s)
    ∧ ((∀ u, (s.bay n.val).nextTile? = some u → u.status = .accepted → u.mayCarry h = false) →
      ∃ t, run = .next t ∧ (t.bay n.val).held = none ∧ (t.bay n.val).lanes = []
        ∧ (t.bay n.val).resume = (if h.carry then some (h, (s.bay n.val).lanes) else none)
        ∧ (outside → t.ctxs = s.ctxs)
        ∧ (∀ (r : Nat) (l : Lane), ¬ outside → (s.bay n.val).lanes[r]? = some l →
          let old := s.ctx (home r)
          let new := t.ctx (home r)
          (h.bgrp = 0 → new = l.ctx)
          ∧ (h.bgrp ≠ 0 → new = { old with
              maxv := toF32 (Num.max (ofF32 old.maxv) (ofF32 l.ctx.maxv))
              minv := toF32 (Num.min (ofF32 old.minv) (ofF32 l.ctx.minv))
              count := BitVec.ofNat 32 (min (old.count.toNat + l.ctx.count.toNat) 0xFFFFFFFF)
              blockloss := BitVec.ofNat 16 (min (old.blockloss.toNat + l.ctx.blockloss.toNat) 0xFFFF)
              nanSeen := old.nanSeen || l.ctx.nanSeen
              infSeen := old.infSeen || l.ctx.infSeen }))
        ∧ (∀ x, (∀ r, r < (s.bay n.val).lanes.length → x ≠ home r) → t.ctx x = s.ctx x)
        ∧ (s.poison = [] → t.groups = s.groups ∧ t.log = s.log)
        ∧ t = { s with bays := t.bays, ctxs := t.ctxs, groups := t.groups, log := t.log })

/-- SO_TRANSFER and MEMORY_WRITE_ACK (R28, R29, R34, R241, R244, R321): the oldest egress entry leaves and what stalled behind a
full queue moves up, but SO of a gated bay is idle; the oldest write of a port becomes visible, under its masks, no other byte
of memory changes, and the oldest write that waits with its agent takes the place in the queue. That such a write waits with its
agent, and transfers behind the queue, are notes/assumptions/24 and 23 (the model's choice of form). -/
def Obligations.EgressAndWrites : Prop :=
  ∀ s : State, s.pwr.stopped = false →
    (∀ n : Fin 32, s.testing = false → s.bayOn n.val = true ∨ s.isLost n.val = true →
      exec (.soTransfer n) s = .next (s.mapBay n.val fun b => { b with
        soq := (b.soq ++ b.stalled).tail.take 32, stalled := (b.soq ++ b.stalled).tail.drop 32 }))
    ∧ (∀ n : Fin 32, s.bayOn n.val = false → s.isLost n.val = false → exec (.soTransfer n) s = .next s)
    ∧ (∀ port : Fin 4, s.mpq.getD port.val [] = [] → exec (.memoryWriteAck port) s = .next s)
    ∧ (∀ (port : Fin 4) (w : MemWrite) (rest : List MemWrite), s.mpq.getD port.val [] = w :: rest → s.Canonical →
      ∃ t, exec (.memoryWriteAck port) s = .next t
        ∧ (∀ a, (∀ c ∈ w.cells, c.1 ≠ a) → memByte t.mem a = memByte s.mem a)
        ∧ ((w.cells.map Prod.fst).Nodup → ∀ c ∈ w.cells,
          memByte t.mem c.1 = (memByte s.mem c.1 &&& ~~~c.2.1) ||| (c.2.2 &&& c.2.1))
        ∧ (s.mpWait = [] → t.mpq = s.mpq.set port.val rest ∧ t.mpWait = [])
        ∧ (s.mpq.length = 4 → (w :: t.writes).Perm s.writes)
        ∧ (∀ home x more, s.mpWait = (home, x) :: more → s.mpq.length = 4 → (∀ p, p < 4 → (s.mpq.getD p []).length = 64) →
          t.mpq = s.mpq.set port.val (rest ++ [x]) ∧ t.mpWait.map Prod.snd = more.map Prod.snd)
        ∧ (∀ slot, w.writer = .spill slot → t.spilled = s.spilled.map fun x => if x.slot = slot then { x with acked := true } else x)
        ∧ ((∀ slot, w.writer ≠ .spill slot) → t.spilled = s.spilled)
        ∧ t = { s with mem := t.mem, mpq := t.mpq, mpWait := t.mpWait, spilled := t.spilled })

/-- BOND_TREE_MERGE (R45, R134 to R136, R138, R223): two siblings leave the store, which takes in the nodes that waited for room
(notes/assumptions/28: the model's choice); their parent passes over each level where no sibling covers a chunk, and waits for its
sibling, or, as the root of a row, merges into the row's context while ROOTS_LEFT falls by one; at zero the group is DONE, and the
root of a SEND group also leaves as a LEAF frame, a node of the owner's tree. That such a root leaves in a frame of its own, LEN 1
with three entries of padding, is notes/assumptions/8, the model's choice. A NaN becomes the canonical one. In a drain, and on the
way into Stop, nothing merges (R313, R323). -/
def Obligations.BondTreeMerges : Prop :=
  ∀ (g : BitVec 8) (ctx : BitVec 18) (level : BitVec 5) (node : BitVec 24) (a b : BondEntry) (s : State), level ≠ 0 → s.Canonical →
    let child (j : Nat) (e : BondEntry) : Bool := e.isNode g ctx (level.toNat - 1) (2 * node.toNat + j)
    s.store.find? (child 0) = some a → s.store.find? (child 1) = some b →
    let m := mergeNode a.pivot a.psum b.pivot b.psum
    let e : BondEntry := ⟨ctx, node, level, g, m.1, a.nanSeen || b.nanSeen, a.infSeen || b.infSeen, m.2⟩
    let rest := s.store.filter fun x => !(child 0 x || child 1 x)
    let store := rest ++ s.formed.take (131072 - rest.length)
    let formed := s.formed.drop (131072 - rest.length)
    let gr := s.group g.toNat
    let n := (gr.span ctx.toNat).2
    let root := if n ≤ 1 then 0 else Nat.log2 (n - 1) + 1
    let up (k : Nat) : Nat := node.toNat / 2 ^ (k - level.toNat)
    let lone (k : Nat) : Prop := up k % 2 = 0 ∧ n ≤ (up k + 1) * 2 ^ k
    let run := exec (.bondTreeMerge g ctx level node) s
    (s.pwr.phase.draining = true → run = .next s)
    ∧ (s.pwr.phase.draining = false → n ≤ 2 ^ 24 → ∀ l : Nat, level.toNat ≤ l → l ≤ root →
        (∀ k, level.toNat ≤ k → k < l → lone k) → (l = root ∨ ¬ lone l) →
      let p : BondEntry := { e with level := BitVec.ofNat 5 l, node := BitVec.ofNat 24 (up l) }
      (l < root → store.length < 131072 → run = .next { s with store := store ++ [p], formed := formed })
      ∧ (l < root → 131072 ≤ store.length → run = .next { s with store := store, formed := formed ++ [p] })
      ∧ (l = root → ∃ t, run = .next t
        ∧ (let x := s.ctx ctx.toNat
           let y := mergeNode x.pivot x.psum e.pivot e.psum
           t.ctx ctx.toNat = { x with
             pivot := y.1, psum := y.2, nanSeen := x.nanSeen || e.nanSeen, infSeen := x.infSeen || e.infSeen })
        ∧ (∀ i, i ≠ ctx.toNat → t.ctx i = s.ctx i)
        ∧ t.group g.toNat = { gr with rootsLeft := gr.rootsLeft - 1, done := gr.done || decide (gr.rootsLeft = 1) }
        ∧ (∀ i, i ≠ g.toNat → t.group i = s.group i)
        ∧ (gr.send = false → t.xp = s.xp)
        ∧ (gr.send = true →
          let leaf : BondEntry := { p with
            ctx := BitVec.ofNat 18 (ctx.toNat - gr.base.toNat), level := BitVec.ofNat 5 (clog2 gr.n.toNat)
            node := BitVec.ofNat 24 ((gr.c0.toNat - gr.ownerC0.toNat) / 2 ^ clog2 gr.n.toNat) }
          t.xp = { s.xp with out := s.xp.out ++ [⟨2, 1, s.xp.shard, 0, 0, 0, 0,
            (List.range 16).map fun i => BitVec.ofNat 32 (leaf.word / 2 ^ (32 * i))⟩] })
        ∧ t = { s with store := store, formed := formed, ctxs := t.ctxs, groups := t.groups, xp := t.xp }))
    ∧ (∀ (k1 k2 : BitVec 24) (s1 s2 : W32), 
      let canon (x : W32) : W32 := if (ofF32 x).isNan then 0x7FC00000 else x
      mergeNode 0x800000 s1 k2 s2 = (k2, canon s2)
      ∧ (k2 = 0x800000 → k1 ≠ 0x800000 → mergeNode k1 s1 k2 s2 = (k1, canon s1))
      ∧ (k1 ≠ 0x800000 → k2 ≠ 0x800000 → (mergeNode k1 s1 k2 s2).1 = if k1.slt k2 then k2 else k1))

/-- BOND_STORE_SPILL, the read of a spilled node, SPILL_RETURN and TOPK_MERGE (R28, R137, R138, R143, R144, R244): a full store
writes a node to a free slot of the spill region, at its base plus 16 bytes for each slot before it, and takes in the nodes that
waited (notes/assumptions/28); a spilled node comes back once its sibling is there and the store has room; the records of a
complete row, those of the earliest arming first (156), are merged once no write to them waits. All of it waits for an active
core (104). These are the model's choices. In a drain none of it happens (R323). -/
def Obligations.SpillAndTopk : Prop :=
  ∀ (g : BitVec 8) (ctx : BitVec 18) (level : BitVec 5) (node : BitVec 24) (s : State), s.coresRun = true →
    s.pwr.phase.draining = false →
    let here (e : BondEntry) := e.isNode g ctx level.toNat node.toNat
    (∀ (slot : W32) (e : BondEntry), s.store.find? here = some e → slot.toNat < s.ctl.spillSize.toNat →
      (∀ x ∈ s.spilled, x.slot ≠ slot) →
      let rest := s.store.filter fun x => !here x
      (131072 ≤ s.store.length → ∃ t, exec (.bondStoreSpill ⟨g, ctx⟩ level node slot) s = .next t
        ∧ s.Sends t ⟨.spill slot, leCells (s.ctl.spillBase.toNat + 16 * slot.toNat) e.word 16⟩
        ∧ t = { s with
            store := rest ++ s.formed.take (131072 - rest.length), formed := s.formed.drop (131072 - rest.length)
            spilled := s.spilled ++ [⟨e, slot, false, false⟩], mpq := t.mpq, mpWait := t.mpWait })
      ∧ (s.store.length < 131072 → exec (.bondStoreSpill ⟨g, ctx⟩ level node slot) s = .next s))
    ∧ (∀ x, (s.spilled.find? fun y => here y.entry) = some x →
      (x.acked = true → x.arrived = false → s.pwr.stopped = false → ∀ port data,
        let m := memSetMany s.mem data
        exec (.memoryReadResponse port (.spill g ctx level node) data) s = .next { s with
          mem := m
          spilled := s.spilled.map fun y => if y.slot = x.slot then { y with
            arrived := true
            entry := BondEntry.ofWord (memRead m (s.ctl.spillBase.toNat + 16 * x.slot.toNat) 16) } else y })
      ∧ (let sib := if node.toNat % 2 = 0 then node.toNat + 1 else node.toNat - 1
         let paired := (∃ e ∈ s.store, e.isNode g ctx level.toNat sib = true)
           ∨ (∃ e ∈ s.formed, e.isNode g ctx level.toNat sib = true)
           ∨ ∃ y ∈ s.spilled, y.entry.isNode g ctx level.toNat sib = true
         let back := x.acked = true ∧ x.arrived = true ∧ paired ∧ s.store.length < 131072
         (back → exec (.spillReturn ⟨g, ctx⟩ level node) s = .next { s with
           spilled := s.spilled.filter fun y => !here y.entry
           store := s.store ++ [x.entry] })
         ∧ (¬ back → exec (.spillReturn ⟨g, ctx⟩ level node) s = .next s)))
    ∧ (let all := s.topks.filter fun r => r.bgrp == g && r.ctx == ctx
      let recs := all.filter fun r => all.all fun x => decide (x.past ≤ r.past)
      (recs = [] → exec (.topkMerge g ctx) s = .next s)
      ∧ (∀ r rest, recs = r :: rest →
        let ready := r.past ≠ 0 ∨ s.rowComplete g.toNat ctx.toNat = true
        let merged := ((recs.map TopkRec.cands).flatten.dedup).foldl (fun acc x => topkInsert x acc) []
        let cells := (((recs.map TopkRec.addr).dedup).map fun addr => topkRecord addr ctx.toNat r.chain.toNat r.k merged).flatten
        let waits := ∃ w ∈ s.writes, ∃ x ∈ w.cells, ∃ y ∈ cells, y.1 = x.1
        (¬ ready ∨ waits → exec (.topkMerge g ctx) s = .next s)
        ∧ (ready → ¬ waits → ∃ t, exec (.topkMerge g ctx) s = .next t
          ∧ s.Sends t ⟨.core, cells⟩
          ∧ t = { s with
              topks := s.topks.filter fun x => !(x.bgrp == g && x.ctx == ctx && x.past == r.past), mpq := t.mpq
              mpWait := t.mpWait })))

/-- DROOP_STRETCH and LATERISK_WINDOW (R247, R248, R250, R340): a stretch counts in EVENTS and in the window; a window with more
than ALLOW events sets LATE with one LATERISK entry; WORST keeps the greatest; a bay without power counts nothing; a bay without
a good comparator stretches every ac of the window. That nothing counts in the commit window of a Stop entry is the model's choice
(notes/assumptions/157). -/
def Obligations.DroopCounters : Prop :=
  ∀ (n : Fin 32) (s : State), s.bays.length = 32 →
    let b := s.bay n.val
    let m := s.spare.bay (s.physBay n.val)
    let w := if m.cmp = true ∧ m.cmpx = true then 1024 else b.window
    (s.bayOn n.val = false ∨ s.pwr.phase = .committed →
      exec (.droopStretch n) s = .next s ∧ exec (.lateriskWindow n) s = .next s)
    ∧ (s.bayOn n.val = true → s.pwr.phase ≠ .committed → exec (.droopStretch n) s = .next (s.mapBay n.val fun x => { x with
        events := BitVec.ofNat 32 (min (x.events.toNat + 1) 0xFFFFFFFF), window := x.window + 1 }))
    ∧ (s.bayOn n.val = true → s.pwr.phase ≠ .committed → w ≤ 1024 → ∃ t, exec (.lateriskWindow n) s = .next t
      ∧ (t.bay n.val).events = BitVec.ofNat 32 (min (b.events.toNat + (w - b.window)) 0xFFFFFFFF)
      ∧ (t.bay n.val).window = 0 ∧ (t.bay n.val).worst.toNat = max b.worst.toNat w
      ∧ (t.bay n.val).late = (b.late || decide (s.ctl.allow.toNat < w))
      ∧ t.log = (if s.ctl.allow.toNat < w then (s.logE 0x15 0 n.val 0 0 0 w s.ctl.allow.toNat).log else s.log)
      ∧ (∀ a, (t.readReg a .droopTotal).testBit n.val = (t.bay n.val).late)
      ∧ (∀ i, i ≠ n.val → t.bay i = s.bay i)
      ∧ t.bay n.val = { b with
          events := (t.bay n.val).events, window := 0, worst := (t.bay n.val).worst, late := (t.bay n.val).late }
      ∧ t = { s with bays := t.bays, log := t.log })

/-! ### Interrupts -/

/-- IRQ_STATUS and the lines IRQ_A and IRQ_B (R273, R321): each source follows its level, the lines are their OR and 0 while
STOPPED is 1; a W1C write by any requester, with or without the semaphore, clears the bits written as 1 and changes nothing else
(R11, R263); ERR_LOG_POP of every entry, with CLROVF, clears ERRLOG. -/
def Obligations.InterruptSources : Prop :=
  (∀ (b : Bool) (s : State),
    let v := s.readReg b .irqStatus
    v < 2 ^ 11 ∧ v.testBit 0 = s.nan.valid ∧ (v.testBit 1 = true ↔ ∃ n, n < 32 ∧ (s.bay n).late = true)
    ∧ (v.testBit 2 = true ↔ s.log.ring ≠ [] ∨ s.log.ovf ≠ 0) ∧ v.testBit 3 = s.route.done ∧ v.testBit 4 = s.stx.done
    ∧ v.testBit 5 = s.gn.decided ∧ v.testBit 6 = s.xp.foldDone ∧ v.testBit 7 = (s.sem.lostA || s.sem.lostB)
    ∧ v.testBit 8 = s.spare.dnew ∧ v.testBit 9 = s.spare.rnew ∧ v.testBit 10 = s.img.event
    ∧ (s.irq = true ↔ s.pwr.stopped = false ∧ v ≠ 0))
  ∧ ∀ (p : Port) (q : LathReq) (s : State), s.Serves p q →
    let run := exec (.registerWrite p) s
    let d (i : Nat) : Bool := !q.data.toNat.testBit i
    (Writes q .nanStatus → run = .next (s.executed p q fun x => { x with nan := { x.nan with valid := x.nan.valid && d 0 } }))
    ∧ (Writes q .semOwner → run = .next (s.executed p q fun x => { x with sem := { x.sem with
        lostA := x.sem.lostA && d 4, lostB := x.sem.lostB && d 5 } }))
    ∧ (Writes q .imgStatus → run = .next (s.executed p q fun x => { x with img := { x.img with event := x.img.event && d 4 } }))
    ∧ (Writes q .wakeStatus → run = .next (s.executed p q fun x => { x with pwr := { x.pwr with
        lost := x.pwr.lost && d 1, taken := x.pwr.taken && d 2 } }))
    ∧ (Writes q .routeStatus → s.route.busy = false → run = .next (s.executed p q fun x => { x with route := { x.route with
        done := x.route.done && d 1, badIdx := x.route.badIdx && d 2 } }))
    ∧ (Writes q .stxStatus → s.stx.busy = false → run = .next (s.executed p q fun x => { x with stx := { x.stx with
        done := x.stx.done && d 1 } }))
    ∧ (Writes q .gnStatus → run = .next (s.executed p q fun x => { x with gn := { x.gn with decided := x.gn.decided && d 3 } }))
    ∧ (Writes q .xpFoldStatus → run = .next (s.executed p q fun x => { x with xp := { x.xp with
        foldDone := x.xp.foldDone && d 24 } }))
    ∧ (Writes q .spareStatus → run = .next (s.executed p q fun x => { x with spare := { x.spare with
        dnew := x.spare.dnew && d 8, rnew := x.spare.rnew && d 9 } }))
    ∧ (WritesAt q 0x2010#32 → q.data.toNat % 256 = s.log.ring.length → q.data.toNat.testBit 8 = true →
      ∃ t, exec (.errLogClrovf p) s = .next t ∧ ∀ b, (t.readReg b .irqStatus).testBit 2 = false)
    ∧ (∀ n, Writes q (.hodDroop n) → run = .next (s.executed p q fun x => x.mapBay n fun b =>
        if d 43 then b else { b with late := false, worst := 0 }))

/-! ### Exact totals and entries as such -/

/-- Column terms from any number of courses, bays and chips combine in the exact total in any order with identical bits, in SUM,
MAX and MIN mode (R141): whatever stands in the total. In SUM mode the sticky OVF alone could depend on the order, and within
the 2^40 terms that a total holds exactly (R109) it stays 0. -/
def Obligations.ColumnTermsCommute : Prop :=
  ∀ (x : Total) (xs ys : List W32), x.mode ≠ 3 → xs.Perm ys →
    (x.mode ≠ 0 → xs.foldl Total.add x = ys.foldl Total.add x)
    ∧ { xs.foldl Total.add x with ovf := false } = { ys.foldl Total.add x with ovf := false }
    ∧ (xs.length ≤ 2 ^ 40 → x = Total.zero → xs.foldl Total.add x = ys.foldl Total.add x ∧ (xs.foldl Total.add x).ovf = false)

/-- What 128 bits and 39 or fewer bits spell. A bond-store entry has its fields at the bits of R137, zeros between them, and
comes back from its 128 bits and from 16 bytes of memory, in which the spill region holds it, with every field at every value. A
number that a pattern of a format spells is encoded as that pattern again and needs no rounding, under any mode and draw (R36,
R37, R40, R47); a NaN has the canonical pattern (R45). -/
def Obligations.BondEntryRoundTrip : Prop :=
  (∀ e : BondEntry,
    let w := e.word
    BondEntry.ofWord w = e ∧ w < 2 ^ 128
    ∧ w % 2 ^ 18 = e.ctx.toNat ∧ w / 2 ^ 18 % 2 ^ 24 = e.node.toNat ∧ w / 2 ^ 42 % 2 ^ 5 = e.level.toNat ∧ w / 2 ^ 47 % 2 = 0
    ∧ w / 2 ^ 48 % 2 ^ 8 = e.bgrp.toNat ∧ w / 2 ^ 56 % 2 ^ 8 = 0 ∧ w / 2 ^ 64 % 2 ^ 24 = e.pivot.toNat
    ∧ w.testBit 88 = e.nanSeen ∧ w.testBit 89 = e.infSeen ∧ w / 2 ^ 90 % 2 ^ 6 = 0 ∧ w / 2 ^ 96 = e.psum.toNat
    ∧ ∀ (m : List Host.Cell) (a : Nat), Memory.wf m = true →
      BondEntry.ofWord (memRead (memSetMasked m (leCells a w 16)) a 16) = e)
  ∧ ∀ f b : Nat, f ≤ 0xC → b < 2 ^ fmtWidth f →
    let x := decode f b
    (x.isNan = false → (f = 0xC → (b / 2 ^ 27 % 2 = 1 ∧ 2 ^ 28 ≤ b % 2 ^ 38) ∨ b % 2 ^ 38 = 0 ∨ b % 2 ^ 38 = 1023 * 2 ^ 28) →
      encode f x = b ∧ ∀ (mode draw : Nat) (wrap : Bool), x.isInf = false → convert f mode draw wrap x = x)
    ∧ (x.isNan = true → encode f x = canonNan f)

end Slice0
end

