-- ==== Sys2Proof/Laws/Stores.lean ====
section
/-! SUPPORT. The sparse stores: a read after a write, and that every store operation keeps the canonical form. -/

namespace Sys2Proof.Machine

variable {α : Type}

section
variable [DecidableEq α]

theorem sget_sset_same (d : α) (m : List (Nat × α)) (lo k : Nat) (v : α) (h : swfFrom d lo m = true) :
    sget d (sset d m k v) k = v := by
  induction m generalizing lo with
  | nil => by_cases e : v = d <;> simp [sset, sget, e]
  | cons p t ih =>
    obtain ⟨j, w⟩ := p
    simp only [swfFrom, Bool.and_eq_true, decide_eq_true_eq] at h
    simp only [sset]
    -- no later key equals one below the first key of the rest
    have low : ∀ (lo : Nat) (t : List (Nat × α)), swfFrom d lo t = true → k < lo → sget d t k = d := by
      intro lo t
      induction t generalizing lo with
      | nil => intros; rfl
      | cons q r ir =>
        intro ht hk
        simp only [swfFrom, Bool.and_eq_true, decide_eq_true_eq] at ht
        simp only [sget]
        rw [if_neg (by omega)]
        exact ir _ ht.2 (by omega)
    split
    · split
      · next e => simp only [sget]; rw [if_neg (by omega), low _ t h.2 (by omega), e]
      · simp [sget]
    · split
      · split
        · next _ _ e => rw [low _ t h.2 (by omega), e]
        · simp [sget]
      · simp only [sget]; rw [if_neg (by omega)]; exact ih _ h.2

theorem sget_sset_other (d : α) (m : List (Nat × α)) (k a : Nat) (v : α) (h : a ≠ k) :
    sget d (sset d m k v) a = sget d m a := by
  induction m with
  | nil => by_cases e : v = d <;> simp [sset, sget, e, Ne.symm h]
  | cons p t ih =>
    obtain ⟨j, w⟩ := p
    simp only [sset]
    split
    · split
      · rfl
      · simp only [sget]; rw [if_neg (Ne.symm h)]
    · split
      · next e =>
        subst e
        split <;> simp only [sget] <;> rw [if_neg (Ne.symm h)]
        rw [if_neg (Ne.symm h)]
      · simp only [sget]; split
        · rfl
        · exact ih

theorem swfFrom_mono (d : α) {lo hi : Nat} (m : List (Nat × α)) (h : hi ≤ lo) (w : swfFrom d lo m = true) :
    swfFrom d hi m = true := by
  cases m with
  | nil => rfl
  | cons p t =>
    simp only [swfFrom, Bool.and_eq_true, decide_eq_true_eq] at w ⊢
    exact ⟨⟨by omega, w.1.2⟩, w.2⟩

theorem swfFrom_sset (d : α) (m : List (Nat × α)) (lo k : Nat) (v : α) (hk : lo ≤ k) (h : swfFrom d lo m = true) :
    swfFrom d lo (sset d m k v) = true := by
  induction m generalizing lo with
  | nil => by_cases e : v = d <;> simp [sset, swfFrom, e, hk]
  | cons p t ih =>
    obtain ⟨j, w⟩ := p
    have h' := h
    simp only [swfFrom, Bool.and_eq_true, decide_eq_true_eq] at h'
    simp only [sset]
    split
    · split
      · exact h
      · next e =>
        simp only [swfFrom, Bool.and_eq_true, decide_eq_true_eq]
        exact ⟨⟨hk, e⟩, ⟨by omega, h'.1.2⟩, h'.2⟩
    · split
      · split
        · exact swfFrom_mono d t (by omega) h'.2
        · next _ e _ =>
          simp only [swfFrom, Bool.and_eq_true, decide_eq_true_eq]
          refine ⟨⟨hk, by assumption⟩, ?_⟩
          subst e; exact h'.2
      · simp only [swfFrom, Bool.and_eq_true, decide_eq_true_eq]
        exact ⟨h'.1, ih _ (by omega) h'.2⟩

/-- A store operation keeps the canonical form. -/
theorem swf_sset (d : α) (m : List (Nat × α)) (k : Nat) (v : α) (h : swf d m = true) : swf d (sset d m k v) = true :=
  swfFrom_sset d m 0 k v (Nat.zero_le k) h

/-- A store reads back what was written. -/
theorem sget_sset (d : α) (m : List (Nat × α)) (k a : Nat) (v : α) (h : swf d m = true) :
    sget d (sset d m k v) a = if a = k then v else sget d m a := by
  split
  · next e => subst e; exact sget_sset_same d m 0 a v h
  · next e => exact sget_sset_other d m k a v e

theorem swfFrom_filter (d : α) (f : Nat × α → Bool) (m : List (Nat × α)) (lo : Nat) (h : swfFrom d lo m = true) :
    swfFrom d lo (m.filter f) = true := by
  induction m generalizing lo with
  | nil => rfl
  | cons p t ih =>
    have h' := h
    simp only [swfFrom, Bool.and_eq_true, decide_eq_true_eq] at h'
    simp only [List.filter_cons]
    split
    · simp only [swfFrom, Bool.and_eq_true, decide_eq_true_eq]; exact ⟨h'.1, ih _ h'.2⟩
    · exact swfFrom_mono d _ (by omega) (ih _ h'.2)

theorem swf_filter (d : α) (f : Nat × α → Bool) (m : List (Nat × α)) (h : swf d m = true) :
    swf d (m.filter f) = true := swfFrom_filter d f m 0 h

/-- One rising store after another. -/
theorem swfFrom_append (d : α) (m n : List (Nat × α)) (lo mid : Nat) (hm : swfFrom d lo m = true)
    (hb : ∀ p ∈ m, p.1 < mid) (hlo : lo ≤ mid) (hn : swfFrom d mid n = true) : swfFrom d lo (m ++ n) = true := by
  induction m generalizing lo with
  | nil => exact swfFrom_mono d n hlo hn
  | cons p t ih =>
    simp only [swfFrom, Bool.and_eq_true, decide_eq_true_eq, List.cons_append] at hm ⊢
    refine ⟨hm.1, ih _ hm.2 (fun q hq => hb q (List.mem_cons_of_mem _ hq)) ?_⟩
    exact hb p (List.mem_cons_self ..)

theorem swfFrom_above (d : α) (m : List (Nat × α)) (lo hi : Nat) (h : swfFrom d lo m = true)
    (hb : ∀ p ∈ m, hi ≤ p.1) : swfFrom d hi m = true := by
  cases m with
  | nil => rfl
  | cons p t =>
    simp only [swfFrom, Bool.and_eq_true, decide_eq_true_eq] at h ⊢
    exact ⟨⟨hb p (List.mem_cons_self ..), h.1.2⟩, h.2⟩

theorem swfFrom_range (d v : α) (hv : v ≠ d) (lo n : Nat) :
    swfFrom d lo ((List.range n).map fun i => (lo + i, v)) = true := by
  induction n generalizing lo with
  | zero => rfl
  | succ n ih =>
    rw [List.range_succ_eq_map]
    simp only [List.map_cons, List.map_map, swfFrom, Bool.and_eq_true, decide_eq_true_eq]
    refine ⟨⟨by omega, hv⟩, ?_⟩
    have := ih (lo + 1)
    rw [show ((fun i => (lo + i, v)) ∘ Nat.succ) = fun i => (lo + 1 + i, v) from
      funext fun i => by simp only [Function.comp]; congr 1; omega]
    exact this

theorem swf_sclear (d : α) (m : List (Nat × α)) (lo n : Nat) (h : swf d m = true) : swf d (sclear m lo n) = true :=
  swf_filter d _ m h

theorem swf_sfill (d v : α) (hv : v ≠ d) (m : List (Nat × α)) (lo n : Nat) (h : swf d m = true) :
    swf d (sfill m lo n v) = true := by
  unfold swf sfill
  refine swfFrom_append d _ _ 0 (lo + n) (swfFrom_append d _ _ 0 lo (swf_filter d _ m h) ?_ (Nat.zero_le _)
    (swfFrom_range d v hv lo n)) ?_ (Nat.zero_le _) (swfFrom_above d _ 0 _ (swf_filter d _ m h) ?_)
  · intro p hp; simpa using (List.mem_filter.1 hp).2
  · intro p hp
    rcases List.mem_append.1 hp with hp | hp
    · have : p.1 < lo := by simpa using (List.mem_filter.1 hp).2
      omega
    · obtain ⟨i, hi, rfl⟩ := List.mem_map.1 hp
      have := List.mem_range.1 hi
      simp only; omega
  · intro p hp; simpa using (List.mem_filter.1 hp).2

end

/-! ### Memory and the NVM device -/

theorem memSet_wf (m : List Host.Cell) (a : Nat) (b : Byte) (h : Memory.wf m = true) : Memory.wf (memSet m a b) = true :=
  swf_sset memDefault m a b h

theorem memByte_memSet (m : List Host.Cell) (a x : Nat) (b : Byte) (h : Memory.wf m = true) :
    memByte (memSet m a b) x = if x = a then b else memByte m x :=
  sget_sset memDefault m a x b h

theorem memSetMany_wf (m : List Host.Cell) (l : List (Nat × Byte)) (h : Memory.wf m = true) :
    Memory.wf (memSetMany m l) = true := by
  induction l generalizing m with
  | nil => exact h
  | cons p t ih => exact ih _ (memSet_wf m p.1 p.2 h)

theorem memSetMasked_wf (m : List Host.Cell) (l : List (Nat × Byte × Byte)) (h : Memory.wf m = true) :
    Memory.wf (memSetMasked m l) = true := by
  induction l generalizing m with
  | nil => exact h
  | cons p t ih => exact ih _ (memSet_wf m p.1 _ h)

/-- A byte outside the bytes written is as before. -/
theorem memByte_memSetMany_other (m : List Host.Cell) (l : List (Nat × Byte)) (x : Nat) (hx : ∀ p ∈ l, p.1 ≠ x) :
    memByte (memSetMany m l) x = memByte m x := by
  induction l generalizing m with
  | nil => rfl
  | cons p t ih =>
    refine (ih _ fun q hq => hx q (List.mem_cons_of_mem _ hq)).trans ?_
    exact sget_sset_other memDefault m p.1 x p.2 (Ne.symm (hx p (List.mem_cons_self ..)))

/-- A byte outside the bytes of a masked write is as before. -/
theorem memByte_memSetMasked_other (m : List Host.Cell) (l : List (Nat × Byte × Byte)) (x : Nat)
    (hx : ∀ p ∈ l, p.1 ≠ x) : memByte (memSetMasked m l) x = memByte m x := by
  induction l generalizing m with
  | nil => rfl
  | cons p t ih =>
    refine (ih _ fun q hq => hx q (List.mem_cons_of_mem _ hq)).trans ?_
    exact sget_sset_other memDefault m p.1 x _ (Ne.symm (hx p (List.mem_cons_self ..)))

theorem nvmProgram_wf (m : List Host.Cell) (l : List (Nat × Byte)) (h : swf nvmDefault m = true) :
    swf nvmDefault (nvmProgram m l) = true := by
  induction l generalizing m with
  | nil => exact h
  | cons p t ih => exact ih _ (swf_sset nvmDefault m p.1 _ h)

theorem nvmTake_wf (m : List Host.Cell) (l : List (Nat × Byte)) (h : swf nvmDefault m = true) :
    swf nvmDefault (nvmTake m l) = true := by
  induction l generalizing m with
  | nil => exact h
  | cons p t ih => exact ih _ (swf_sset nvmDefault m p.1 p.2 h)

theorem nvmErase_wf (m : List Host.Cell) (lo hi : Nat) (h : swf nvmDefault m = true) :
    swf nvmDefault (nvmErase m lo hi) = true := swf_filter nvmDefault _ m h

end Sys2Proof.Machine
end

