-- ==== Sys2Proof/Laws/State.lean ====
section
/-! SUPPORT. What each shared update of the state leaves in each field: one lemma for each field and update, so that no
proof unfolds a record update. -/

namespace Sys2Proof.Machine

variable (s : State)

/-! ### `mapBay`: logical bay `n` changed -/

@[simp] theorem State.mapBay_pending (n : Nat) (f : Bay → Bay) : (s.mapBay n f).pending = s.pending := rfl
@[simp] theorem State.mapBay_free (n : Nat) (f : Bay → Bay) : (s.mapBay n f).free = s.free := rfl
@[simp] theorem State.mapBay_mem (n : Nat) (f : Bay → Bay) : (s.mapBay n f).mem = s.mem := rfl
@[simp] theorem State.mapBay_mpq (n : Nat) (f : Bay → Bay) : (s.mapBay n f).mpq = s.mpq := rfl
@[simp] theorem State.mapBay_mpWait (n : Nat) (f : Bay → Bay) : (s.mapBay n f).mpWait = s.mpWait := rfl
@[simp] theorem State.mapBay_nvm (n : Nat) (f : Bay → Bay) : (s.mapBay n f).nvm = s.nvm := rfl
@[simp] theorem State.mapBay_bays (n : Nat) (f : Bay → Bay) : (s.mapBay n f).bays = s.bays.modify n f := rfl
@[simp] theorem State.mapBay_ctxs (n : Nat) (f : Bay → Bay) : (s.mapBay n f).ctxs = s.ctxs := rfl
@[simp] theorem State.mapBay_alloc (n : Nat) (f : Bay → Bay) : (s.mapBay n f).alloc = s.alloc := rfl
@[simp] theorem State.mapBay_tags (n : Nat) (f : Bay → Bay) : (s.mapBay n f).tags = s.tags := rfl
@[simp] theorem State.mapBay_poison (n : Nat) (f : Bay → Bay) : (s.mapBay n f).poison = s.poison := rfl
@[simp] theorem State.mapBay_totals (n : Nat) (f : Bay → Bay) : (s.mapBay n f).totals = s.totals := rfl
@[simp] theorem State.mapBay_runs (n : Nat) (f : Bay → Bay) : (s.mapBay n f).runs = s.runs := rfl
@[simp] theorem State.mapBay_served (n : Nat) (f : Bay → Bay) : (s.mapBay n f).served = s.served := rfl
@[simp] theorem State.mapBay_groups (n : Nat) (f : Bay → Bay) : (s.mapBay n f).groups = s.groups := rfl
@[simp] theorem State.mapBay_store (n : Nat) (f : Bay → Bay) : (s.mapBay n f).store = s.store := rfl
@[simp] theorem State.mapBay_formed (n : Nat) (f : Bay → Bay) : (s.mapBay n f).formed = s.formed := rfl
@[simp] theorem State.mapBay_spilled (n : Nat) (f : Bay → Bay) : (s.mapBay n f).spilled = s.spilled := rfl
@[simp] theorem State.mapBay_topks (n : Nat) (f : Bay → Bay) : (s.mapBay n f).topks = s.topks := rfl
@[simp] theorem State.mapBay_lathA (n : Nat) (f : Bay → Bay) : (s.mapBay n f).lathA = s.lathA := rfl
@[simp] theorem State.mapBay_lathB (n : Nat) (f : Bay → Bay) : (s.mapBay n f).lathB = s.lathB := rfl
@[simp] theorem State.mapBay_tieB (n : Nat) (f : Bay → Bay) : (s.mapBay n f).tieB = s.tieB := rfl
@[simp] theorem State.mapBay_log (n : Nat) (f : Bay → Bay) : (s.mapBay n f).log = s.log := rfl
@[simp] theorem State.mapBay_sem (n : Nat) (f : Bay → Bay) : (s.mapBay n f).sem = s.sem := rfl
@[simp] theorem State.mapBay_nan (n : Nat) (f : Bay → Bay) : (s.mapBay n f).nan = s.nan := rfl
@[simp] theorem State.mapBay_ctl (n : Nat) (f : Bay → Bay) : (s.mapBay n f).ctl = s.ctl := rfl
@[simp] theorem State.mapBay_route (n : Nat) (f : Bay → Bay) : (s.mapBay n f).route = s.route := rfl
@[simp] theorem State.mapBay_stx (n : Nat) (f : Bay → Bay) : (s.mapBay n f).stx = s.stx := rfl
@[simp] theorem State.mapBay_gn (n : Nat) (f : Bay → Bay) : (s.mapBay n f).gn = s.gn := rfl
@[simp] theorem State.mapBay_xp (n : Nat) (f : Bay → Bay) : (s.mapBay n f).xp = s.xp := rfl
@[simp] theorem State.mapBay_img (n : Nat) (f : Bay → Bay) : (s.mapBay n f).img = s.img := rfl
@[simp] theorem State.mapBay_pwr (n : Nat) (f : Bay → Bay) : (s.mapBay n f).pwr = s.pwr := rfl
@[simp] theorem State.mapBay_cellar (n : Nat) (f : Bay → Bay) : (s.mapBay n f).cellar = s.cellar := rfl
@[simp] theorem State.mapBay_cellarRest (n : Nat) (f : Bay → Bay) : (s.mapBay n f).cellarRest = s.cellarRest := rfl
@[simp] theorem State.mapBay_cellarBuf (n : Nat) (f : Bay → Bay) : (s.mapBay n f).cellarBuf = s.cellarBuf := rfl
@[simp] theorem State.mapBay_spare (n : Nat) (f : Bay → Bay) : (s.mapBay n f).spare = s.spare := rfl
@[simp] theorem State.mapBay_dbg (n : Nat) (f : Bay → Bay) : (s.mapBay n f).dbg = s.dbg := rfl
@[simp] theorem State.mapBay_tap (n : Nat) (f : Bay → Bay) : (s.mapBay n f).tap = s.tap := rfl
@[simp] theorem State.mapBay_cores (n : Nat) (f : Bay → Bay) : (s.mapBay n f).cores = s.cores := rfl
@[simp] theorem State.mapBay_rowsZero (n : Nat) (f : Bay → Bay) : (s.mapBay n f).rowsZero = s.rowsZero := rfl
@[simp] theorem State.mapBay_cutCopy (n : Nat) (f : Bay → Bay) : (s.mapBay n f).cutCopy = s.cutCopy := rfl

/-! ### `setGroup`: bond group `g` replaced -/

@[simp] theorem State.setGroup_pending (g : Nat) (v : Bgrp) : (s.setGroup g v).pending = s.pending := rfl
@[simp] theorem State.setGroup_free (g : Nat) (v : Bgrp) : (s.setGroup g v).free = s.free := rfl
@[simp] theorem State.setGroup_mem (g : Nat) (v : Bgrp) : (s.setGroup g v).mem = s.mem := rfl
@[simp] theorem State.setGroup_mpq (g : Nat) (v : Bgrp) : (s.setGroup g v).mpq = s.mpq := rfl
@[simp] theorem State.setGroup_mpWait (g : Nat) (v : Bgrp) : (s.setGroup g v).mpWait = s.mpWait := rfl
@[simp] theorem State.setGroup_nvm (g : Nat) (v : Bgrp) : (s.setGroup g v).nvm = s.nvm := rfl
@[simp] theorem State.setGroup_bays (g : Nat) (v : Bgrp) : (s.setGroup g v).bays = s.bays := rfl
@[simp] theorem State.setGroup_ctxs (g : Nat) (v : Bgrp) : (s.setGroup g v).ctxs = s.ctxs := rfl
@[simp] theorem State.setGroup_alloc (g : Nat) (v : Bgrp) : (s.setGroup g v).alloc = s.alloc := rfl
@[simp] theorem State.setGroup_tags (g : Nat) (v : Bgrp) : (s.setGroup g v).tags = s.tags := rfl
@[simp] theorem State.setGroup_poison (g : Nat) (v : Bgrp) : (s.setGroup g v).poison = s.poison := rfl
@[simp] theorem State.setGroup_totals (g : Nat) (v : Bgrp) : (s.setGroup g v).totals = s.totals := rfl
@[simp] theorem State.setGroup_runs (g : Nat) (v : Bgrp) : (s.setGroup g v).runs = s.runs := rfl
@[simp] theorem State.setGroup_served (g : Nat) (v : Bgrp) : (s.setGroup g v).served = s.served := rfl
@[simp] theorem State.setGroup_groups (g : Nat) (v : Bgrp) : (s.setGroup g v).groups = sset Bgrp.zero s.groups g v := rfl
@[simp] theorem State.setGroup_store (g : Nat) (v : Bgrp) : (s.setGroup g v).store = s.store := rfl
@[simp] theorem State.setGroup_formed (g : Nat) (v : Bgrp) : (s.setGroup g v).formed = s.formed := rfl
@[simp] theorem State.setGroup_spilled (g : Nat) (v : Bgrp) : (s.setGroup g v).spilled = s.spilled := rfl
@[simp] theorem State.setGroup_topks (g : Nat) (v : Bgrp) : (s.setGroup g v).topks = s.topks := rfl
@[simp] theorem State.setGroup_lathA (g : Nat) (v : Bgrp) : (s.setGroup g v).lathA = s.lathA := rfl
@[simp] theorem State.setGroup_lathB (g : Nat) (v : Bgrp) : (s.setGroup g v).lathB = s.lathB := rfl
@[simp] theorem State.setGroup_tieB (g : Nat) (v : Bgrp) : (s.setGroup g v).tieB = s.tieB := rfl
@[simp] theorem State.setGroup_log (g : Nat) (v : Bgrp) : (s.setGroup g v).log = s.log := rfl
@[simp] theorem State.setGroup_sem (g : Nat) (v : Bgrp) : (s.setGroup g v).sem = s.sem := rfl
@[simp] theorem State.setGroup_nan (g : Nat) (v : Bgrp) : (s.setGroup g v).nan = s.nan := rfl
@[simp] theorem State.setGroup_ctl (g : Nat) (v : Bgrp) : (s.setGroup g v).ctl = s.ctl := rfl
@[simp] theorem State.setGroup_route (g : Nat) (v : Bgrp) : (s.setGroup g v).route = s.route := rfl
@[simp] theorem State.setGroup_stx (g : Nat) (v : Bgrp) : (s.setGroup g v).stx = s.stx := rfl
@[simp] theorem State.setGroup_gn (g : Nat) (v : Bgrp) : (s.setGroup g v).gn = s.gn := rfl
@[simp] theorem State.setGroup_xp (g : Nat) (v : Bgrp) : (s.setGroup g v).xp = s.xp := rfl
@[simp] theorem State.setGroup_img (g : Nat) (v : Bgrp) : (s.setGroup g v).img = s.img := rfl
@[simp] theorem State.setGroup_pwr (g : Nat) (v : Bgrp) : (s.setGroup g v).pwr = s.pwr := rfl
@[simp] theorem State.setGroup_cellar (g : Nat) (v : Bgrp) : (s.setGroup g v).cellar = s.cellar := rfl
@[simp] theorem State.setGroup_cellarRest (g : Nat) (v : Bgrp) : (s.setGroup g v).cellarRest = s.cellarRest := rfl
@[simp] theorem State.setGroup_cellarBuf (g : Nat) (v : Bgrp) : (s.setGroup g v).cellarBuf = s.cellarBuf := rfl
@[simp] theorem State.setGroup_spare (g : Nat) (v : Bgrp) : (s.setGroup g v).spare = s.spare := rfl
@[simp] theorem State.setGroup_dbg (g : Nat) (v : Bgrp) : (s.setGroup g v).dbg = s.dbg := rfl
@[simp] theorem State.setGroup_tap (g : Nat) (v : Bgrp) : (s.setGroup g v).tap = s.tap := rfl
@[simp] theorem State.setGroup_cores (g : Nat) (v : Bgrp) : (s.setGroup g v).cores = s.cores := rfl
@[simp] theorem State.setGroup_rowsZero (g : Nat) (v : Bgrp) : (s.setGroup g v).rowsZero = s.rowsZero := rfl
@[simp] theorem State.setGroup_cutCopy (g : Nat) (v : Bgrp) : (s.setGroup g v).cutCopy = s.cutCopy := rfl

/-! ### `setTotal`: exact total `i` replaced -/

@[simp] theorem State.setTotal_pending (i : Nat) (v : Total) : (s.setTotal i v).pending = s.pending := rfl
@[simp] theorem State.setTotal_free (i : Nat) (v : Total) : (s.setTotal i v).free = s.free := rfl
@[simp] theorem State.setTotal_mem (i : Nat) (v : Total) : (s.setTotal i v).mem = s.mem := rfl
@[simp] theorem State.setTotal_mpq (i : Nat) (v : Total) : (s.setTotal i v).mpq = s.mpq := rfl
@[simp] theorem State.setTotal_mpWait (i : Nat) (v : Total) : (s.setTotal i v).mpWait = s.mpWait := rfl
@[simp] theorem State.setTotal_nvm (i : Nat) (v : Total) : (s.setTotal i v).nvm = s.nvm := rfl
@[simp] theorem State.setTotal_bays (i : Nat) (v : Total) : (s.setTotal i v).bays = s.bays := rfl
@[simp] theorem State.setTotal_ctxs (i : Nat) (v : Total) : (s.setTotal i v).ctxs = s.ctxs := rfl
@[simp] theorem State.setTotal_alloc (i : Nat) (v : Total) : (s.setTotal i v).alloc = s.alloc := rfl
@[simp] theorem State.setTotal_tags (i : Nat) (v : Total) : (s.setTotal i v).tags = s.tags := rfl
@[simp] theorem State.setTotal_poison (i : Nat) (v : Total) : (s.setTotal i v).poison = s.poison := rfl
@[simp] theorem State.setTotal_totals (i : Nat) (v : Total) : (s.setTotal i v).totals = sset Total.zero s.totals i v := rfl
@[simp] theorem State.setTotal_runs (i : Nat) (v : Total) : (s.setTotal i v).runs = s.runs := rfl
@[simp] theorem State.setTotal_served (i : Nat) (v : Total) : (s.setTotal i v).served = s.served := rfl
@[simp] theorem State.setTotal_groups (i : Nat) (v : Total) : (s.setTotal i v).groups = s.groups := rfl
@[simp] theorem State.setTotal_store (i : Nat) (v : Total) : (s.setTotal i v).store = s.store := rfl
@[simp] theorem State.setTotal_formed (i : Nat) (v : Total) : (s.setTotal i v).formed = s.formed := rfl
@[simp] theorem State.setTotal_spilled (i : Nat) (v : Total) : (s.setTotal i v).spilled = s.spilled := rfl
@[simp] theorem State.setTotal_topks (i : Nat) (v : Total) : (s.setTotal i v).topks = s.topks := rfl
@[simp] theorem State.setTotal_lathA (i : Nat) (v : Total) : (s.setTotal i v).lathA = s.lathA := rfl
@[simp] theorem State.setTotal_lathB (i : Nat) (v : Total) : (s.setTotal i v).lathB = s.lathB := rfl
@[simp] theorem State.setTotal_tieB (i : Nat) (v : Total) : (s.setTotal i v).tieB = s.tieB := rfl
@[simp] theorem State.setTotal_log (i : Nat) (v : Total) : (s.setTotal i v).log = s.log := rfl
@[simp] theorem State.setTotal_sem (i : Nat) (v : Total) : (s.setTotal i v).sem = s.sem := rfl
@[simp] theorem State.setTotal_nan (i : Nat) (v : Total) : (s.setTotal i v).nan = s.nan := rfl
@[simp] theorem State.setTotal_ctl (i : Nat) (v : Total) : (s.setTotal i v).ctl = s.ctl := rfl
@[simp] theorem State.setTotal_route (i : Nat) (v : Total) : (s.setTotal i v).route = s.route := rfl
@[simp] theorem State.setTotal_stx (i : Nat) (v : Total) : (s.setTotal i v).stx = s.stx := rfl
@[simp] theorem State.setTotal_gn (i : Nat) (v : Total) : (s.setTotal i v).gn = s.gn := rfl
@[simp] theorem State.setTotal_xp (i : Nat) (v : Total) : (s.setTotal i v).xp = s.xp := rfl
@[simp] theorem State.setTotal_img (i : Nat) (v : Total) : (s.setTotal i v).img = s.img := rfl
@[simp] theorem State.setTotal_pwr (i : Nat) (v : Total) : (s.setTotal i v).pwr = s.pwr := rfl
@[simp] theorem State.setTotal_cellar (i : Nat) (v : Total) : (s.setTotal i v).cellar = s.cellar := rfl
@[simp] theorem State.setTotal_cellarRest (i : Nat) (v : Total) : (s.setTotal i v).cellarRest = s.cellarRest := rfl
@[simp] theorem State.setTotal_cellarBuf (i : Nat) (v : Total) : (s.setTotal i v).cellarBuf = s.cellarBuf := rfl
@[simp] theorem State.setTotal_spare (i : Nat) (v : Total) : (s.setTotal i v).spare = s.spare := rfl
@[simp] theorem State.setTotal_dbg (i : Nat) (v : Total) : (s.setTotal i v).dbg = s.dbg := rfl
@[simp] theorem State.setTotal_tap (i : Nat) (v : Total) : (s.setTotal i v).tap = s.tap := rfl
@[simp] theorem State.setTotal_cores (i : Nat) (v : Total) : (s.setTotal i v).cores = s.cores := rfl
@[simp] theorem State.setTotal_rowsZero (i : Nat) (v : Total) : (s.setTotal i v).rowsZero = s.rowsZero := rfl
@[simp] theorem State.setTotal_cutCopy (i : Nat) (v : Total) : (s.setTotal i v).cutCopy = s.cutCopy := rfl

/-! ### `setCtx`: the entry of context `c` replaced -/

@[simp] theorem State.setCtx_pending (c : Nat) (v : RowCtx) : (s.setCtx c v).pending = s.pending := rfl
@[simp] theorem State.setCtx_free (c : Nat) (v : RowCtx) : (s.setCtx c v).free = s.free := rfl
@[simp] theorem State.setCtx_mem (c : Nat) (v : RowCtx) : (s.setCtx c v).mem = s.mem := rfl
@[simp] theorem State.setCtx_mpq (c : Nat) (v : RowCtx) : (s.setCtx c v).mpq = s.mpq := rfl
@[simp] theorem State.setCtx_mpWait (c : Nat) (v : RowCtx) : (s.setCtx c v).mpWait = s.mpWait := rfl
@[simp] theorem State.setCtx_nvm (c : Nat) (v : RowCtx) : (s.setCtx c v).nvm = s.nvm := rfl
@[simp] theorem State.setCtx_bays (c : Nat) (v : RowCtx) : (s.setCtx c v).bays = s.bays := rfl
@[simp] theorem State.setCtx_ctxs (c : Nat) (v : RowCtx) : (s.setCtx c v).ctxs = sset RowCtx.zero s.ctxs c v := rfl
@[simp] theorem State.setCtx_alloc (c : Nat) (v : RowCtx) : (s.setCtx c v).alloc = s.alloc := rfl
@[simp] theorem State.setCtx_tags (c : Nat) (v : RowCtx) : (s.setCtx c v).tags = s.tags := rfl
@[simp] theorem State.setCtx_poison (c : Nat) (v : RowCtx) : (s.setCtx c v).poison = s.poison := rfl
@[simp] theorem State.setCtx_totals (c : Nat) (v : RowCtx) : (s.setCtx c v).totals = s.totals := rfl
@[simp] theorem State.setCtx_runs (c : Nat) (v : RowCtx) : (s.setCtx c v).runs = s.runs := rfl
@[simp] theorem State.setCtx_served (c : Nat) (v : RowCtx) : (s.setCtx c v).served = s.served := rfl
@[simp] theorem State.setCtx_groups (c : Nat) (v : RowCtx) : (s.setCtx c v).groups = s.groups := rfl
@[simp] theorem State.setCtx_store (c : Nat) (v : RowCtx) : (s.setCtx c v).store = s.store := rfl
@[simp] theorem State.setCtx_formed (c : Nat) (v : RowCtx) : (s.setCtx c v).formed = s.formed := rfl
@[simp] theorem State.setCtx_spilled (c : Nat) (v : RowCtx) : (s.setCtx c v).spilled = s.spilled := rfl
@[simp] theorem State.setCtx_topks (c : Nat) (v : RowCtx) : (s.setCtx c v).topks = s.topks := rfl
@[simp] theorem State.setCtx_lathA (c : Nat) (v : RowCtx) : (s.setCtx c v).lathA = s.lathA := rfl
@[simp] theorem State.setCtx_lathB (c : Nat) (v : RowCtx) : (s.setCtx c v).lathB = s.lathB := rfl
@[simp] theorem State.setCtx_tieB (c : Nat) (v : RowCtx) : (s.setCtx c v).tieB = s.tieB := rfl
@[simp] theorem State.setCtx_log (c : Nat) (v : RowCtx) : (s.setCtx c v).log = s.log := rfl
@[simp] theorem State.setCtx_sem (c : Nat) (v : RowCtx) : (s.setCtx c v).sem = s.sem := rfl
@[simp] theorem State.setCtx_nan (c : Nat) (v : RowCtx) : (s.setCtx c v).nan = s.nan := rfl
@[simp] theorem State.setCtx_ctl (c : Nat) (v : RowCtx) : (s.setCtx c v).ctl = s.ctl := rfl
@[simp] theorem State.setCtx_route (c : Nat) (v : RowCtx) : (s.setCtx c v).route = s.route := rfl
@[simp] theorem State.setCtx_stx (c : Nat) (v : RowCtx) : (s.setCtx c v).stx = s.stx := rfl
@[simp] theorem State.setCtx_gn (c : Nat) (v : RowCtx) : (s.setCtx c v).gn = s.gn := rfl
@[simp] theorem State.setCtx_xp (c : Nat) (v : RowCtx) : (s.setCtx c v).xp = s.xp := rfl
@[simp] theorem State.setCtx_img (c : Nat) (v : RowCtx) : (s.setCtx c v).img = s.img := rfl
@[simp] theorem State.setCtx_pwr (c : Nat) (v : RowCtx) : (s.setCtx c v).pwr = s.pwr := rfl
@[simp] theorem State.setCtx_cellar (c : Nat) (v : RowCtx) : (s.setCtx c v).cellar = s.cellar := rfl
@[simp] theorem State.setCtx_cellarRest (c : Nat) (v : RowCtx) : (s.setCtx c v).cellarRest = s.cellarRest := rfl
@[simp] theorem State.setCtx_cellarBuf (c : Nat) (v : RowCtx) : (s.setCtx c v).cellarBuf = s.cellarBuf := rfl
@[simp] theorem State.setCtx_spare (c : Nat) (v : RowCtx) : (s.setCtx c v).spare = s.spare := rfl
@[simp] theorem State.setCtx_dbg (c : Nat) (v : RowCtx) : (s.setCtx c v).dbg = s.dbg := rfl
@[simp] theorem State.setCtx_tap (c : Nat) (v : RowCtx) : (s.setCtx c v).tap = s.tap := rfl
@[simp] theorem State.setCtx_cores (c : Nat) (v : RowCtx) : (s.setCtx c v).cores = s.cores := rfl
@[simp] theorem State.setCtx_rowsZero (c : Nat) (v : RowCtx) : (s.setCtx c v).rowsZero = s.rowsZero := rfl
@[simp] theorem State.setCtx_cutCopy (c : Nat) (v : RowCtx) : (s.setCtx c v).cutCopy = s.cutCopy := rfl

/-! ### `queueWrite`: a write queued at a memory port -/

@[simp] theorem State.queueWrite_pending (p : Nat) (w : MemWrite) : (s.queueWrite p w).pending = s.pending := rfl
@[simp] theorem State.queueWrite_free (p : Nat) (w : MemWrite) : (s.queueWrite p w).free = s.free := rfl
@[simp] theorem State.queueWrite_mem (p : Nat) (w : MemWrite) : (s.queueWrite p w).mem = s.mem := rfl
@[simp] theorem State.queueWrite_mpq (p : Nat) (w : MemWrite) : (s.queueWrite p w).mpq = s.mpq.modify p (· ++ [w]) := rfl
@[simp] theorem State.queueWrite_mpWait (p : Nat) (w : MemWrite) : (s.queueWrite p w).mpWait = s.mpWait := rfl
@[simp] theorem State.queueWrite_nvm (p : Nat) (w : MemWrite) : (s.queueWrite p w).nvm = s.nvm := rfl
@[simp] theorem State.queueWrite_bays (p : Nat) (w : MemWrite) : (s.queueWrite p w).bays = s.bays := rfl
@[simp] theorem State.queueWrite_ctxs (p : Nat) (w : MemWrite) : (s.queueWrite p w).ctxs = s.ctxs := rfl
@[simp] theorem State.queueWrite_alloc (p : Nat) (w : MemWrite) : (s.queueWrite p w).alloc = s.alloc := rfl
@[simp] theorem State.queueWrite_tags (p : Nat) (w : MemWrite) : (s.queueWrite p w).tags = s.tags := rfl
@[simp] theorem State.queueWrite_poison (p : Nat) (w : MemWrite) : (s.queueWrite p w).poison = s.poison := rfl
@[simp] theorem State.queueWrite_totals (p : Nat) (w : MemWrite) : (s.queueWrite p w).totals = s.totals := rfl
@[simp] theorem State.queueWrite_runs (p : Nat) (w : MemWrite) : (s.queueWrite p w).runs = s.runs := rfl
@[simp] theorem State.queueWrite_served (p : Nat) (w : MemWrite) : (s.queueWrite p w).served = s.served := rfl
@[simp] theorem State.queueWrite_groups (p : Nat) (w : MemWrite) : (s.queueWrite p w).groups = s.groups := rfl
@[simp] theorem State.queueWrite_store (p : Nat) (w : MemWrite) : (s.queueWrite p w).store = s.store := rfl
@[simp] theorem State.queueWrite_formed (p : Nat) (w : MemWrite) : (s.queueWrite p w).formed = s.formed := rfl
@[simp] theorem State.queueWrite_spilled (p : Nat) (w : MemWrite) : (s.queueWrite p w).spilled = s.spilled := rfl
@[simp] theorem State.queueWrite_topks (p : Nat) (w : MemWrite) : (s.queueWrite p w).topks = s.topks := rfl
@[simp] theorem State.queueWrite_lathA (p : Nat) (w : MemWrite) : (s.queueWrite p w).lathA = s.lathA := rfl
@[simp] theorem State.queueWrite_lathB (p : Nat) (w : MemWrite) : (s.queueWrite p w).lathB = s.lathB := rfl
@[simp] theorem State.queueWrite_tieB (p : Nat) (w : MemWrite) : (s.queueWrite p w).tieB = s.tieB := rfl
@[simp] theorem State.queueWrite_log (p : Nat) (w : MemWrite) : (s.queueWrite p w).log = s.log := rfl
@[simp] theorem State.queueWrite_sem (p : Nat) (w : MemWrite) : (s.queueWrite p w).sem = s.sem := rfl
@[simp] theorem State.queueWrite_nan (p : Nat) (w : MemWrite) : (s.queueWrite p w).nan = s.nan := rfl
@[simp] theorem State.queueWrite_ctl (p : Nat) (w : MemWrite) : (s.queueWrite p w).ctl = s.ctl := rfl
@[simp] theorem State.queueWrite_route (p : Nat) (w : MemWrite) : (s.queueWrite p w).route = s.route := rfl
@[simp] theorem State.queueWrite_stx (p : Nat) (w : MemWrite) : (s.queueWrite p w).stx = s.stx := rfl
@[simp] theorem State.queueWrite_gn (p : Nat) (w : MemWrite) : (s.queueWrite p w).gn = s.gn := rfl
@[simp] theorem State.queueWrite_xp (p : Nat) (w : MemWrite) : (s.queueWrite p w).xp = s.xp := rfl
@[simp] theorem State.queueWrite_img (p : Nat) (w : MemWrite) : (s.queueWrite p w).img = s.img := rfl
@[simp] theorem State.queueWrite_pwr (p : Nat) (w : MemWrite) : (s.queueWrite p w).pwr = s.pwr := rfl
@[simp] theorem State.queueWrite_cellar (p : Nat) (w : MemWrite) : (s.queueWrite p w).cellar = s.cellar := rfl
@[simp] theorem State.queueWrite_cellarRest (p : Nat) (w : MemWrite) : (s.queueWrite p w).cellarRest = s.cellarRest := rfl
@[simp] theorem State.queueWrite_cellarBuf (p : Nat) (w : MemWrite) : (s.queueWrite p w).cellarBuf = s.cellarBuf := rfl
@[simp] theorem State.queueWrite_spare (p : Nat) (w : MemWrite) : (s.queueWrite p w).spare = s.spare := rfl
@[simp] theorem State.queueWrite_dbg (p : Nat) (w : MemWrite) : (s.queueWrite p w).dbg = s.dbg := rfl
@[simp] theorem State.queueWrite_tap (p : Nat) (w : MemWrite) : (s.queueWrite p w).tap = s.tap := rfl
@[simp] theorem State.queueWrite_cores (p : Nat) (w : MemWrite) : (s.queueWrite p w).cores = s.cores := rfl
@[simp] theorem State.queueWrite_rowsZero (p : Nat) (w : MemWrite) : (s.queueWrite p w).rowsZero = s.rowsZero := rfl
@[simp] theorem State.queueWrite_cutCopy (p : Nat) (w : MemWrite) : (s.queueWrite p w).cutCopy = s.cutCopy := rfl

/-! ### `sendFrame`: a frame sent on XP -/

@[simp] theorem State.sendFrame_pending (f : XpFrame) : (s.sendFrame f).pending = s.pending := rfl
@[simp] theorem State.sendFrame_free (f : XpFrame) : (s.sendFrame f).free = s.free := rfl
@[simp] theorem State.sendFrame_mem (f : XpFrame) : (s.sendFrame f).mem = s.mem := rfl
@[simp] theorem State.sendFrame_mpq (f : XpFrame) : (s.sendFrame f).mpq = s.mpq := rfl
@[simp] theorem State.sendFrame_mpWait (f : XpFrame) : (s.sendFrame f).mpWait = s.mpWait := rfl
@[simp] theorem State.sendFrame_nvm (f : XpFrame) : (s.sendFrame f).nvm = s.nvm := rfl
@[simp] theorem State.sendFrame_bays (f : XpFrame) : (s.sendFrame f).bays = s.bays := rfl
@[simp] theorem State.sendFrame_ctxs (f : XpFrame) : (s.sendFrame f).ctxs = s.ctxs := rfl
@[simp] theorem State.sendFrame_alloc (f : XpFrame) : (s.sendFrame f).alloc = s.alloc := rfl
@[simp] theorem State.sendFrame_tags (f : XpFrame) : (s.sendFrame f).tags = s.tags := rfl
@[simp] theorem State.sendFrame_poison (f : XpFrame) : (s.sendFrame f).poison = s.poison := rfl
@[simp] theorem State.sendFrame_totals (f : XpFrame) : (s.sendFrame f).totals = s.totals := rfl
@[simp] theorem State.sendFrame_runs (f : XpFrame) : (s.sendFrame f).runs = s.runs := rfl
@[simp] theorem State.sendFrame_served (f : XpFrame) : (s.sendFrame f).served = s.served := rfl
@[simp] theorem State.sendFrame_groups (f : XpFrame) : (s.sendFrame f).groups = s.groups := rfl
@[simp] theorem State.sendFrame_store (f : XpFrame) : (s.sendFrame f).store = s.store := rfl
@[simp] theorem State.sendFrame_formed (f : XpFrame) : (s.sendFrame f).formed = s.formed := rfl
@[simp] theorem State.sendFrame_spilled (f : XpFrame) : (s.sendFrame f).spilled = s.spilled := rfl
@[simp] theorem State.sendFrame_topks (f : XpFrame) : (s.sendFrame f).topks = s.topks := rfl
@[simp] theorem State.sendFrame_lathA (f : XpFrame) : (s.sendFrame f).lathA = s.lathA := rfl
@[simp] theorem State.sendFrame_lathB (f : XpFrame) : (s.sendFrame f).lathB = s.lathB := rfl
@[simp] theorem State.sendFrame_tieB (f : XpFrame) : (s.sendFrame f).tieB = s.tieB := rfl
@[simp] theorem State.sendFrame_log (f : XpFrame) : (s.sendFrame f).log = s.log := rfl
@[simp] theorem State.sendFrame_sem (f : XpFrame) : (s.sendFrame f).sem = s.sem := rfl
@[simp] theorem State.sendFrame_nan (f : XpFrame) : (s.sendFrame f).nan = s.nan := rfl
@[simp] theorem State.sendFrame_ctl (f : XpFrame) : (s.sendFrame f).ctl = s.ctl := rfl
@[simp] theorem State.sendFrame_route (f : XpFrame) : (s.sendFrame f).route = s.route := rfl
@[simp] theorem State.sendFrame_stx (f : XpFrame) : (s.sendFrame f).stx = s.stx := rfl
@[simp] theorem State.sendFrame_gn (f : XpFrame) : (s.sendFrame f).gn = s.gn := rfl
@[simp] theorem State.sendFrame_xp (f : XpFrame) : (s.sendFrame f).xp = { s.xp with out := s.xp.out ++ [f] } := rfl
@[simp] theorem State.sendFrame_img (f : XpFrame) : (s.sendFrame f).img = s.img := rfl
@[simp] theorem State.sendFrame_pwr (f : XpFrame) : (s.sendFrame f).pwr = s.pwr := rfl
@[simp] theorem State.sendFrame_cellar (f : XpFrame) : (s.sendFrame f).cellar = s.cellar := rfl
@[simp] theorem State.sendFrame_cellarRest (f : XpFrame) : (s.sendFrame f).cellarRest = s.cellarRest := rfl
@[simp] theorem State.sendFrame_cellarBuf (f : XpFrame) : (s.sendFrame f).cellarBuf = s.cellarBuf := rfl
@[simp] theorem State.sendFrame_spare (f : XpFrame) : (s.sendFrame f).spare = s.spare := rfl
@[simp] theorem State.sendFrame_dbg (f : XpFrame) : (s.sendFrame f).dbg = s.dbg := rfl
@[simp] theorem State.sendFrame_tap (f : XpFrame) : (s.sendFrame f).tap = s.tap := rfl
@[simp] theorem State.sendFrame_cores (f : XpFrame) : (s.sendFrame f).cores = s.cores := rfl
@[simp] theorem State.sendFrame_rowsZero (f : XpFrame) : (s.sendFrame f).rowsZero = s.rowsZero := rfl
@[simp] theorem State.sendFrame_cutCopy (f : XpFrame) : (s.sendFrame f).cutCopy = s.cutCopy := rfl

/-! ### `pushSo`: entries put in an egress queue -/

@[simp] theorem State.pushSo_pending (n : Nat) (xs : List SoItem) : (s.pushSo n xs).pending = s.pending := rfl
@[simp] theorem State.pushSo_free (n : Nat) (xs : List SoItem) : (s.pushSo n xs).free = s.free := rfl
@[simp] theorem State.pushSo_mem (n : Nat) (xs : List SoItem) : (s.pushSo n xs).mem = s.mem := rfl
@[simp] theorem State.pushSo_mpq (n : Nat) (xs : List SoItem) : (s.pushSo n xs).mpq = s.mpq := rfl
@[simp] theorem State.pushSo_mpWait (n : Nat) (xs : List SoItem) : (s.pushSo n xs).mpWait = s.mpWait := rfl
@[simp] theorem State.pushSo_nvm (n : Nat) (xs : List SoItem) : (s.pushSo n xs).nvm = s.nvm := rfl
@[simp] theorem State.pushSo_bays (n : Nat) (xs : List SoItem) : (s.pushSo n xs).bays = s.bays.modify n fun b => b.sends (b.egress ++ xs) := rfl
@[simp] theorem State.pushSo_ctxs (n : Nat) (xs : List SoItem) : (s.pushSo n xs).ctxs = s.ctxs := rfl
@[simp] theorem State.pushSo_alloc (n : Nat) (xs : List SoItem) : (s.pushSo n xs).alloc = s.alloc := rfl
@[simp] theorem State.pushSo_tags (n : Nat) (xs : List SoItem) : (s.pushSo n xs).tags = s.tags := rfl
@[simp] theorem State.pushSo_poison (n : Nat) (xs : List SoItem) : (s.pushSo n xs).poison = s.poison := rfl
@[simp] theorem State.pushSo_totals (n : Nat) (xs : List SoItem) : (s.pushSo n xs).totals = s.totals := rfl
@[simp] theorem State.pushSo_runs (n : Nat) (xs : List SoItem) : (s.pushSo n xs).runs = s.runs := rfl
@[simp] theorem State.pushSo_served (n : Nat) (xs : List SoItem) : (s.pushSo n xs).served = s.served := rfl
@[simp] theorem State.pushSo_groups (n : Nat) (xs : List SoItem) : (s.pushSo n xs).groups = s.groups := rfl
@[simp] theorem State.pushSo_store (n : Nat) (xs : List SoItem) : (s.pushSo n xs).store = s.store := rfl
@[simp] theorem State.pushSo_formed (n : Nat) (xs : List SoItem) : (s.pushSo n xs).formed = s.formed := rfl
@[simp] theorem State.pushSo_spilled (n : Nat) (xs : List SoItem) : (s.pushSo n xs).spilled = s.spilled := rfl
@[simp] theorem State.pushSo_topks (n : Nat) (xs : List SoItem) : (s.pushSo n xs).topks = s.topks := rfl
@[simp] theorem State.pushSo_lathA (n : Nat) (xs : List SoItem) : (s.pushSo n xs).lathA = s.lathA := rfl
@[simp] theorem State.pushSo_lathB (n : Nat) (xs : List SoItem) : (s.pushSo n xs).lathB = s.lathB := rfl
@[simp] theorem State.pushSo_tieB (n : Nat) (xs : List SoItem) : (s.pushSo n xs).tieB = s.tieB := rfl
@[simp] theorem State.pushSo_log (n : Nat) (xs : List SoItem) : (s.pushSo n xs).log = s.log := rfl
@[simp] theorem State.pushSo_sem (n : Nat) (xs : List SoItem) : (s.pushSo n xs).sem = s.sem := rfl
@[simp] theorem State.pushSo_nan (n : Nat) (xs : List SoItem) : (s.pushSo n xs).nan = s.nan := rfl
@[simp] theorem State.pushSo_ctl (n : Nat) (xs : List SoItem) : (s.pushSo n xs).ctl = s.ctl := rfl
@[simp] theorem State.pushSo_route (n : Nat) (xs : List SoItem) : (s.pushSo n xs).route = s.route := rfl
@[simp] theorem State.pushSo_stx (n : Nat) (xs : List SoItem) : (s.pushSo n xs).stx = s.stx := rfl
@[simp] theorem State.pushSo_gn (n : Nat) (xs : List SoItem) : (s.pushSo n xs).gn = s.gn := rfl
@[simp] theorem State.pushSo_xp (n : Nat) (xs : List SoItem) : (s.pushSo n xs).xp = s.xp := rfl
@[simp] theorem State.pushSo_img (n : Nat) (xs : List SoItem) : (s.pushSo n xs).img = s.img := rfl
@[simp] theorem State.pushSo_pwr (n : Nat) (xs : List SoItem) : (s.pushSo n xs).pwr = s.pwr := rfl
@[simp] theorem State.pushSo_cellar (n : Nat) (xs : List SoItem) : (s.pushSo n xs).cellar = s.cellar := rfl
@[simp] theorem State.pushSo_cellarRest (n : Nat) (xs : List SoItem) : (s.pushSo n xs).cellarRest = s.cellarRest := rfl
@[simp] theorem State.pushSo_cellarBuf (n : Nat) (xs : List SoItem) : (s.pushSo n xs).cellarBuf = s.cellarBuf := rfl
@[simp] theorem State.pushSo_spare (n : Nat) (xs : List SoItem) : (s.pushSo n xs).spare = s.spare := rfl
@[simp] theorem State.pushSo_dbg (n : Nat) (xs : List SoItem) : (s.pushSo n xs).dbg = s.dbg := rfl
@[simp] theorem State.pushSo_tap (n : Nat) (xs : List SoItem) : (s.pushSo n xs).tap = s.tap := rfl
@[simp] theorem State.pushSo_cores (n : Nat) (xs : List SoItem) : (s.pushSo n xs).cores = s.cores := rfl
@[simp] theorem State.pushSo_rowsZero (n : Nat) (xs : List SoItem) : (s.pushSo n xs).rowsZero = s.rowsZero := rfl
@[simp] theorem State.pushSo_cutCopy (n : Nat) (xs : List SoItem) : (s.pushSo n xs).cutCopy = s.cutCopy := rfl

/-! ### `setDr`: the TAP data register loaded -/

@[simp] theorem State.setDr_pending (v : Nat) : (s.setDr v).pending = s.pending := rfl
@[simp] theorem State.setDr_free (v : Nat) : (s.setDr v).free = s.free := rfl
@[simp] theorem State.setDr_mem (v : Nat) : (s.setDr v).mem = s.mem := rfl
@[simp] theorem State.setDr_mpq (v : Nat) : (s.setDr v).mpq = s.mpq := rfl
@[simp] theorem State.setDr_mpWait (v : Nat) : (s.setDr v).mpWait = s.mpWait := rfl
@[simp] theorem State.setDr_nvm (v : Nat) : (s.setDr v).nvm = s.nvm := rfl
@[simp] theorem State.setDr_bays (v : Nat) : (s.setDr v).bays = s.bays := rfl
@[simp] theorem State.setDr_ctxs (v : Nat) : (s.setDr v).ctxs = s.ctxs := rfl
@[simp] theorem State.setDr_alloc (v : Nat) : (s.setDr v).alloc = s.alloc := rfl
@[simp] theorem State.setDr_tags (v : Nat) : (s.setDr v).tags = s.tags := rfl
@[simp] theorem State.setDr_poison (v : Nat) : (s.setDr v).poison = s.poison := rfl
@[simp] theorem State.setDr_totals (v : Nat) : (s.setDr v).totals = s.totals := rfl
@[simp] theorem State.setDr_runs (v : Nat) : (s.setDr v).runs = s.runs := rfl
@[simp] theorem State.setDr_served (v : Nat) : (s.setDr v).served = s.served := rfl
@[simp] theorem State.setDr_groups (v : Nat) : (s.setDr v).groups = s.groups := rfl
@[simp] theorem State.setDr_store (v : Nat) : (s.setDr v).store = s.store := rfl
@[simp] theorem State.setDr_formed (v : Nat) : (s.setDr v).formed = s.formed := rfl
@[simp] theorem State.setDr_spilled (v : Nat) : (s.setDr v).spilled = s.spilled := rfl
@[simp] theorem State.setDr_topks (v : Nat) : (s.setDr v).topks = s.topks := rfl
@[simp] theorem State.setDr_lathA (v : Nat) : (s.setDr v).lathA = s.lathA := rfl
@[simp] theorem State.setDr_lathB (v : Nat) : (s.setDr v).lathB = s.lathB := rfl
@[simp] theorem State.setDr_tieB (v : Nat) : (s.setDr v).tieB = s.tieB := rfl
@[simp] theorem State.setDr_log (v : Nat) : (s.setDr v).log = s.log := rfl
@[simp] theorem State.setDr_sem (v : Nat) : (s.setDr v).sem = s.sem := rfl
@[simp] theorem State.setDr_nan (v : Nat) : (s.setDr v).nan = s.nan := rfl
@[simp] theorem State.setDr_ctl (v : Nat) : (s.setDr v).ctl = s.ctl := rfl
@[simp] theorem State.setDr_route (v : Nat) : (s.setDr v).route = s.route := rfl
@[simp] theorem State.setDr_stx (v : Nat) : (s.setDr v).stx = s.stx := rfl
@[simp] theorem State.setDr_gn (v : Nat) : (s.setDr v).gn = s.gn := rfl
@[simp] theorem State.setDr_xp (v : Nat) : (s.setDr v).xp = s.xp := rfl
@[simp] theorem State.setDr_img (v : Nat) : (s.setDr v).img = s.img := rfl
@[simp] theorem State.setDr_pwr (v : Nat) : (s.setDr v).pwr = s.pwr := rfl
@[simp] theorem State.setDr_cellar (v : Nat) : (s.setDr v).cellar = s.cellar := rfl
@[simp] theorem State.setDr_cellarRest (v : Nat) : (s.setDr v).cellarRest = s.cellarRest := rfl
@[simp] theorem State.setDr_cellarBuf (v : Nat) : (s.setDr v).cellarBuf = s.cellarBuf := rfl
@[simp] theorem State.setDr_spare (v : Nat) : (s.setDr v).spare = s.spare := rfl
@[simp] theorem State.setDr_dbg (v : Nat) : (s.setDr v).dbg = s.dbg := rfl
@[simp] theorem State.setDr_tap (v : Nat) : (s.setDr v).tap = { s.tap with dr := BitVec.ofNat 136 v } := rfl
@[simp] theorem State.setDr_cores (v : Nat) : (s.setDr v).cores = s.cores := rfl
@[simp] theorem State.setDr_rowsZero (v : Nat) : (s.setDr v).rowsZero = s.rowsZero := rfl
@[simp] theorem State.setDr_cutCopy (v : Nat) : (s.setDr v).cutCopy = s.cutCopy := rfl

/-! ### `setLevel`: the debug level set -/

@[simp] theorem State.setLevel_pending (l : Nat) : (s.setLevel l).pending = s.pending := rfl
@[simp] theorem State.setLevel_free (l : Nat) : (s.setLevel l).free = s.free := rfl
@[simp] theorem State.setLevel_mem (l : Nat) : (s.setLevel l).mem = s.mem := rfl
@[simp] theorem State.setLevel_mpq (l : Nat) : (s.setLevel l).mpq = s.mpq := rfl
@[simp] theorem State.setLevel_mpWait (l : Nat) : (s.setLevel l).mpWait = s.mpWait := rfl
@[simp] theorem State.setLevel_nvm (l : Nat) : (s.setLevel l).nvm = s.nvm := rfl
@[simp] theorem State.setLevel_bays (l : Nat) : (s.setLevel l).bays = s.bays := rfl
@[simp] theorem State.setLevel_ctxs (l : Nat) : (s.setLevel l).ctxs = s.ctxs := rfl
@[simp] theorem State.setLevel_alloc (l : Nat) : (s.setLevel l).alloc = s.alloc := rfl
@[simp] theorem State.setLevel_tags (l : Nat) : (s.setLevel l).tags = s.tags := rfl
@[simp] theorem State.setLevel_poison (l : Nat) : (s.setLevel l).poison = s.poison := rfl
@[simp] theorem State.setLevel_totals (l : Nat) : (s.setLevel l).totals = s.totals := rfl
@[simp] theorem State.setLevel_runs (l : Nat) : (s.setLevel l).runs = s.runs := rfl
@[simp] theorem State.setLevel_served (l : Nat) : (s.setLevel l).served = s.served := rfl
@[simp] theorem State.setLevel_groups (l : Nat) : (s.setLevel l).groups = s.groups := rfl
@[simp] theorem State.setLevel_store (l : Nat) : (s.setLevel l).store = s.store := rfl
@[simp] theorem State.setLevel_formed (l : Nat) : (s.setLevel l).formed = s.formed := rfl
@[simp] theorem State.setLevel_spilled (l : Nat) : (s.setLevel l).spilled = s.spilled := rfl
@[simp] theorem State.setLevel_topks (l : Nat) : (s.setLevel l).topks = s.topks := rfl
@[simp] theorem State.setLevel_lathA (l : Nat) : (s.setLevel l).lathA = s.lathA := rfl
@[simp] theorem State.setLevel_lathB (l : Nat) : (s.setLevel l).lathB = s.lathB := rfl
@[simp] theorem State.setLevel_tieB (l : Nat) : (s.setLevel l).tieB = s.tieB := rfl
@[simp] theorem State.setLevel_log (l : Nat) : (s.setLevel l).log = s.log := rfl
@[simp] theorem State.setLevel_sem (l : Nat) : (s.setLevel l).sem = s.sem := rfl
@[simp] theorem State.setLevel_nan (l : Nat) : (s.setLevel l).nan = s.nan := rfl
@[simp] theorem State.setLevel_ctl (l : Nat) : (s.setLevel l).ctl = s.ctl := rfl
@[simp] theorem State.setLevel_route (l : Nat) : (s.setLevel l).route = s.route := rfl
@[simp] theorem State.setLevel_stx (l : Nat) : (s.setLevel l).stx = s.stx := rfl
@[simp] theorem State.setLevel_gn (l : Nat) : (s.setLevel l).gn = s.gn := rfl
@[simp] theorem State.setLevel_xp (l : Nat) : (s.setLevel l).xp = s.xp := rfl
@[simp] theorem State.setLevel_img (l : Nat) : (s.setLevel l).img = s.img := rfl
@[simp] theorem State.setLevel_pwr (l : Nat) : (s.setLevel l).pwr = s.pwr := rfl
@[simp] theorem State.setLevel_cellar (l : Nat) : (s.setLevel l).cellar = s.cellar := rfl
@[simp] theorem State.setLevel_cellarRest (l : Nat) : (s.setLevel l).cellarRest = s.cellarRest := rfl
@[simp] theorem State.setLevel_cellarBuf (l : Nat) : (s.setLevel l).cellarBuf = s.cellarBuf := rfl
@[simp] theorem State.setLevel_spare (l : Nat) : (s.setLevel l).spare = s.spare := rfl
@[simp] theorem State.setLevel_dbg (l : Nat) : (s.setLevel l).dbg = { s.dbg with level := BitVec.ofNat 2 l } := rfl
@[simp] theorem State.setLevel_tap (l : Nat) : (s.setLevel l).tap = s.tap := rfl
@[simp] theorem State.setLevel_cores (l : Nat) : (s.setLevel l).cores = if l < 2 then s.cores.map (fun c => { c with halted := false }) else s.cores := rfl
@[simp] theorem State.setLevel_rowsZero (l : Nat) : (s.setLevel l).rowsZero = s.rowsZero := rfl
@[simp] theorem State.setLevel_cutCopy (l : Nat) : (s.setLevel l).cutCopy = s.cutCopy := rfl

/-! ### `setLath`, `popped` and `respond`: a port's queues replaced -/

@[simp] theorem State.setLath_pending (p : Port) (x : LathPort) : (s.setLath p x).pending = s.pending := by cases p <;> rfl
@[simp] theorem State.setLath_free (p : Port) (x : LathPort) : (s.setLath p x).free = s.free := by cases p <;> rfl
@[simp] theorem State.setLath_mem (p : Port) (x : LathPort) : (s.setLath p x).mem = s.mem := by cases p <;> rfl
@[simp] theorem State.setLath_mpq (p : Port) (x : LathPort) : (s.setLath p x).mpq = s.mpq := by cases p <;> rfl
@[simp] theorem State.setLath_mpWait (p : Port) (x : LathPort) : (s.setLath p x).mpWait = s.mpWait := by cases p <;> rfl
@[simp] theorem State.setLath_nvm (p : Port) (x : LathPort) : (s.setLath p x).nvm = s.nvm := by cases p <;> rfl
@[simp] theorem State.setLath_bays (p : Port) (x : LathPort) : (s.setLath p x).bays = s.bays := by cases p <;> rfl
@[simp] theorem State.setLath_ctxs (p : Port) (x : LathPort) : (s.setLath p x).ctxs = s.ctxs := by cases p <;> rfl
@[simp] theorem State.setLath_alloc (p : Port) (x : LathPort) : (s.setLath p x).alloc = s.alloc := by cases p <;> rfl
@[simp] theorem State.setLath_tags (p : Port) (x : LathPort) : (s.setLath p x).tags = s.tags := by cases p <;> rfl
@[simp] theorem State.setLath_poison (p : Port) (x : LathPort) : (s.setLath p x).poison = s.poison := by cases p <;> rfl
@[simp] theorem State.setLath_totals (p : Port) (x : LathPort) : (s.setLath p x).totals = s.totals := by cases p <;> rfl
@[simp] theorem State.setLath_runs (p : Port) (x : LathPort) : (s.setLath p x).runs = s.runs := by cases p <;> rfl
@[simp] theorem State.setLath_served (p : Port) (x : LathPort) : (s.setLath p x).served = s.served := by cases p <;> rfl
@[simp] theorem State.setLath_groups (p : Port) (x : LathPort) : (s.setLath p x).groups = s.groups := by cases p <;> rfl
@[simp] theorem State.setLath_store (p : Port) (x : LathPort) : (s.setLath p x).store = s.store := by cases p <;> rfl
@[simp] theorem State.setLath_formed (p : Port) (x : LathPort) : (s.setLath p x).formed = s.formed := by cases p <;> rfl
@[simp] theorem State.setLath_spilled (p : Port) (x : LathPort) : (s.setLath p x).spilled = s.spilled := by cases p <;> rfl
@[simp] theorem State.setLath_topks (p : Port) (x : LathPort) : (s.setLath p x).topks = s.topks := by cases p <;> rfl
@[simp] theorem State.setLath_lathA (p : Port) (x : LathPort) :
    (s.setLath p x).lathA = if p = .a then x else s.lathA := by cases p <;> rfl
@[simp] theorem State.setLath_lathB (p : Port) (x : LathPort) :
    (s.setLath p x).lathB = if p = .b then x else s.lathB := by cases p <;> rfl
@[simp] theorem State.setLath_tieB (p : Port) (x : LathPort) : (s.setLath p x).tieB = s.tieB := by cases p <;> rfl
@[simp] theorem State.setLath_log (p : Port) (x : LathPort) : (s.setLath p x).log = s.log := by cases p <;> rfl
@[simp] theorem State.setLath_sem (p : Port) (x : LathPort) : (s.setLath p x).sem = s.sem := by cases p <;> rfl
@[simp] theorem State.setLath_nan (p : Port) (x : LathPort) : (s.setLath p x).nan = s.nan := by cases p <;> rfl
@[simp] theorem State.setLath_ctl (p : Port) (x : LathPort) : (s.setLath p x).ctl = s.ctl := by cases p <;> rfl
@[simp] theorem State.setLath_route (p : Port) (x : LathPort) : (s.setLath p x).route = s.route := by cases p <;> rfl
@[simp] theorem State.setLath_stx (p : Port) (x : LathPort) : (s.setLath p x).stx = s.stx := by cases p <;> rfl
@[simp] theorem State.setLath_gn (p : Port) (x : LathPort) : (s.setLath p x).gn = s.gn := by cases p <;> rfl
@[simp] theorem State.setLath_xp (p : Port) (x : LathPort) : (s.setLath p x).xp = s.xp := by cases p <;> rfl
@[simp] theorem State.setLath_img (p : Port) (x : LathPort) : (s.setLath p x).img = s.img := by cases p <;> rfl
@[simp] theorem State.setLath_pwr (p : Port) (x : LathPort) : (s.setLath p x).pwr = s.pwr := by cases p <;> rfl
@[simp] theorem State.setLath_cellar (p : Port) (x : LathPort) : (s.setLath p x).cellar = s.cellar := by cases p <;> rfl
@[simp] theorem State.setLath_cellarRest (p : Port) (x : LathPort) : (s.setLath p x).cellarRest = s.cellarRest := by cases p <;> rfl
@[simp] theorem State.setLath_cellarBuf (p : Port) (x : LathPort) : (s.setLath p x).cellarBuf = s.cellarBuf := by cases p <;> rfl
@[simp] theorem State.setLath_spare (p : Port) (x : LathPort) : (s.setLath p x).spare = s.spare := by cases p <;> rfl
@[simp] theorem State.setLath_dbg (p : Port) (x : LathPort) : (s.setLath p x).dbg = s.dbg := by cases p <;> rfl
@[simp] theorem State.setLath_tap (p : Port) (x : LathPort) : (s.setLath p x).tap = s.tap := by cases p <;> rfl
@[simp] theorem State.setLath_cores (p : Port) (x : LathPort) : (s.setLath p x).cores = s.cores := by cases p <;> rfl
@[simp] theorem State.setLath_rowsZero (p : Port) (x : LathPort) : (s.setLath p x).rowsZero = s.rowsZero := by cases p <;> rfl
@[simp] theorem State.setLath_cutCopy (p : Port) (x : LathPort) : (s.setLath p x).cutCopy = s.cutCopy := by cases p <;> rfl
@[simp] theorem State.lath_setLath (p : Port) (x : LathPort) : (s.setLath p x).lath p = x := by cases p <;> rfl

@[simp] theorem State.popped_pending (p : Port) : (s.popped p).pending = s.pending := by cases p <;> rfl
@[simp] theorem State.popped_free (p : Port) : (s.popped p).free = s.free := by cases p <;> rfl
@[simp] theorem State.popped_mem (p : Port) : (s.popped p).mem = s.mem := by cases p <;> rfl
@[simp] theorem State.popped_mpq (p : Port) : (s.popped p).mpq = s.mpq := by cases p <;> rfl
@[simp] theorem State.popped_mpWait (p : Port) : (s.popped p).mpWait = s.mpWait := by cases p <;> rfl
@[simp] theorem State.popped_nvm (p : Port) : (s.popped p).nvm = s.nvm := by cases p <;> rfl
@[simp] theorem State.popped_bays (p : Port) : (s.popped p).bays = s.bays := by cases p <;> rfl
@[simp] theorem State.popped_ctxs (p : Port) : (s.popped p).ctxs = s.ctxs := by cases p <;> rfl
@[simp] theorem State.popped_alloc (p : Port) : (s.popped p).alloc = s.alloc := by cases p <;> rfl
@[simp] theorem State.popped_tags (p : Port) : (s.popped p).tags = s.tags := by cases p <;> rfl
@[simp] theorem State.popped_poison (p : Port) : (s.popped p).poison = s.poison := by cases p <;> rfl
@[simp] theorem State.popped_totals (p : Port) : (s.popped p).totals = s.totals := by cases p <;> rfl
@[simp] theorem State.popped_runs (p : Port) : (s.popped p).runs = s.runs := by cases p <;> rfl
@[simp] theorem State.popped_served (p : Port) : (s.popped p).served = s.served := by cases p <;> rfl
@[simp] theorem State.popped_groups (p : Port) : (s.popped p).groups = s.groups := by cases p <;> rfl
@[simp] theorem State.popped_store (p : Port) : (s.popped p).store = s.store := by cases p <;> rfl
@[simp] theorem State.popped_formed (p : Port) : (s.popped p).formed = s.formed := by cases p <;> rfl
@[simp] theorem State.popped_spilled (p : Port) : (s.popped p).spilled = s.spilled := by cases p <;> rfl
@[simp] theorem State.popped_topks (p : Port) : (s.popped p).topks = s.topks := by cases p <;> rfl
@[simp] theorem State.popped_log (p : Port) : (s.popped p).log = s.log := by cases p <;> rfl
@[simp] theorem State.popped_sem (p : Port) : (s.popped p).sem = s.sem := by cases p <;> rfl
@[simp] theorem State.popped_nan (p : Port) : (s.popped p).nan = s.nan := by cases p <;> rfl
@[simp] theorem State.popped_ctl (p : Port) : (s.popped p).ctl = s.ctl := by cases p <;> rfl
@[simp] theorem State.popped_route (p : Port) : (s.popped p).route = s.route := by cases p <;> rfl
@[simp] theorem State.popped_stx (p : Port) : (s.popped p).stx = s.stx := by cases p <;> rfl
@[simp] theorem State.popped_gn (p : Port) : (s.popped p).gn = s.gn := by cases p <;> rfl
@[simp] theorem State.popped_xp (p : Port) : (s.popped p).xp = s.xp := by cases p <;> rfl
@[simp] theorem State.popped_img (p : Port) : (s.popped p).img = s.img := by cases p <;> rfl
@[simp] theorem State.popped_pwr (p : Port) : (s.popped p).pwr = s.pwr := by cases p <;> rfl
@[simp] theorem State.popped_cellar (p : Port) : (s.popped p).cellar = s.cellar := by cases p <;> rfl
@[simp] theorem State.popped_cellarRest (p : Port) : (s.popped p).cellarRest = s.cellarRest := by cases p <;> rfl
@[simp] theorem State.popped_cellarBuf (p : Port) : (s.popped p).cellarBuf = s.cellarBuf := by cases p <;> rfl
@[simp] theorem State.popped_spare (p : Port) : (s.popped p).spare = s.spare := by cases p <;> rfl
@[simp] theorem State.popped_dbg (p : Port) : (s.popped p).dbg = s.dbg := by cases p <;> rfl
@[simp] theorem State.popped_tap (p : Port) : (s.popped p).tap = s.tap := by cases p <;> rfl
@[simp] theorem State.popped_cores (p : Port) : (s.popped p).cores = s.cores := by cases p <;> rfl
@[simp] theorem State.popped_rowsZero (p : Port) : (s.popped p).rowsZero = s.rowsZero := by cases p <;> rfl
@[simp] theorem State.popped_cutCopy (p : Port) : (s.popped p).cutCopy = s.cutCopy := by cases p <;> rfl
theorem State.popped_tieB (p : Port) : (s.popped p).tieB = if s.tie then p == .a else s.tieB := by cases p <;> rfl
theorem State.lath_popped (p : Port) : (s.popped p).lath p = { s.lath p with reqs := (s.lath p).reqs.tail } := by cases p <;> rfl
@[simp] theorem State.respond_pending (p : Port) (q : LathReq) (c d : Nat) : (s.respond p q c d).pending = s.pending := by cases p <;> rfl
@[simp] theorem State.respond_free (p : Port) (q : LathReq) (c d : Nat) : (s.respond p q c d).free = s.free := by cases p <;> rfl
@[simp] theorem State.respond_mem (p : Port) (q : LathReq) (c d : Nat) : (s.respond p q c d).mem = s.mem := by cases p <;> rfl
@[simp] theorem State.respond_mpq (p : Port) (q : LathReq) (c d : Nat) : (s.respond p q c d).mpq = s.mpq := by cases p <;> rfl
@[simp] theorem State.respond_mpWait (p : Port) (q : LathReq) (c d : Nat) : (s.respond p q c d).mpWait = s.mpWait := by cases p <;> rfl
@[simp] theorem State.respond_nvm (p : Port) (q : LathReq) (c d : Nat) : (s.respond p q c d).nvm = s.nvm := by cases p <;> rfl
@[simp] theorem State.respond_bays (p : Port) (q : LathReq) (c d : Nat) : (s.respond p q c d).bays = s.bays := by cases p <;> rfl
@[simp] theorem State.respond_ctxs (p : Port) (q : LathReq) (c d : Nat) : (s.respond p q c d).ctxs = s.ctxs := by cases p <;> rfl
@[simp] theorem State.respond_alloc (p : Port) (q : LathReq) (c d : Nat) : (s.respond p q c d).alloc = s.alloc := by cases p <;> rfl
@[simp] theorem State.respond_tags (p : Port) (q : LathReq) (c d : Nat) : (s.respond p q c d).tags = s.tags := by cases p <;> rfl
@[simp] theorem State.respond_poison (p : Port) (q : LathReq) (c d : Nat) : (s.respond p q c d).poison = s.poison := by cases p <;> rfl
@[simp] theorem State.respond_totals (p : Port) (q : LathReq) (c d : Nat) : (s.respond p q c d).totals = s.totals := by cases p <;> rfl
@[simp] theorem State.respond_runs (p : Port) (q : LathReq) (c d : Nat) : (s.respond p q c d).runs = s.runs := by cases p <;> rfl
@[simp] theorem State.respond_served (p : Port) (q : LathReq) (c d : Nat) : (s.respond p q c d).served = s.served := by cases p <;> rfl
@[simp] theorem State.respond_groups (p : Port) (q : LathReq) (c d : Nat) : (s.respond p q c d).groups = s.groups := by cases p <;> rfl
@[simp] theorem State.respond_store (p : Port) (q : LathReq) (c d : Nat) : (s.respond p q c d).store = s.store := by cases p <;> rfl
@[simp] theorem State.respond_formed (p : Port) (q : LathReq) (c d : Nat) : (s.respond p q c d).formed = s.formed := by cases p <;> rfl
@[simp] theorem State.respond_spilled (p : Port) (q : LathReq) (c d : Nat) : (s.respond p q c d).spilled = s.spilled := by cases p <;> rfl
@[simp] theorem State.respond_topks (p : Port) (q : LathReq) (c d : Nat) : (s.respond p q c d).topks = s.topks := by cases p <;> rfl
@[simp] theorem State.respond_tieB (p : Port) (q : LathReq) (c d : Nat) : (s.respond p q c d).tieB = s.tieB := by cases p <;> rfl
@[simp] theorem State.respond_log (p : Port) (q : LathReq) (c d : Nat) : (s.respond p q c d).log = s.log := by cases p <;> rfl
@[simp] theorem State.respond_sem (p : Port) (q : LathReq) (c d : Nat) : (s.respond p q c d).sem = s.sem := by cases p <;> rfl
@[simp] theorem State.respond_nan (p : Port) (q : LathReq) (c d : Nat) : (s.respond p q c d).nan = s.nan := by cases p <;> rfl
@[simp] theorem State.respond_ctl (p : Port) (q : LathReq) (c d : Nat) : (s.respond p q c d).ctl = s.ctl := by cases p <;> rfl
@[simp] theorem State.respond_route (p : Port) (q : LathReq) (c d : Nat) : (s.respond p q c d).route = s.route := by cases p <;> rfl
@[simp] theorem State.respond_stx (p : Port) (q : LathReq) (c d : Nat) : (s.respond p q c d).stx = s.stx := by cases p <;> rfl
@[simp] theorem State.respond_gn (p : Port) (q : LathReq) (c d : Nat) : (s.respond p q c d).gn = s.gn := by cases p <;> rfl
@[simp] theorem State.respond_xp (p : Port) (q : LathReq) (c d : Nat) : (s.respond p q c d).xp = s.xp := by cases p <;> rfl
@[simp] theorem State.respond_img (p : Port) (q : LathReq) (c d : Nat) : (s.respond p q c d).img = s.img := by cases p <;> rfl
@[simp] theorem State.respond_pwr (p : Port) (q : LathReq) (c d : Nat) : (s.respond p q c d).pwr = s.pwr := by cases p <;> rfl
@[simp] theorem State.respond_cellar (p : Port) (q : LathReq) (c d : Nat) : (s.respond p q c d).cellar = s.cellar := by cases p <;> rfl
@[simp] theorem State.respond_cellarRest (p : Port) (q : LathReq) (c d : Nat) : (s.respond p q c d).cellarRest = s.cellarRest := by cases p <;> rfl
@[simp] theorem State.respond_cellarBuf (p : Port) (q : LathReq) (c d : Nat) : (s.respond p q c d).cellarBuf = s.cellarBuf := by cases p <;> rfl
@[simp] theorem State.respond_spare (p : Port) (q : LathReq) (c d : Nat) : (s.respond p q c d).spare = s.spare := by cases p <;> rfl
@[simp] theorem State.respond_dbg (p : Port) (q : LathReq) (c d : Nat) : (s.respond p q c d).dbg = s.dbg := by cases p <;> rfl
@[simp] theorem State.respond_tap (p : Port) (q : LathReq) (c d : Nat) : (s.respond p q c d).tap = s.tap := by cases p <;> rfl
@[simp] theorem State.respond_cores (p : Port) (q : LathReq) (c d : Nat) : (s.respond p q c d).cores = s.cores := by cases p <;> rfl
@[simp] theorem State.respond_rowsZero (p : Port) (q : LathReq) (c d : Nat) : (s.respond p q c d).rowsZero = s.rowsZero := by cases p <;> rfl
@[simp] theorem State.respond_cutCopy (p : Port) (q : LathReq) (c d : Nat) : (s.respond p q c d).cutCopy = s.cutCopy := by cases p <;> rfl

/-! ### `logE`: an entry queued, or counted in OVF when the queue is full (R272) -/

@[simp] theorem State.logE_pending (cause kind src chain code seq w aux : Nat) :
    (s.logE cause kind src chain code seq w aux).pending = s.pending := by unfold State.logE State.pushLog; split <;> rfl
@[simp] theorem State.logE_free (cause kind src chain code seq w aux : Nat) :
    (s.logE cause kind src chain code seq w aux).free = s.free := by unfold State.logE State.pushLog; split <;> rfl
@[simp] theorem State.logE_mem (cause kind src chain code seq w aux : Nat) :
    (s.logE cause kind src chain code seq w aux).mem = s.mem := by unfold State.logE State.pushLog; split <;> rfl
@[simp] theorem State.logE_mpq (cause kind src chain code seq w aux : Nat) :
    (s.logE cause kind src chain code seq w aux).mpq = s.mpq := by unfold State.logE State.pushLog; split <;> rfl
@[simp] theorem State.logE_mpWait (cause kind src chain code seq w aux : Nat) :
    (s.logE cause kind src chain code seq w aux).mpWait = s.mpWait := by unfold State.logE State.pushLog; split <;> rfl
@[simp] theorem State.logE_nvm (cause kind src chain code seq w aux : Nat) :
    (s.logE cause kind src chain code seq w aux).nvm = s.nvm := by unfold State.logE State.pushLog; split <;> rfl
@[simp] theorem State.logE_bays (cause kind src chain code seq w aux : Nat) :
    (s.logE cause kind src chain code seq w aux).bays = s.bays := by unfold State.logE State.pushLog; split <;> rfl
@[simp] theorem State.logE_ctxs (cause kind src chain code seq w aux : Nat) :
    (s.logE cause kind src chain code seq w aux).ctxs = s.ctxs := by unfold State.logE State.pushLog; split <;> rfl
@[simp] theorem State.logE_alloc (cause kind src chain code seq w aux : Nat) :
    (s.logE cause kind src chain code seq w aux).alloc = s.alloc := by unfold State.logE State.pushLog; split <;> rfl
@[simp] theorem State.logE_tags (cause kind src chain code seq w aux : Nat) :
    (s.logE cause kind src chain code seq w aux).tags = s.tags := by unfold State.logE State.pushLog; split <;> rfl
@[simp] theorem State.logE_poison (cause kind src chain code seq w aux : Nat) :
    (s.logE cause kind src chain code seq w aux).poison = s.poison := by unfold State.logE State.pushLog; split <;> rfl
@[simp] theorem State.logE_totals (cause kind src chain code seq w aux : Nat) :
    (s.logE cause kind src chain code seq w aux).totals = s.totals := by unfold State.logE State.pushLog; split <;> rfl
@[simp] theorem State.logE_runs (cause kind src chain code seq w aux : Nat) :
    (s.logE cause kind src chain code seq w aux).runs = s.runs := by unfold State.logE State.pushLog; split <;> rfl
@[simp] theorem State.logE_served (cause kind src chain code seq w aux : Nat) :
    (s.logE cause kind src chain code seq w aux).served = s.served := by unfold State.logE State.pushLog; split <;> rfl
@[simp] theorem State.logE_groups (cause kind src chain code seq w aux : Nat) :
    (s.logE cause kind src chain code seq w aux).groups = s.groups := by unfold State.logE State.pushLog; split <;> rfl
@[simp] theorem State.logE_store (cause kind src chain code seq w aux : Nat) :
    (s.logE cause kind src chain code seq w aux).store = s.store := by unfold State.logE State.pushLog; split <;> rfl
@[simp] theorem State.logE_formed (cause kind src chain code seq w aux : Nat) :
    (s.logE cause kind src chain code seq w aux).formed = s.formed := by unfold State.logE State.pushLog; split <;> rfl
@[simp] theorem State.logE_spilled (cause kind src chain code seq w aux : Nat) :
    (s.logE cause kind src chain code seq w aux).spilled = s.spilled := by unfold State.logE State.pushLog; split <;> rfl
@[simp] theorem State.logE_topks (cause kind src chain code seq w aux : Nat) :
    (s.logE cause kind src chain code seq w aux).topks = s.topks := by unfold State.logE State.pushLog; split <;> rfl
@[simp] theorem State.logE_lathA (cause kind src chain code seq w aux : Nat) :
    (s.logE cause kind src chain code seq w aux).lathA = s.lathA := by unfold State.logE State.pushLog; split <;> rfl
@[simp] theorem State.logE_lathB (cause kind src chain code seq w aux : Nat) :
    (s.logE cause kind src chain code seq w aux).lathB = s.lathB := by unfold State.logE State.pushLog; split <;> rfl
@[simp] theorem State.logE_tieB (cause kind src chain code seq w aux : Nat) :
    (s.logE cause kind src chain code seq w aux).tieB = s.tieB := by unfold State.logE State.pushLog; split <;> rfl
@[simp] theorem State.logE_sem (cause kind src chain code seq w aux : Nat) :
    (s.logE cause kind src chain code seq w aux).sem = s.sem := by unfold State.logE State.pushLog; split <;> rfl
@[simp] theorem State.logE_nan (cause kind src chain code seq w aux : Nat) :
    (s.logE cause kind src chain code seq w aux).nan = s.nan := by unfold State.logE State.pushLog; split <;> rfl
@[simp] theorem State.logE_ctl (cause kind src chain code seq w aux : Nat) :
    (s.logE cause kind src chain code seq w aux).ctl = s.ctl := by unfold State.logE State.pushLog; split <;> rfl
@[simp] theorem State.logE_route (cause kind src chain code seq w aux : Nat) :
    (s.logE cause kind src chain code seq w aux).route = s.route := by unfold State.logE State.pushLog; split <;> rfl
@[simp] theorem State.logE_stx (cause kind src chain code seq w aux : Nat) :
    (s.logE cause kind src chain code seq w aux).stx = s.stx := by unfold State.logE State.pushLog; split <;> rfl
@[simp] theorem State.logE_gn (cause kind src chain code seq w aux : Nat) :
    (s.logE cause kind src chain code seq w aux).gn = s.gn := by unfold State.logE State.pushLog; split <;> rfl
@[simp] theorem State.logE_xp (cause kind src chain code seq w aux : Nat) :
    (s.logE cause kind src chain code seq w aux).xp = s.xp := by unfold State.logE State.pushLog; split <;> rfl
@[simp] theorem State.logE_img (cause kind src chain code seq w aux : Nat) :
    (s.logE cause kind src chain code seq w aux).img = s.img := by unfold State.logE State.pushLog; split <;> rfl
@[simp] theorem State.logE_pwr (cause kind src chain code seq w aux : Nat) :
    (s.logE cause kind src chain code seq w aux).pwr = s.pwr := by unfold State.logE State.pushLog; split <;> rfl
@[simp] theorem State.logE_cellar (cause kind src chain code seq w aux : Nat) :
    (s.logE cause kind src chain code seq w aux).cellar = s.cellar := by unfold State.logE State.pushLog; split <;> rfl
@[simp] theorem State.logE_cellarRest (cause kind src chain code seq w aux : Nat) :
    (s.logE cause kind src chain code seq w aux).cellarRest = s.cellarRest := by unfold State.logE State.pushLog; split <;> rfl
@[simp] theorem State.logE_cellarBuf (cause kind src chain code seq w aux : Nat) :
    (s.logE cause kind src chain code seq w aux).cellarBuf = s.cellarBuf := by unfold State.logE State.pushLog; split <;> rfl
@[simp] theorem State.logE_spare (cause kind src chain code seq w aux : Nat) :
    (s.logE cause kind src chain code seq w aux).spare = s.spare := by unfold State.logE State.pushLog; split <;> rfl
@[simp] theorem State.logE_dbg (cause kind src chain code seq w aux : Nat) :
    (s.logE cause kind src chain code seq w aux).dbg = s.dbg := by unfold State.logE State.pushLog; split <;> rfl
@[simp] theorem State.logE_tap (cause kind src chain code seq w aux : Nat) :
    (s.logE cause kind src chain code seq w aux).tap = s.tap := by unfold State.logE State.pushLog; split <;> rfl
@[simp] theorem State.logE_cores (cause kind src chain code seq w aux : Nat) :
    (s.logE cause kind src chain code seq w aux).cores = s.cores := by unfold State.logE State.pushLog; split <;> rfl
@[simp] theorem State.logE_rowsZero (cause kind src chain code seq w aux : Nat) :
    (s.logE cause kind src chain code seq w aux).rowsZero = s.rowsZero := by unfold State.logE State.pushLog; split <;> rfl
@[simp] theorem State.logE_cutCopy (cause kind src chain code seq w aux : Nat) :
    (s.logE cause kind src chain code seq w aux).cutCopy = s.cutCopy := by unfold State.logE State.pushLog; split <;> rfl

theorem State.logE_log (cause kind src chain code seq w aux : Nat) :
    (s.logE cause kind src chain code seq w aux).log = if s.log.queue.length < 32
      then { s.log with queue := s.log.queue ++ [logWords cause kind src chain code seq w aux] } else { s.log with ovf := satAdd s.log.ovf 1 } := by
  unfold State.logE State.pushLog; split <;> rfl

/-! ### Writes that wait for the memory ports (R28): nothing but the two lists of them changes -/

theorem State.switchWrite_only (home : Nat) (w : MemWrite) :
    s.switchWrite home w = { s with mpq := (s.switchWrite home w).mpq, mpWait := (s.switchWrite home w).mpWait } := by
  unfold State.switchWrite; split <;> rfl

theorem State.memWrite_only (home : Nat) (w : MemWrite) :
    s.memWrite home w = { s with mpq := (s.memWrite home w).mpq, mpWait := (s.memWrite home w).mpWait } := by
  unfold State.memWrite; split
  · rfl
  · exact State.switchWrite_only ..

/-- A fold of steps that change only the two lists changes only them. -/
theorem State.foldl_writes {α : Type} (f : State → α → State)
    (hf : ∀ t a, f t a = { t with mpq := (f t a).mpq, mpWait := (f t a).mpWait }) (l : List α) : ∀ t : State,
    l.foldl f t = { t with mpq := (l.foldl f t).mpq, mpWait := (l.foldl f t).mpWait } := by
  induction l with
  | nil => intro t; rfl
  | cons a l ih => intro t; rw [List.foldl_cons, ih (f t a), hf t a]

theorem State.admitWrites_only :
    s.admitWrites = { s with mpq := s.admitWrites.mpq, mpWait := s.admitWrites.mpWait } :=
  State.foldl_writes _ (fun t a => t.switchWrite_only a.1 a.2) _ _

theorem State.dropWrites_only (drop : MemWrite → Bool) :
    s.dropWrites drop = { s with mpq := (s.dropWrites drop).mpq, mpWait := (s.dropWrites drop).mpWait } :=
  State.admitWrites_only _

theorem State.memWrites_only (ws : List MemWrite) :
    s.memWrites ws = { s with mpq := (s.memWrites ws).mpq, mpWait := (s.memWrites ws).mpWait } :=
  State.foldl_writes _ (fun t a => t.memWrite_only 0 a) _ _

/-- Writes that have landed have left the two lists, and have changed nothing but memory. -/
theorem State.landWrites_only (who : Writer) (land : Nat → Bool) :
    s.landWrites who land = { s with
      mpq := (s.landWrites who land).mpq
      mpWait := (s.landWrites who land).mpWait
      mem := (s.landWrites who land).mem } := by
  unfold State.landWrites; dsimp only
  rw [State.dropWrites_only]

/-! ### Reading back -/

theorem State.group_setGroup (g k : Nat) (v : Bgrp) (h : swf Bgrp.zero s.groups = true) :
    (s.setGroup g v).group k = if k = g then v else s.group k := sget_sset _ _ _ _ _ h

theorem State.total_setTotal (i k : Nat) (v : Total) (h : swf Total.zero s.totals = true) :
    (s.setTotal i v).total k = if k = i then v else s.total k := sget_sset _ _ _ _ _ h

theorem State.ctx_setCtx (c k : Nat) (v : RowCtx) (h : swf RowCtx.zero s.ctxs = true) :
    (s.setCtx c v).ctx k = if k = c then v else s.ctx k := sget_sset _ _ _ _ _ h

theorem State.bay_mapBay_same (n : Nat) (f : Bay → Bay) (h : n < s.bays.length) : (s.mapBay n f).bay n = f (s.bay n) := by
  simp [State.bay, State.mapBay, h]

theorem State.bay_mapBay_other (n k : Nat) (f : Bay → Bay) (h : k ≠ n) : (s.mapBay n f).bay k = s.bay k := by
  simp [State.bay, State.mapBay, List.getD_eq_getElem?_getD, Ne.symm h]

end Sys2Proof.Machine
end

