-- ==== Sys2Proof/Laws/Fabric.lean ====
section
/-! SUPPORT. What the operations on the memory write queues do (R28, R29): a write enters a queue with room or waits, and
nothing that stands before the ports is lost or comes twice. -/

namespace Sys2Proof.Machine

/-- The port that takes a request is one of the four, and has room. -/
theorem State.portFor_some {s : State} {home p : Nat} (h : s.portFor home = some p) :
    p < 4 ∧ (s.mpq.getD p []).length < 64 := by
  refine ⟨?_, by simpa using List.find?_some h⟩
  obtain ⟨k, -, rfl⟩ := List.mem_map.1 (List.mem_of_find?_eq_some h)
  omega

/-- No port takes a request only where every queue is full. -/
theorem State.portFor_none {s : State} {home : Nat} (h : s.portFor home = none) (p : Nat) (hp : p < 4) :
    64 ≤ (s.mpq.getD p []).length := by
  have := List.find?_eq_none.1 h p (List.mem_map.2 ⟨(p + 4 - home % 4) % 4, by simp; omega, by omega⟩)
  simpa using this

theorem State.switchWrite_sends (s : State) (home : Nat) (w : MemWrite) : s.Sends (s.switchWrite home w) w := by
  unfold State.switchWrite
  split
  · rename_i p h
    exact .inl ⟨p, (State.portFor_some h).1, (State.portFor_some h).2, rfl, rfl⟩
  · rename_i h
    exact .inr ⟨State.portFor_none h, rfl, _, rfl⟩

theorem State.memWrite_sends (s : State) (home : Nat) (w : MemWrite) (hw : w.cells ≠ []) : s.Sends (s.memWrite home w) w := by
  unfold State.memWrite
  rw [if_neg (by simpa using hw)]
  exact State.switchWrite_sends ..

theorem flatten_modify_perm (w : MemWrite) : ∀ (q : List (List MemWrite)) (p : Nat), p < q.length →
    (q.modify p fun l => l ++ [w]).flatten.Perm (q.flatten ++ [w])
  | [], p, h => by simp at h
  | l :: q, 0, _ => by simpa using (List.perm_append_comm (l₁ := [w]) (l₂ := q.flatten)).append_left l
  | l :: q, p + 1, h => by
    simpa using (flatten_modify_perm w q p (by simpa using h)).append_left l

/-- A write that is sent stands before the ports beside those that stood there. -/
theorem State.Sends.puts {s t : State} {w : MemWrite} (h : s.Sends t w) (hq : s.mpq.length = 4) :
    s.Puts t [w] ∧ t.mpq.length = 4 := by
  unfold State.Puts State.writes
  rcases h with ⟨p, hp, -, hm, hw⟩ | ⟨-, hm, home, hw⟩
  · refine ⟨?_, by simp [hm, hq]⟩
    rw [hm, hw]
    refine ((flatten_modify_perm w s.mpq p (by omega)).append_right _).trans ?_
    simpa using (List.perm_append_comm (l₁ := [w]) (l₂ := s.mpWait.map Prod.snd)).append_left s.mpq.flatten
  · exact ⟨by simp [hm, hw], by rw [hm, hq]⟩

/-- Writes that enter the switch one after another stand there beside those that stood there. -/
theorem State.foldl_puts (l : List (Nat × MemWrite)) : ∀ s : State, s.mpq.length = 4 →
    s.Puts (l.foldl (fun (s : State) x => s.switchWrite x.1 x.2) s) (l.map Prod.snd)
      ∧ (l.foldl (fun (s : State) x => s.switchWrite x.1 x.2) s).mpq.length = 4 := by
  induction l with
  | nil => intro s h; exact ⟨by simp [State.Puts], h⟩
  | cons x l ih =>
    intro s h
    have h1 := (s.switchWrite_sends x.1 x.2).puts h
    have h2 := ih _ h1.2
    refine ⟨?_, h2.2⟩
    have := h2.1.trans (h1.1.append_right _)
    simpa [State.Puts] using this

theorem State.admitWrites_writes (s : State) (h : s.mpq.length = 4) :
    s.admitWrites.writes.Perm s.writes ∧ s.admitWrites.mpq.length = 4 := by
  have := State.foldl_puts s.mpWait { s with mpWait := [] } h
  refine ⟨?_, this.2⟩
  simpa [State.Puts, State.writes, State.admitWrites] using this.1

theorem State.dropWrites_writes (s : State) (drop : MemWrite → Bool) (h : s.mpq.length = 4) :
    (s.dropWrites drop).writes.Perm (s.writes.filter fun w => !drop w) ∧ (s.dropWrites drop).mpq.length = 4 := by
  have := State.admitWrites_writes { s with
    mpq := s.mpq.map fun q => q.filter fun w => !drop w
    mpWait := s.mpWait.filter fun x => !drop x.2 } (by simpa using h)
  refine ⟨?_, this.2⟩
  simpa [State.writes, State.dropWrites, List.filter_flatten, List.filter_map, Function.comp_def] using this.1

theorem State.memWrites_puts (ws : List MemWrite) : ∀ s : State, s.mpq.length = 4 → (∀ w ∈ ws, w.cells ≠ []) →
    s.Puts (s.memWrites ws) ws ∧ (s.memWrites ws).mpq.length = 4 := by
  induction ws with
  | nil => intro s h _; exact ⟨by simp [State.Puts, State.memWrites], h⟩
  | cons w ws ih =>
    intro s h hw
    have h1 := (s.memWrite_sends 0 w (hw w (by simp))).puts h
    have h2 := ih _ h1.2 fun x hx => hw x (List.mem_cons_of_mem _ hx)
    refine ⟨?_, h2.2⟩
    have := h2.1.trans (h1.1.append_right _)
    simpa [State.Puts, State.memWrites] using this

end Sys2Proof.Machine
end

