-- ==== Sys2Proof/Laws/Frames.lean ====
section
/-! SUPPORT. Frames of the shared operations on tiles: what marking, refusing, the prefetch, retirement and the tree of a
bond group can change. -/

namespace Sys2Proof.Machine

variable (s : State)

/-- `t` differs from `s` in its bays, groups and error log alone. -/
def TileFrame (s t : State) : Prop := t = { s with bays := t.bays, groups := t.groups, log := t.log }

theorem TileFrame.refl : TileFrame s s := rfl

theorem TileFrame.trans {s t u : State} (h : TileFrame s t) (k : TileFrame t u) : TileFrame s u := by
  unfold TileFrame at *
  rw [k, h]

theorem TileFrame.foldl {α : Type} (f : State → α → State) (hf : ∀ t a, TileFrame t (f t a)) (l : List α) :
    ∀ s : State, TileFrame s (l.foldl f s) := by
  induction l with
  | nil => exact TileFrame.refl
  | cons a l ih => exact fun s => (hf s a).trans (ih _)

theorem State.mapBay_frame (n : Nat) (f : Bay → Bay) : TileFrame s (s.mapBay n f) := rfl

theorem State.logE_frame (cause kind src chain code seq w aux : Nat) : TileFrame s (s.logE cause kind src chain code seq w aux) := by
  unfold State.logE State.pushLog
  split <;> rfl

theorem State.unmark_frame (t : Tile) : TileFrame s (s.unmark t) := by
  unfold State.unmark
  split <;> rfl

theorem State.refuseAs_frame (n : Nat) (t : Tile) (cause w aux : Nat) : TileFrame s (s.refuseAs n t cause w aux) := by
  unfold State.refuseAs
  simp only
  split
  · exact (s.unmark_frame t).trans (State.mapBay_frame _ _ _)
  · exact State.mapBay_frame _ _ _

theorem State.refuse_frame (n : Nat) (t : Tile) (cause w : Nat) : TileFrame s (s.refuse n t cause w) := s.refuseAs_frame n t cause w _

theorem State.prefetchOne_frame (n slot : Nat) : TileFrame s (s.prefetchOne n slot) := by
  unfold State.prefetchOne
  split
  · rfl
  · split
    · rfl
    · split
      · exact ((State.logE_frame _ _ _ _ _ _ _ _ _).trans (State.unmark_frame _ _)).trans (State.mapBay_frame _ _ _)
      · rfl

theorem State.prefetch_frame (n : Nat) : TileFrame s (s.prefetch n) :=
  TileFrame.foldl _ (fun t _ => t.prefetchOne_frame n _) _ s

theorem State.advance_frame (n : Nat) (t : Tile) : TileFrame s (s.advance n t) :=
  (s.mapBay_frame n _).trans (State.prefetch_frame _ n)

theorem State.retireRefused_frame (n : Nat) (t : Tile) (cause : BitVec 8) (entry : Option (W32 × W32)) :
    TileFrame s (s.retireRefused n t cause entry) := by
  unfold State.retireRefused
  refine TileFrame.trans ?_ (State.advance_frame _ n t)
  refine TileFrame.trans ?_ (State.mapBay_frame _ n _)
  cases entry
  · rfl
  · exact State.logE_frame _ _ _ _ _ _ _ _ _

/-- A node that joins the tree changes contexts, groups, the store, the nodes that wait for room in it, and the frames that
leave on XP. -/
theorem State.addNode_frame (e : BondEntry) : s.addNode e = { s with
    ctxs := (s.addNode e).ctxs, groups := (s.addNode e).groups, store := (s.addNode e).store, formed := (s.addNode e).formed
    xp := { s.xp with out := (s.addNode e).xp.out } } := by
  unfold State.addNode
  simp only
  split
  · unfold State.mergeRoot
    simp only
    split <;> rfl
  · split <;> rfl

/-! ### CRC-32 -/

theorem crcBits_lt : ∀ n c : Nat, c < 2 ^ 32 → crcBits n c < 2 ^ 32
  | 0, _, h => h
  | n + 1, c, h => by
    unfold crcBits
    apply crcBits_lt
    split
    · exact Nat.xor_lt_two_pow (by omega) (by decide)
    · omega

/-- A CRC has 32 bits. -/
theorem crc32_lt (bs : List Byte) : crc32 bs < 2 ^ 32 := by
  have go : ∀ (l : List Byte) (c : Nat), c < 2 ^ 32 → l.foldl (fun c b => crcBits 8 (c ^^^ b.toNat)) c < 2 ^ 32 := by
    intro l
    induction l with
    | nil => exact fun _ h => h
    | cons b l ih => exact fun c h => ih _ (crcBits_lt 8 _ (Nat.xor_lt_two_pow h (by have := b.isLt; omega)))
  exact Nat.xor_lt_two_pow (go bs _ (by decide)) (by decide)

end Sys2Proof.Machine
end

