-- ==== Sys2Proof/Laws/Keeps.lean ====
section
/-! SUPPORT. What an operation keeps: the numbers of bays, ports and cores, the bounds of the queues, the canonical
stores, the debug level, and STOPPED as the phase has it. One lemma for each shared operation follows in the files
KeepsTiles, KeepsControl and KeepsWrites. -/

namespace Sys2Proof.Machine

variable {pw : Prop}

/-- STOPPED is 0, in a phase that has it 0. -/
def State.Awake (s : State) : Prop := s.pwr.stopped = false ∧ s.pwr.phase.isStopped = false

/-- What a change of the state keeps. -/
structure Keeps (pw : Prop) (s t : State) : Prop where
  bays : s.bays.length = 32 → t.bays.length = 32
  ports : portsFit s.mpq → portsFit t.mpq
  cores : s.cores.length = 10 → t.cores.length = 10
  reqA : t.lathA.reqs.length ≤ s.lathA.reqs.length
  rspA : t.lathA.rsps.length ≤ s.lathA.rsps.length
  reqB : t.lathB.reqs.length ≤ s.lathB.reqs.length
  rspB : t.lathB.rsps.length ≤ s.lathB.rsps.length
  queue : s.log.queue.length ≤ 32 → t.log.queue.length ≤ 32
  ring : s.log.ring.length ≤ 128 → t.log.ring.length ≤ 128
  canonical : s.Canonical → t.Canonical
  level : s.dbg.level.toNat ≤ 2 → t.dbg.level.toNat ≤ 2
  stopped : pw → s.pwr.stopped = s.pwr.phase.isStopped → t.pwr.stopped = t.pwr.phase.isStopped
  awake : s.Awake → t.Awake

theorem Keeps.refl (s : State) : Keeps pw s s :=
  ⟨id, id, id, le_rfl, le_rfl, le_rfl, le_rfl, id, id, id, id, fun _ => id, id⟩

theorem Keeps.trans {s t u : State} (h : Keeps pw s t) (k : Keeps pw t u) : Keeps pw s u :=
  ⟨k.1 ∘ h.1, k.2 ∘ h.2, k.3 ∘ h.3, k.4.trans h.4, k.5.trans h.5, k.6.trans h.6, k.7.trans h.7, k.8 ∘ h.8,
    k.9 ∘ h.9, k.10 ∘ h.10, k.11 ∘ h.11, fun x => k.12 x ∘ h.12 x, k.13 ∘ h.13⟩

theorem Keeps.inv {s t : State} (h : Keeps True s t) (i : s.Inv) : t.Inv :=
  ⟨h.bays i.bays, h.ports i.ports, h.cores i.cores, ⟨h.reqA.trans i.lathA.1, h.rspA.trans i.lathA.2⟩,
    ⟨h.reqB.trans i.lathB.1, h.rspB.trans i.lathB.2⟩, h.queue i.queue, h.ring i.ring, h.canonical i.canonical,
    h.level i.level, h.stopped trivial i.stopped⟩

/-- The empty queues of a reset fit. -/
theorem portsFit_reset : portsFit State.reset.mpq := by
  refine ⟨rfl, fun x hx => ?_⟩
  have : x = [] := by simpa [show State.reset.mpq = [[], [], [], []] from rfl] using hx
  simp [this]

theorem Keeps.foldl {α : Type} {s : State} (f : State → α → State) (hf : ∀ t a, Keeps pw t (f t a)) (l : List α) :
    ∀ {x : State}, Keeps pw s x → Keeps pw s (l.foldl f x) := by
  induction l with
  | nil => intro x h; exact h
  | cons a l ih => intro x h; exact ih (h.trans (hf x a))

/-- A record update: `X` is the state updated, its queue of commands is never touched. -/
theorem Keeps.mk' {s X : State} {free mem mpq mpWait nvm bays ctxs alloc tags poison totals runs served groups store formed spilled topks
    lathA lathB tieB log sem nan ctl route stx gn xp img pwr cellar cellarRest cellarBuf spare dbg tap cores rowsZero
    cutCopy} (h : Keeps pw s X)
    (h1 : X.bays.length = 32 → bays.length = 32) (h2 : portsFit X.mpq → portsFit mpq)
    (h3 : X.cores.length = 10 → cores.length = 10) (h4 : lathA.reqs.length ≤ X.lathA.reqs.length)
    (h5 : lathA.rsps.length ≤ X.lathA.rsps.length) (h6 : lathB.reqs.length ≤ X.lathB.reqs.length)
    (h7 : lathB.rsps.length ≤ X.lathB.rsps.length) (h8 : X.log.queue.length ≤ 32 → log.queue.length ≤ 32)
    (h9 : X.log.ring.length ≤ 128 → log.ring.length ≤ 128)
    (c1 : Memory.wf X.mem = true → Memory.wf mem = true) (c2 : swf nvmDefault X.nvm = true → swf nvmDefault nvm = true)
    (c3 : swf RowCtx.zero X.ctxs = true → swf RowCtx.zero ctxs = true)
    (c4 : swf (0 : W32) X.tags = true → swf (0 : W32) tags = true)
    (c5 : swf Total.zero X.totals = true → swf Total.zero totals = true)
    (c6 : swf Bgrp.zero X.groups = true → swf Bgrp.zero groups = true)
    (h11 : X.dbg.level.toNat ≤ 2 → dbg.level.toNat ≤ 2)
    (h12 : pw → X.pwr.stopped = X.pwr.phase.isStopped → pwr.stopped = pwr.phase.isStopped)
    (h13 : X.pwr.stopped = false ∧ X.pwr.phase.isStopped = false → pwr.stopped = false ∧ pwr.phase.isStopped = false) :
    Keeps pw s (State.mk X.pending free mem mpq mpWait nvm bays ctxs alloc tags poison totals runs served groups store formed spilled
      topks lathA lathB tieB log sem nan ctl route stx gn xp img pwr cellar cellarRest cellarBuf spare dbg tap cores rowsZero cutCopy) :=
  h.trans ⟨h1, h2, h3, h4, h5, h6, h7, h8, h9, fun c => ⟨c1 c.1, c2 c.2, c3 c.3, c4 c.4, c5 c.5, c6 c.6⟩, h11, h12, h13⟩

theorem Keeps.same {s t : State} (h1 : t.bays = s.bays := by rfl) (h2 : t.mpq = s.mpq := by rfl)
    (h3 : t.cores = s.cores := by rfl) (h4 : t.lathA = s.lathA := by rfl) (h5 : t.lathB = s.lathB := by rfl)
    (h6 : t.log = s.log := by rfl) (h7 : t.mem = s.mem := by rfl) (h8 : t.nvm = s.nvm := by rfl)
    (h9 : t.ctxs = s.ctxs := by rfl) (h10 : t.tags = s.tags := by rfl) (h11 : t.totals = s.totals := by rfl)
    (h12 : t.groups = s.groups := by rfl) (h13 : t.dbg.level = s.dbg.level := by rfl)
    (h14 : t.pwr.stopped = s.pwr.stopped := by rfl) (h15 : t.pwr.phase = s.pwr.phase := by rfl) : Keeps pw s t := by
  refine ⟨?_, ?_, ?_, ?_, ?_, ?_, ?_, ?_, ?_, fun c => ⟨?_, ?_, ?_, ?_, ?_, ?_⟩, ?_, ?_, ?_⟩ <;>
    simp only [h1, h2, h3, h4, h5, h6, h7, h8, h9, h10, h11, h12, h13, h14, h15, State.Awake] <;>
    first | exact id | exact le_rfl | exact fun _ => id | exact c.1 | exact c.2 | exact c.3 | exact c.4 | exact c.5 | exact c.6

end Sys2Proof.Machine
end

