-- ==== Sys2Proof/Laws/KeepsTiles.lean ====
section
/-! SUPPORT. What each operation of the bays, the bond tree and the tiles keeps. -/

namespace Sys2Proof.Machine

set_option Elab.async false

variable {pw : Prop}

/-! ### The operations of Machine/Ops.lean -/

theorem State.mapBay_keeps (s : State) (n : Nat) (f : Bay → Bay) : Keeps pw s (s.mapBay n f) := by
  unfold State.mapBay
  all_goals
    with_reducible refine Keeps.mk' ?_ ?_ ?_ ?_ ?_ ?_ ?_ ?_ ?_ ?_ ?_ ?_ ?_ ?_ ?_ ?_ ?_ ?_ ?_ <;>
      first | exact id | exact le_rfl | exact fun _ => id | skip
    repeat' (first | with_reducible assumption | with_reducible exact Keeps.refl _ | split)
  simp

theorem State.setGroup_keeps (s : State) (g : Nat) (v : Bgrp) : Keeps pw s (s.setGroup g v) := by
  unfold State.setGroup
  all_goals
    with_reducible refine Keeps.mk' ?_ ?_ ?_ ?_ ?_ ?_ ?_ ?_ ?_ ?_ ?_ ?_ ?_ ?_ ?_ ?_ ?_ ?_ ?_ <;>
      first | exact id | exact le_rfl | exact fun _ => id | skip
    repeat' (first | with_reducible assumption | with_reducible exact Keeps.refl _ | split)
  exact swf_sset _ _ _ _

theorem State.setTotal_keeps (s : State) (i : Nat) (v : Total) : Keeps pw s (s.setTotal i v) := by
  unfold State.setTotal
  all_goals
    with_reducible refine Keeps.mk' ?_ ?_ ?_ ?_ ?_ ?_ ?_ ?_ ?_ ?_ ?_ ?_ ?_ ?_ ?_ ?_ ?_ ?_ ?_ <;>
      first | exact id | exact le_rfl | exact fun _ => id | skip
    repeat' (first | with_reducible assumption | with_reducible exact Keeps.refl _ | split)
  exact swf_sset _ _ _ _

theorem State.setCtx_keeps (s : State) (c : Nat) (v : RowCtx) : Keeps pw s (s.setCtx c v) := by
  unfold State.setCtx
  all_goals
    with_reducible refine Keeps.mk' ?_ ?_ ?_ ?_ ?_ ?_ ?_ ?_ ?_ ?_ ?_ ?_ ?_ ?_ ?_ ?_ ?_ ?_ ?_ <;>
      first | exact id | exact le_rfl | exact fun _ => id | skip
    repeat' (first | with_reducible assumption | with_reducible exact Keeps.refl _ | split)
  exact swf_sset _ _ _ _

theorem State.takeFree_keeps (s : State) : Keeps pw s (s.takeFree).2 := Keeps.same

theorem State.pushLog_keeps (s : State) (e : LogEntry) : Keeps pw s (s.pushLog e) := by
  unfold State.pushLog
  repeat' (first | with_reducible assumption | with_reducible exact Keeps.refl _ | split)
  all_goals
    with_reducible refine Keeps.mk' ?_ ?_ ?_ ?_ ?_ ?_ ?_ ?_ ?_ ?_ ?_ ?_ ?_ ?_ ?_ ?_ ?_ ?_ ?_ <;>
      first | exact id | exact le_rfl | exact fun _ => id | skip
    repeat' (first | with_reducible assumption | with_reducible exact Keeps.refl _ | split)
  intro _; simp only [List.length_append, List.length_cons, List.length_nil]; omega

theorem State.logE_keeps (s : State) (cause kind src chain code seq where_ aux : Nat) : Keeps pw s (s.logE cause kind
    src chain code seq where_ aux) := by
  unfold State.logE
  repeat' (first
    | with_reducible assumption
    | with_reducible exact Keeps.refl _
    | with_reducible refine Keeps.trans ?_ (pushLog_keeps ..))

/-! ### The operations of Machine/Bond.lean -/

/-- A queue with room takes a write and still fits. -/
theorem portsFit_modify {q : List (List MemWrite)} {p : Nat} {w : MemWrite} (room : (q.getD p []).length < 64)
    (h : portsFit q) : portsFit (q.modify p (· ++ [w])) := by
  refine ⟨by simpa using h.1, fun x hx => ?_⟩
  obtain ⟨i, hi, rfl⟩ := List.getElem_of_mem hx
  rw [List.getElem_modify]
  have hq : i < q.length := by simpa using hi
  split
  · subst_vars
    simp [List.getD_eq_getElem?_getD, hq] at room
    simp; omega
  · exact h.2 _ (List.getElem_mem hq)

/-- Queues that only lose writes still fit. -/
theorem portsFit_map {q : List (List MemWrite)} {f : List MemWrite → List MemWrite} (hf : ∀ x, (f x).length ≤ x.length)
    (h : portsFit q) : portsFit (q.map f) := by
  refine ⟨by simpa using h.1, fun x hx => ?_⟩
  obtain ⟨y, hy, rfl⟩ := List.mem_map.mp hx
  exact (hf y).trans (h.2 y hy)

theorem State.queueWrite_keeps (s : State) (p : Nat) (w : MemWrite) (room : (s.mpq.getD p []).length < 64) :
    Keeps pw s (s.queueWrite p w) :=
  ⟨id, portsFit_modify room, id, le_rfl, le_rfl, le_rfl, le_rfl, id, id,
    fun c => ⟨c.1, c.2, c.3, c.4, c.5, c.6⟩, id, fun _ => id, id⟩

/-- The port that takes a request has room (R28, R29). -/
theorem State.portFor_room {s : State} {home p : Nat} (h : s.portFor home = some p) : (s.mpq.getD p []).length < 64 := by
  simpa using List.find?_some h

theorem State.switchWrite_keeps (s : State) (home : Nat) (w : MemWrite) : Keeps pw s (s.switchWrite home w) := by
  unfold State.switchWrite
  split
  · rename_i h
    exact State.queueWrite_keeps _ _ _ (State.portFor_room h)
  · exact Keeps.same

theorem State.memWrite_keeps (s : State) (home : Nat) (w : MemWrite) : Keeps pw s (s.memWrite home w) := by
  unfold State.memWrite
  split
  · exact Keeps.refl _
  · exact State.switchWrite_keeps ..

theorem State.admitWrites_keeps (s : State) : Keeps pw s s.admitWrites :=
  Keeps.foldl _ (fun _ _ => State.switchWrite_keeps ..) _ Keeps.same

theorem State.dropWrites_keeps (s : State) (drop : MemWrite → Bool) : Keeps pw s (s.dropWrites drop) :=
  Keeps.trans (t := { s with
      mpq := s.mpq.map fun q => q.filter fun w => !drop w
      mpWait := s.mpWait.filter fun x => !drop x.2 })
    ⟨id, portsFit_map fun _ => List.length_filter_le .., id, le_rfl, le_rfl, le_rfl, le_rfl, id, id,
    fun c => ⟨c.1, c.2, c.3, c.4, c.5, c.6⟩, id, fun _ => id, id⟩ (State.admitWrites_keeps _)

theorem State.dropRecords_keeps (s : State) (n : Nat) (seqs : List W32) : Keeps pw s (s.dropRecords n seqs) :=
  (State.dropWrites_keeps ..).trans Keeps.same

/-- Writes that land keep the canonical form. -/
theorem landWrites_wf (land : Nat → Bool) (ws : List (MemWrite × Nat)) : ∀ {m : List Host.Cell}, Memory.wf m = true →
    Memory.wf ((ws.filter fun p => land p.2).foldl (fun m p => memSetMasked m p.1.cells) m) = true := by
  induction ws with
  | nil => exact id
  | cons a t ih =>
    intro m h
    rw [List.filter_cons]
    split
    · exact ih (memSetMasked_wf _ _ h)
    · exact ih h

theorem State.landWrites_keeps (s : State) (who : Writer) (land : Nat → Bool) : Keeps pw s (s.landWrites who land) := by
  refine (State.dropWrites_keeps s _).trans ⟨id, id, id, le_rfl, le_rfl, le_rfl, le_rfl, id, id,
    fun c => ⟨landWrites_wf land _ ?_, c.2, c.3, c.4, c.5, c.6⟩, id, fun _ => id, id⟩
  have h := c.1
  rw [State.dropWrites_only] at h
  exact h

theorem State.sendFrame_keeps (s : State) (f : XpFrame) : Keeps pw s (s.sendFrame f) := Keeps.same

theorem State.mergeRoot_keeps (s : State) (e : BondEntry) : Keeps pw s (s.mergeRoot e) := by
  unfold State.mergeRoot
  dsimp only
  repeat' (first
    | with_reducible assumption
    | with_reducible exact Keeps.refl _
    | with_reducible refine Keeps.trans ?_ (sendFrame_keeps ..)
    | with_reducible refine Keeps.trans ?_ (setCtx_keeps ..)
    | with_reducible refine Keeps.trans ?_ (setGroup_keeps ..)
    | split)

theorem State.addNode_keeps (s : State) (e : BondEntry) : Keeps pw s (s.addNode e) := by
  unfold State.addNode
  dsimp only
  repeat' (first
    | with_reducible assumption
    | with_reducible exact Keeps.refl _
    | with_reducible refine Keeps.trans ?_ (mergeRoot_keeps ..)
    | split)
  all_goals
    with_reducible refine Keeps.mk' ?_ ?_ ?_ ?_ ?_ ?_ ?_ ?_ ?_ ?_ ?_ ?_ ?_ ?_ ?_ ?_ ?_ ?_ ?_ <;>
      first | exact id | exact le_rfl | exact fun _ => id | skip
    repeat' (first
      | with_reducible assumption
      | with_reducible exact Keeps.refl _)

theorem State.addLeaf_keeps (s : State) (g c q : Nat) (pivot : BitVec 24) (psum : W32) (nan inf : Bool) : Keeps pw s
    (s.addLeaf g c q pivot psum nan inf) := by
  unfold State.addLeaf
  repeat' (first
    | with_reducible assumption
    | with_reducible exact Keeps.refl _
    | with_reducible refine Keeps.trans ?_ (addNode_keeps ..))

/-! ### The operations of Machine/Issue.lean -/

theorem State.nanTraps_keeps (s : State) (n : Nat) (t : Tile) (ctxOf : Nat → Nat) (cs : List (Nat × Nat × Nat × Nat))
    : Keeps pw s (s.nanTraps n t ctxOf cs) := by
  unfold State.nanTraps
  split <;> first | exact Keeps.refl _ | exact Keeps.same

theorem State.writeLanes_keeps (s : State) (h : HeldOp) (r : Nat) (l : List Lane) : Keeps pw s (s.writeLanes h r l)
    := by
  induction l generalizing s r with
  | nil => exact Keeps.refl _
  | cons a t ih => exact (State.setCtx_keeps ..).trans (ih _ _)

theorem State.swapSegment_keeps (s : State) (n : Nat) (t : Tile) (c : Chain) (h : HeldOp) (enters : Bool) (q sg : Nat) :
    Keeps pw s (s.swapSegment n t c h enters q sg) := by
  unfold State.swapSegment
  dsimp only
  repeat' (first
    | with_reducible assumption
    | with_reducible exact Keeps.refl _
    | with_reducible refine Keeps.trans ?_ (writeLanes_keeps ..)
    | with_reducible refine Keeps.trans ?_ (mapBay_keeps ..)
    | split)

theorem State.pushSo_keeps (s : State) (n : Nat) (xs : List SoItem) : Keeps pw s (s.pushSo n xs) := by
  unfold State.pushSo
  repeat' (first
    | with_reducible assumption
    | with_reducible exact Keeps.refl _
    | with_reducible refine Keeps.trans ?_ (mapBay_keeps ..))

theorem State.emitBeat_keeps (s : State) (n : Nat) (t : Tile) (c : Chain) (outs : List (List (Nat × Nat × List (Nat × Nat))))
    (scales : List (List (Nat × Nat))) (j : Nat) : Keeps pw s (s.emitBeat n t c outs scales j) := by
  unfold State.emitBeat
  repeat' (first
    | with_reducible assumption
    | with_reducible exact Keeps.refl _
    | with_reducible refine Keeps.trans ?_ (pushSo_keeps ..)
    | with_reducible refine Keeps.trans ?_ (memWrite_keeps ..)
    | with_reducible refine Keeps.trans ?_ (mapBay_keeps ..)
    | split)

theorem State.emitAll_keeps (s : State) (n : Nat) (t : Tile) (c : Chain) (ws : List LaneW) : Keeps pw s
    (s.emitAll n t c ws) := by
  unfold State.emitAll
  repeat' (first
    | with_reducible assumption
    | with_reducible exact Keeps.refl _
    | (refine Keeps.foldl _ ?_ _ ?_; intro t a)
    | with_reducible refine Keeps.trans ?_ (emitBeat_keeps ..)
    | split)

theorem State.latchSamples_keeps (s : State) (n : Nat) (t : Tile) (c : Chain) (ws : List LaneW) :
    Keeps pw s (s.latchSamples n t c ws) := by
  unfold State.latchSamples
  split <;> first | exact Keeps.refl _ | exact Keeps.same

theorem State.collect_keeps (s : State) (n : Nat) (t : Tile) (c : Chain) (h : HeldOp) (ws : List LaneW) :
    Keeps pw s (s.collect n t c h ws) := by
  unfold State.collect
  repeat' (first
    | with_reducible assumption
    | with_reducible exact Keeps.refl _
    | with_reducible refine Keeps.trans ?_ (nanTraps_keeps ..)
    | with_reducible refine Keeps.trans ?_ (latchSamples_keeps ..)
    | with_reducible refine Keeps.trans ?_ (memWrite_keeps ..)
    | split)
  all_goals
    with_reducible refine Keeps.mk' ?_ ?_ ?_ ?_ ?_ ?_ ?_ ?_ ?_ ?_ ?_ ?_ ?_ ?_ ?_ ?_ ?_ ?_ ?_ <;>
      first | exact id | exact le_rfl | exact fun _ => id | skip
    repeat' (first
      | with_reducible assumption
      | with_reducible exact Keeps.refl _)

theorem State.workLanes_keeps (s : State) (n : Nat) (t : Tile) (c : Chain) (h : HeldOp) (f : Nat → LaneW → LaneW) :
    Keeps pw s (s.workLanes n t c h f) := by
  unfold State.workLanes
  repeat' (first
    | with_reducible assumption
    | with_reducible exact Keeps.refl _
    | with_reducible refine Keeps.trans ?_ (collect_keeps ..)
    | with_reducible refine Keeps.trans ?_ (emitAll_keeps ..)
    | with_reducible refine Keeps.trans ?_ (mapBay_keeps ..))

theorem State.writePivots_keeps (s : State) (n : Nat) (t : Tile) (c : Chain) (q : Nat) (ks : List (BitVec 24)) :
    Keeps pw s (s.writePivots n t c q ks) :=
  Keeps.foldl _ (fun u _ => State.memWrite_keeps u _ _) _ (Keeps.refl _)

theorem State.chunkEnd_keeps (s : State) (n : Nat) (t : Tile) (c : Chain) (v : LaneEnv) (h : HeldOp) (e : Nat) :
    Keeps pw s (s.chunkEnd n t c v h e) := by
  unfold State.chunkEnd
  extract_lets q s1 lanes s2 s3
  have h1 : Keeps pw s s1 := State.workLanes_keeps ..
  have h2 : Keeps pw s s2 := Keeps.foldl _ (fun u _ => State.addLeaf_keeps u ..) _ h1
  have h3 : Keeps pw s s3 := h2.trans (State.writePivots_keeps ..)
  exact h3.trans (mapBay_keeps ..)

theorem State.closeSegment_keeps (s : State) (n : Nat) (t : Tile) (c : Chain) (v : LaneEnv) (h : HeldOp) (ps : List Nat)
    (e : Nat) : Keeps pw s (s.closeSegment n t c v h ps e) := by
  unfold State.closeSegment
  dsimp only
  split
  · exact (State.workLanes_keeps ..).trans (State.chunkEnd_keeps ..)
  · exact State.workLanes_keeps ..

theorem State.emptyLeaves_keeps (s : State) (n : Nat) (t : Tile) (c : Chain) : Keeps pw s (s.emptyLeaves n t c) := by
  unfold State.emptyLeaves
  dsimp only
  split
  · refine Keeps.foldl _ (fun u _ => State.writePivots_keeps u ..) _ ?_
    refine Keeps.foldl _ (fun u _ => ?_) _ (Keeps.refl _)
    refine Keeps.foldl _ (fun w _ => ?_) _ (Keeps.refl _)
    exact Keeps.foldl _ (fun x _ => State.addLeaf_keeps x ..) _ (Keeps.refl _)
  · exact Keeps.refl _

theorem State.beatEnd_keeps (s : State) (n : Nat) (t : Tile) (c : Chain) (v : LaneEnv) (h : HeldOp) (p b : Nat) :
    Keeps pw s (s.beatEnd n t c v h p b) := by
  unfold State.beatEnd
  split
  · exact Keeps.refl _
  · extract_lets size e s1
    have h1 : Keeps pw s s1 := by
      unfold s1
      split
      · exact State.chunkEnd_keeps ..
      · exact Keeps.refl _
    split
    · exact h1.trans (State.emptyLeaves_keeps ..)
    · exact h1

theorem State.segBoundary_keeps (s : State) (n : Nat) (t : Tile) (c : Chain) (v : LaneEnv) (ps : List Nat) (p b : Nat) :
    Keeps pw s (s.segBoundary n t c v ps p b) := by
  unfold State.segBoundary
  dsimp only
  repeat' (first
    | with_reducible assumption
    | with_reducible exact Keeps.refl _
    | with_reducible refine Keeps.trans ?_ (closeSegment_keeps ..)
    | with_reducible refine Keeps.trans ?_ (swapSegment_keeps ..)
    | split)

theorem State.issueBeat_keeps (s : State) (n : Nat) (t : Tile) (c : Chain) (a : Active) (ps : List Nat) (p b : Nat) :
    Keeps pw s (s.issueBeat n t c a ps p b) := by
  unfold State.issueBeat
  dsimp only
  repeat' (first
    | with_reducible assumption
    | with_reducible exact Keeps.refl _
    | with_reducible refine Keeps.trans ?_ (segBoundary_keeps ..)
    | with_reducible refine Keeps.trans ?_ (beatEnd_keeps ..)
    | with_reducible refine Keeps.trans ?_ (workLanes_keeps ..)
    | split)

theorem State.partedBeat_keeps (s : State) (n : Nat) (t : Tile) (c : Chain) (a : Active) (ps : List Nat) (b : Nat)
    (x : Nat × Nat) (h : HeldOp) (q j : Nat) : Keeps pw s (s.partedBeat n t c a ps b x h q j) := by
  unfold State.partedBeat
  extract_lets v h' before waiting later s1 s2 next own s3 s4 s5 s6 s7 s8
  have h2 : Keeps pw s s2 := Keeps.foldl _ (fun u _ => State.workLanes_keeps u ..) _ (State.mapBay_keeps s _ _)
  have h5 : Keeps pw s s5 := ((h2.trans (State.mapBay_keeps s2 _ _)).trans (State.workLanes_keeps s3 ..)).trans
    (State.closeSegment_keeps s4 ..)
  have h8 : Keeps pw s s8 := ((h5.trans (State.writeLanes_keeps s5 ..)).trans (State.mapBay_keeps s6 _ _)).trans
    (State.workLanes_keeps s7 ..)
  exact Keeps.foldl _ (fun u _ => State.beatEnd_keeps u ..) _ h8

theorem State.issuePasses_keeps (s : State) (n : Nat) (t : Tile) (c : Chain) (a : Active) (ps : List Nat) (b : Nat) :
    Keeps pw s (s.issuePasses n t c a ps b) := by
  unfold State.issuePasses
  split
  · exact State.partedBeat_keeps ..
  · exact Keeps.foldl _ (fun u _ => State.issueBeat_keeps u ..) _ (Keeps.refl _)

theorem State.sendRow_keeps (s : State) (t : Tile) (c : Chain) (r : Nat) (ws : List W32) : Keeps pw s (s.sendRow t c
    r ws) := by
  unfold State.sendRow
  repeat' (first
    | with_reducible assumption
    | with_reducible exact Keeps.refl _
    | with_reducible refine Keeps.trans ?_ (sendFrame_keeps ..)
    | split)

theorem State.skipLeaves_keeps (s : State) (n : Nat) (t : Tile) (c : Chain) (h : HeldOp) : Keeps pw s (s.skipLeaves n
    t c h) := by
  unfold State.skipLeaves
  dsimp only
  split
  · exact Keeps.refl _
  · refine Keeps.foldl _ (fun u run => ?_) _ (Keeps.refl _)
    refine Keeps.foldl _ (fun w q => ?_) _ (State.setGroup_keeps ..)
    exact (Keeps.foldl _ (fun _ _ => State.addLeaf_keeps ..) _ (Keeps.refl _)).trans (State.writePivots_keeps ..)

theorem State.writeTopk_keeps (s : State) (n : Nat) (t : Tile) (c : Chain) : Keeps pw s (s.writeTopk n t c) := by
  unfold State.writeTopk
  refine Keeps.foldl _ (fun u p => ?_) _ (Keeps.refl _)
  dsimp only
  split
  · exact State.memWrite_keeps _ _ _
  · exact (State.memWrite_keeps u _ _).trans Keeps.same

theorem State.finishTile_keeps (s : State) (n : Nat) (t : Tile) (c : Chain) (a : Active) : Keeps pw s (s.finishTile n
    t c a) := by
  unfold State.finishTile
  extract_lets v
  split
  · exact Keeps.refl _
  · extract_lets s1 s2 s3 s4 s5 s6 s7
    have h1 : Keeps pw s s1 := State.workLanes_keeps s _ _ _ _ _
    have h2 : Keeps pw s s2 := h1.trans (State.memWrite_keeps s1 _ _)
    have h3 : Keeps pw s s3 := Keeps.foldl _ (fun u _ => State.sendRow_keeps u ..) _ h2
    have h4 : Keeps pw s s4 := h3.trans (State.mapBay_keeps s3 _ _)
    have h5 : Keeps pw s s5 := by
      unfold s5
      split
      · refine Keeps.foldl _ (fun u w => ?_) _ h4
        split
        · exact State.memWrite_keeps u _ _
        · exact Keeps.refl _
      · exact h4
    have h6 : Keeps pw s s6 := h5.trans (State.writeTopk_keeps s5 _ _ _)
    have h7 : Keeps pw s s7 := by
      unfold s7
      split
      · exact h6.trans (State.pushSo_keeps s6 _ _)
      · exact h6
    exact h7.trans (State.skipLeaves_keeps s7 _ _ _ _)

theorem State.sample_keeps (s : State) (n : Nat) (t : Tile) (c : Chain) (a : Active) : Keeps pw s (s.sample n t c a) := by
  unfold State.sample
  dsimp only
  split <;> first | exact Keeps.refl _ | exact Keeps.same

theorem State.issueGroup_keeps (s : State) (n : Nat) (t : Tile) (c : Chain) (a : Active) (beats : List Nat) :
    Keeps pw s (s.issueGroup n t c a beats) := by
  have some' : ∀ (u : State) (ps l : List Nat), Keeps pw u (l.foldl (fun s b => s.issuePasses n t c a ps b) u) :=
    fun u ps l => Keeps.foldl _ (fun x b => State.issuePasses_keeps x ..) _ (Keeps.refl _)
  unfold State.issueGroup
  dsimp only
  split
  · split
    · split
      · exact some' s _ _
      · exact (some' s _ _).trans (State.workLanes_keeps ..)
    · exact some' s _ _
  · split
    · exact some' s _ _
    · exact Keeps.foldl _ (fun x b => State.issueBeat_keeps x ..) _ (Keeps.refl _)

theorem State.finishIssued_keeps (s : State) (n : Nat) : Keeps pw s (s.finishIssued n) := by
  unfold State.finishIssued
  split
  · exact Keeps.refl _
  · dsimp only
    split
    · exact Keeps.foldl _ (fun u _ => State.issuePasses_keeps u ..) _ (Keeps.refl _)
    · exact Keeps.refl _

/-! ### The operations of Machine/Accept.lean -/

theorem State.unmark_keeps (s : State) (t : Tile) : Keeps pw s (s.unmark t) := by
  unfold State.unmark
  repeat' (first
    | with_reducible assumption
    | with_reducible exact Keeps.refl _
    | with_reducible refine Keeps.trans ?_ (setGroup_keeps ..)
    | split)

theorem State.refuseAs_keeps (s : State) (n : Nat) (t : Tile) (cause where_ aux : Nat) : Keeps pw s (s.refuseAs n t
    cause where_ aux) := by
  unfold State.refuseAs
  repeat' (first
    | with_reducible assumption
    | with_reducible exact Keeps.refl _
    | with_reducible refine Keeps.trans ?_ (unmark_keeps ..)
    | with_reducible refine Keeps.trans ?_ (mapBay_keeps ..)
    | split)

theorem State.refuse_keeps (s : State) (n : Nat) (t : Tile) (cause where_ : Nat) : Keeps pw s (s.refuse n t cause
    where_) := by
  unfold State.refuse
  repeat' (first
    | with_reducible assumption
    | with_reducible exact Keeps.refl _
    | with_reducible refine Keeps.trans ?_ (refuseAs_keeps ..))

/-! ### The operations of Machine/Tiles.lean -/

theorem State.logSiproto_keeps (s : State) (n : Nat) (o : Option Tile) : Keeps pw s (s.logSiproto n o) := by
  unfold State.logSiproto
  repeat' (first
    | with_reducible assumption
    | with_reducible exact Keeps.refl _
    | with_reducible refine Keeps.trans ?_ (logE_keeps ..)
    | with_reducible refine Keeps.trans ?_ (takeFree_keeps ..)
    | split)

theorem State.protoError_keeps (s : State) (n : Nat) (t : Tile) (last : Bool) : Keeps pw s (s.protoError n t last) :=
    by
  unfold State.protoError
  repeat' (first
    | with_reducible assumption
    | with_reducible exact Keeps.refl _
    | with_reducible refine Keeps.trans ?_ (finishIssued_keeps ..)
    | with_reducible refine Keeps.trans ?_ (logSiproto_keeps ..)
    | with_reducible refine Keeps.trans ?_ (refuse_keeps ..)
    | with_reducible refine Keeps.trans ?_ (mapBay_keeps ..)
    | split)

theorem State.siTransfer_keeps (s : State) (n : Nat) (tag : Nat) (last ovf : Bool) (data : Beat) : Keeps pw s
    (s.siTransfer n tag last ovf data) := by
  unfold State.siTransfer
  dsimp only
  repeat' (first
    | with_reducible assumption
    | with_reducible exact Keeps.refl _
    | with_reducible refine Keeps.trans ?_ (protoError_keeps ..)
    | with_reducible refine Keeps.trans ?_ (logSiproto_keeps ..)
    | with_reducible refine Keeps.trans ?_ (mapBay_keeps ..)
    | split)

theorem State.eccRefuse_keeps (s : State) (n : Nat) (t : Tile) (x : Nat) : Keeps pw s (s.eccRefuse n t x) := by
  unfold State.eccRefuse
  exact (State.logE_keeps ..).trans ((State.unmark_keeps ..).trans (State.mapBay_keeps ..))

theorem State.prefetchOne_keeps (s : State) (n : Nat) (slot : Nat) : Keeps pw s (s.prefetchOne n slot) := by
  unfold State.prefetchOne
  repeat' (first
    | with_reducible assumption
    | with_reducible exact Keeps.refl _
    | with_reducible refine Keeps.trans ?_ (eccRefuse_keeps ..)
    | with_reducible refine Keeps.trans ?_ (mapBay_keeps ..)
    | split)

theorem State.prefetch_keeps (s : State) (n : Nat) : Keeps pw s (s.prefetch n) := by
  unfold State.prefetch
  repeat' (first
    | with_reducible assumption
    | with_reducible exact Keeps.refl _
    | (refine Keeps.foldl _ ?_ _ ?_; intro t a)
    | with_reducible refine Keeps.trans ?_ (prefetchOne_keeps ..))

theorem State.skipGated_keeps (s : State) (n : Nat) : Keeps pw s (s.skipGated n) := by
  unfold State.skipGated
  repeat' (first
    | with_reducible assumption
    | with_reducible exact Keeps.refl _
    | with_reducible refine Keeps.trans ?_ (mapBay_keeps ..)
    | split)

theorem State.accept_keeps (s : State) (n : Nat) (t : Tile) (words : List W64) : Keeps pw s (s.accept n t words) := by
  unfold State.accept
  extract_lets g s1 change s2
  have h1 : Keeps pw s s1 := by
    unfold s1
    split
    · exact Keeps.refl _
    · exact State.setGroup_keeps s _ _
  have h2 : Keeps pw s s2 := h1.trans (State.mapBay_keeps s1 _ _)
  exact h2.trans ((State.skipGated_keeps s2 n).trans (State.prefetch_keeps _ n))

theorem State.replayDiscard_keeps (s : State) (n : Nat) (t : Tile) : Keeps pw s (s.replayDiscard n t) := by
  unfold State.replayDiscard
  exact ((State.unmark_keeps s t).trans (State.pushSo_keeps _ n _)).trans
    ((State.mapBay_keeps _ n _).trans (State.prefetch_keeps _ n))

theorem State.admit_keeps (s : State) (n : Nat) (t : Tile) (c : Chain) : Keeps pw s (s.takeLanes n t c) := by
  unfold State.takeLanes
  repeat' (first
    | with_reducible assumption
    | with_reducible exact Keeps.refl _
    | with_reducible refine Keeps.trans ?_ (pushSo_keeps ..)
    | with_reducible refine Keeps.trans ?_ (mapBay_keeps ..)
    | split)

theorem State.advance_keeps (s : State) (n : Nat) (t : Tile) : Keeps pw s (s.advance n t) := by
  unfold State.advance
  exact (State.mapBay_keeps s n _).trans (State.prefetch_keeps _ n)

theorem State.retireRefused_keeps (s : State) (n : Nat) (t : Tile) (cause : BitVec 8) (entry : Option (W32 × W32)) :
    Keeps pw s (s.retireRefused n t cause entry) := by
  unfold State.retireRefused
  refine Keeps.trans ?_ ((State.pushSo_keeps _ n _).trans (State.advance_keeps _ n t))
  cases entry with
  | none => exact Keeps.refl _
  | some e => exact State.logE_keeps s _ _ _ _ _ _ _ _

theorem State.backOp_keeps (s : State) (n : Nat) (h : HeldOp) : Keeps pw s (s.backOp n h) := by
  unfold State.backOp
  extract_lets c s1
  have h1 : Keeps pw s s1 := by
    unfold s1
    split
    · exact Keeps.refl _
    · exact State.writeLanes_keeps s h 0 _
  exact h1.trans (State.mapBay_keeps s1 n _)

theorem State.endOp_keeps (s : State) (n : Nat) (h : HeldOp) : Keeps pw s (s.endOp n h) :=
  (State.backOp_keeps s n h).trans (State.prefetch_keeps _ n)

theorem State.loseTile_keeps (s : State) (n : Nat) (t : Tile) : Keeps pw s (s.loseTile n t) := by
  unfold State.loseTile
  repeat' (first
    | with_reducible assumption
    | with_reducible exact Keeps.refl _
    | with_reducible refine Keeps.trans ?_ (logE_keeps ..)
    | with_reducible refine Keeps.trans ?_ (mapBay_keeps ..))

theorem State.loseTiles_keeps (s : State) (n : Nat) : Keeps pw s (s.loseTiles n) := by
  unfold State.loseTiles
  repeat' (first
    | with_reducible assumption
    | with_reducible exact Keeps.refl _
    | (refine Keeps.foldl _ ?_ _ ?_; intro t a)
    | with_reducible refine Keeps.trans ?_ (loseTile_keeps ..)
    | with_reducible refine Keeps.trans ?_ (dropRecords_keeps ..)
    | with_reducible refine Keeps.trans ?_ (mapBay_keeps ..))

end Sys2Proof.Machine
end

