-- ==== Sys2Proof/Laws/KeepsControl.lean ====
section
/-! SUPPORT. What each operation of resets, spares, starts, power and debug keeps. -/

namespace Sys2Proof.Machine

set_option Elab.async false

variable {pw : Prop}

/-! ### The operations of Machine/Reset.lean -/

theorem State.logRing_keeps (s : State) (e : LogEntry) : Keeps pw s (s.logRing e) := by
  unfold State.logRing
  repeat' (first | with_reducible assumption | with_reducible exact Keeps.refl _ | split)
  all_goals
    with_reducible refine Keeps.mk' ?_ ?_ ?_ ?_ ?_ ?_ ?_ ?_ ?_ ?_ ?_ ?_ ?_ ?_ ?_ ?_ ?_ ?_ ?_ <;>
      first | exact id | exact le_rfl | exact fun _ => id | skip
    repeat' (first | with_reducible assumption | with_reducible exact Keeps.refl _ | split)
  intro _; simp only [List.length_append, List.length_cons, List.length_nil]; omega

theorem State.logAO_keeps (s : State) (cause seq where_ aux : Nat) : Keeps pw s (s.logAO cause seq where_ aux) := by
  unfold State.logAO
  repeat' (first
    | with_reducible assumption
    | with_reducible exact Keeps.refl _
    | with_reducible refine Keeps.trans ?_ (logRing_keeps ..))

theorem State.setLevel_keeps (s : State) (l : Nat) (hl : s.dbg.level.toNat ≤ 2 → l ≤ 2) : Keeps pw s (s.setLevel l)
    := by
  unfold State.setLevel
  refine Keeps.mk' ?_ ?_ ?_ ?_ ?_ ?_ ?_ ?_ ?_ ?_ ?_ ?_ ?_ ?_ ?_ ?_ ?_ ?_ ?_ <;>
    first | exact id | exact le_rfl | exact fun _ => id | skip
  · exact Keeps.refl _
  · intro h; split <;> simpa using h
  · intro h; have := hl h; simp only [BitVec.toNat_ofNat]; omega

theorem State.loseUnlock_keeps (s : State) (lc) : Keeps pw s (s.loseUnlock lc) :=
  State.setLevel_keeps s _ fun h => by omega

theorem State.resetControl_keeps (s : State) : Keeps pw s s.resetControl where
  bays _ := rfl
  ports _ := portsFit_reset
  cores _ := rfl
  reqA := Nat.zero_le _
  rspA := Nat.zero_le _
  reqB := Nat.zero_le _
  rspB := Nat.zero_le _
  queue := id
  ring := id
  canonical h := ⟨h.mem, h.nvm, rfl, rfl, rfl, rfl⟩
  level := id
  stopped _ := id
  awake := id

theorem State.dropGrant_keeps (s : State) : Keeps pw s (s.dropGrant) := Keeps.same

theorem State.resetScaffold_keeps (s : State) : Keeps pw s s.resetScaffold where
  bays := id
  ports := id
  cores := id
  reqA := le_rfl
  rspA := le_rfl
  reqB := le_rfl
  rspB := le_rfl
  queue := id
  ring := id
  canonical h := ⟨h.mem, h.nvm, rfl, rfl, rfl, rfl⟩
  level := id
  stopped _ := id
  awake := id

theorem State.setPwr_keeps (s : State) (x : Pwr) (h : x.stopped = s.pwr.stopped) (k : x.phase = s.pwr.phase) :
    Keeps pw s { s with pwr := x } :=
  ⟨id, id, id, le_rfl, le_rfl, le_rfl, le_rfl, id, id, fun c => ⟨c.1, c.2, c.3, c.4, c.5, c.6⟩, id,
    fun _ e => h.trans (e.trans (congrArg Phase.isStopped k).symm), fun e => ⟨h.trans e.1, (congrArg Phase.isStopped
        k).trans e.2⟩⟩

theorem State.setImg_keeps (s : State) (x : Img) : Keeps pw s { s with img := x } :=
  Keeps.same

theorem State.resetWing_keeps (s : State) (west : Bool) : Keeps pw s (s.resetWing west) := by
  unfold State.resetWing
  exact ((Keeps.foldl _ (fun t n => State.mapBay_keeps t n _) _ (Keeps.refl s)).trans
    (State.resetScaffold_keeps _)).trans (State.setImg_keeps _ _)

theorem State.setNvm_keeps (s : State) (m : List Host.Cell) (h : swf nvmDefault s.nvm = true → swf nvmDefault m =
    true) :
    Keeps pw s { s with nvm := m } :=
  ⟨id, id, id, le_rfl, le_rfl, le_rfl, le_rfl, id, id, fun c => ⟨c.1, h c.2, c.3, c.4, c.5, c.6⟩, id, fun _ => id, id⟩

theorem State.programNvm_wf (s : State) (c src i j : Nat) (h : swf nvmDefault s.nvm = true) :
    swf nvmDefault (s.programNvm c src i j) = true := by
  unfold State.programNvm
  exact nvmProgram_wf _ _ (nvmErase_wf _ _ _ h)

theorem State.setNvmFree_keeps (s : State) (k : Nat) (m : List Host.Cell) (h : swf nvmDefault s.nvm = true → swf
    nvmDefault m = true) :
    Keeps pw s { s with
      free := k
      nvm := m } :=
  ⟨id, id, id, le_rfl, le_rfl, le_rfl, le_rfl, id, id, fun c => ⟨c.1, h c.2, c.3, c.4, c.5, c.6⟩, id, fun _ => id, id⟩

theorem State.cutProgram_keeps (s : State) : Keeps pw s s.cutProgram := by
  unfold State.cutProgram
  split
  · exact Keeps.refl _
  · dsimp only
    split
    · exact Keeps.refl _
    · exact ⟨id, id, id, le_rfl, le_rfl, le_rfl, le_rfl, id, id,
        fun c => ⟨c.1, State.programNvm_wf s _ _ _ _ c.2, c.3, c.4, c.5, c.6⟩, id, fun _ => id, id⟩

theorem State.cutPasses_keeps (s : State) : Keeps pw s s.cutPasses := by
  have h : ∀ (s : State) (on : Prop) [Decidable on] (who : Writer), Keeps pw s (if on then
      s.takeFree.2.landWrites who (fun i => bit s.takeFree.1 i) else s) := by
    intro s on _ who
    split
    · exact (State.takeFree_keeps s).trans (State.landWrites_keeps ..)
    · exact Keeps.refl _
  unfold State.cutPasses
  exact ((h s _ _).trans (h _ _ _)).trans Keeps.same

theorem State.beginDrain_keeps (s : State) (d : DrainEnd) (cause : Nat) : Keeps False s (s.beginDrain d cause) := by
  refine ((State.cutProgram_keeps s).trans (State.cutPasses_keeps _)).trans ?_
  exact ⟨fun h => (List.length_map _).trans h, id, id, Nat.zero_le _, le_rfl, Nat.zero_le _, le_rfl, id, id, fun c =>
      ⟨c.1, c.2, c.3, c.4, c.5, c.6⟩, id, False.elim,
    fun h => ⟨h.1, rfl⟩⟩

theorem State.beginWarm_keeps (s : State) (kind lastCause : Nat) : Keeps False s (s.beginWarm kind lastCause) := by
  unfold State.beginWarm
  repeat' (first
    | with_reducible assumption
    | with_reducible exact Keeps.refl _
    | with_reducible refine Keeps.trans ?_ (beginDrain_keeps ..)
    | with_reducible refine Keeps.trans ?_ (logAO_keeps ..)
    | with_reducible refine Keeps.trans ?_ (logE_keeps ..)
    | split)
  all_goals
    with_reducible refine Keeps.mk' ?_ ?_ ?_ ?_ ?_ ?_ ?_ ?_ ?_ ?_ ?_ ?_ ?_ ?_ ?_ ?_ ?_ ?_ ?_ <;>
      first | exact id | exact le_rfl | exact fun _ => id | skip
    repeat' (first
      | with_reducible assumption
      | with_reducible exact Keeps.refl _
      | with_reducible refine Keeps.trans ?_ (beginDrain_keeps ..)
      | with_reducible refine Keeps.trans ?_ (logAO_keeps ..)
      | with_reducible refine Keeps.trans ?_ (logE_keeps ..))

theorem State.faultStop_keeps (s : State) (cause : Nat) : Keeps False s (s.faultStop cause) := by
  unfold State.faultStop
  repeat' (first
    | with_reducible assumption
    | with_reducible exact Keeps.refl _
    | with_reducible refine Keeps.trans ?_ (beginDrain_keeps ..)
    | with_reducible refine Keeps.trans ?_ (logE_keeps ..)
    | split)
  all_goals
    with_reducible refine Keeps.mk' ?_ ?_ ?_ ?_ ?_ ?_ ?_ ?_ ?_ ?_ ?_ ?_ ?_ ?_ ?_ ?_ ?_ ?_ ?_ <;>
      first | exact id | exact le_rfl | exact fun _ => id | skip
    repeat' (first
      | with_reducible assumption
      | with_reducible exact Keeps.refl _
      | with_reducible refine Keeps.trans ?_ (beginDrain_keeps ..)
      | with_reducible refine Keeps.trans ?_ (logE_keeps ..))

theorem State.enterStop_keeps (s : State) (imgValid : Bool) : Keeps False s (s.enterStop imgValid) :=
  ⟨id, id, id, le_rfl, le_rfl, le_rfl, le_rfl, id, id, fun c => ⟨c.1, c.2, c.3, c.4, c.5, c.6⟩, id, False.elim, fun h
      => ⟨h.1, rfl⟩⟩

theorem State.setLath_keeps (s : State) (p : Port) (x : LathPort) (h1 : x.reqs.length ≤ (s.lath p).reqs.length)
    (h2 : x.rsps.length ≤ (s.lath p).rsps.length) : Keeps pw s (s.setLath p x) := by
  cases p
  · exact ⟨id, id, id, h1, h2, le_rfl, le_rfl, id, id, fun c => ⟨c.1, c.2, c.3, c.4, c.5, c.6⟩, id, fun _ => id, id⟩
  · exact ⟨id, id, id, le_rfl, le_rfl, h1, h2, id, id, fun c => ⟨c.1, c.2, c.3, c.4, c.5, c.6⟩, id, fun _ => id, id⟩

theorem State.semReset_keeps (s : State) (p : Port) : Keeps pw s (s.semReset p) := by
  unfold State.semReset
  repeat' (first
    | with_reducible assumption
    | with_reducible exact Keeps.refl _
    | with_reducible refine Keeps.trans ?_ (dropGrant_keeps ..)
    | with_reducible refine Keeps.trans ?_ (logE_keeps ..)
    | split)

theorem State.cancelFor_keeps (s : State) (src : BitVec 2) : Keeps pw s (s.cancelFor src) := by
  unfold State.cancelFor
  split <;> first | exact Keeps.refl _ | exact Keeps.same

/-! ### The operations of Machine/Spares.lean -/

theorem State.setSpare_keeps (s : State) (x : Spare) : Keeps pw s { s with spare := x } :=
  Keeps.same

theorem State.loseBay_keeps (s : State) (n p : Nat) : Keeps pw s (s.loseBay n p) := by
  unfold State.loseBay
  extract_lets hit s0 s1 s2
  have h0 : Keeps pw s s0 := by
    unfold s0
    split
    · exact State.backOp_keeps ..
    · exact Keeps.refl _
  have h1 : Keeps pw s s1 := Keeps.foldl _ (fun u t => State.refuse_keeps u ..) _ h0
  have h2 : Keeps pw s s2 := (h1.trans (State.dropRecords_keeps s1 _ _)).trans (State.mapBay_keeps _ _ _)
  exact h2.trans Keeps.same

theorem State.retireLost_keeps (s : State) (n k : Nat) : Keeps pw s (s.retireLost n k) := by
  induction k generalizing s with
  | zero => exact Keeps.refl _
  | succ k ih =>
    unfold State.retireLost
    repeat' (first | exact Keeps.refl _ | exact (State.retireRefused_keeps ..).trans (ih _) | split)

theorem State.awaitMapping_keeps (s : State) (u : UnitId) (source r : Nat) : Keeps pw s (s.awaitMapping u source r) := by
  unfold State.awaitMapping
  dsimp only
  repeat' (first | exact Keeps.refl _ | exact Keeps.same | split)

theorem State.powerSpare_keeps (s : State) : Keeps pw s (s.powerSpare) := by
  unfold State.powerSpare
  repeat' (first
    | with_reducible assumption
    | with_reducible exact Keeps.refl _
    | (refine Keeps.foldl _ ?_ _ ?_; intro t a)
    | split)
  all_goals
    with_reducible refine Keeps.mk' ?_ ?_ ?_ ?_ ?_ ?_ ?_ ?_ ?_ ?_ ?_ ?_ ?_ ?_ ?_ ?_ ?_ ?_ ?_ <;>
      first | exact id | exact le_rfl | exact fun _ => id | skip
    repeat' (first
      | with_reducible assumption
      | with_reducible exact Keeps.refl _)

theorem State.reportFinding_keeps (s : State) (old : Spare) (u : UnitId) (source result : Nat) : Keeps pw s
    (s.reportFinding old u source result) := by
  unfold State.reportFinding
  dsimp only
  repeat' (first
    | with_reducible assumption
    | with_reducible exact Keeps.refl _
    | with_reducible refine Keeps.trans ?_ (logE_keeps ..)
    | split)
  all_goals
    with_reducible refine Keeps.mk' ?_ ?_ ?_ ?_ ?_ ?_ ?_ ?_ ?_ ?_ ?_ ?_ ?_ ?_ ?_ ?_ ?_ ?_ ?_ <;>
      first | exact id | exact le_rfl | exact fun _ => id | skip
    repeat' (first
      | with_reducible assumption
      | with_reducible exact Keeps.refl _
      | with_reducible refine Keeps.trans ?_ (logE_keeps ..))

theorem State.logEcc_keeps (s : State) (u : UnitId) (aux : Nat) : Keeps pw s (s.logEcc u aux) := State.logE_keeps ..

theorem State.finding_keeps (s : State) (u : UnitId) (source : Nat) (ecc : Option Nat) :
    Keeps pw s (s.finding u source ecc) := by
  unfold State.finding
  extract_lets said
  have hs : ∀ x : State, Keeps pw x (said x) := by
    intro x
    unfold said
    cases ecc with
    | none => exact Keeps.refl _
    | some aux => exact State.logEcc_keeps ..
  split
  · exact hs s
  · extract_lets s1 s2 s3 s4
    have h1 : Keeps pw s s1 := Keeps.same
    have h2 : Keeps pw s s2 := h1.trans (State.awaitMapping_keeps s1 _ _ _)
    have h3 : Keeps pw s s3 := h2.trans (State.powerSpare_keeps s2)
    have h4 : Keeps pw s s4 := by
      unfold s4
      refine Keeps.foldl _ (fun x n => ?_) _ h3
      split
      · exact (State.loseBay_keeps ..).trans (State.retireLost_keeps ..)
      · exact Keeps.refl _
    exact (h4.trans (hs s4)).trans (State.reportFinding_keeps ..)

theorem State.findingRun_keeps (s : State) (u : UnitId) (source : Nat) (ecc : Option Nat) :
    Keeps False s (s.findingRun u source ecc) := by
  unfold State.findingRun
  dsimp only
  repeat' (first
    | with_reducible assumption
    | with_reducible exact Keeps.refl _
    | with_reducible refine Keeps.trans ?_ (finding_keeps ..)
    | with_reducible refine Keeps.trans ?_ (faultStop_keeps ..)
    | split)

theorem State.settleSweep_keeps (s : State) : Keeps pw s s.settleSweep := Keeps.same

theorem State.coverUnit_keeps (s : State) (a u : Nat) : Keeps pw s (s.coverUnit a u) := by
  unfold State.coverUnit
  split
  · exact Keeps.trans Keeps.same (State.settleSweep_keeps _)
  · exact Keeps.refl _

theorem State.patrolFinding_keeps (s : State) (u : UnitId) (source : BitVec 8) :
    Keeps False s (s.patrolFinding u source) := by
  have go : ∀ x : Spare, Keeps False s (({ s with spare := x } : State).findingRun u 1) := fun x =>
    Keeps.trans (State.setSpare_keeps s x) (State.findingRun_keeps ..)
  unfold State.patrolFinding
  dsimp only
  split
  · exact State.findingRun_keeps ..
  · split
    · exact (State.findingRun_keeps ..).trans (State.settleSweep_keeps _)
    · split
      · exact Keeps.refl _
      · split
        · exact Keeps.same
        · split
          · exact (go _).trans (State.settleSweep_keeps _)
          · exact go _

theorem State.setNvmSpare_keeps (s : State) (m : List Host.Cell) (x : Spare)
    (h : swf nvmDefault s.nvm = true → swf nvmDefault m = true) :
    Keeps pw s { s with
      nvm := m
      spare := x } :=
  ⟨id, id, id, le_rfl, le_rfl, le_rfl, le_rfl, id, id, fun c => ⟨c.1, h c.2, c.3, c.4, c.5, c.6⟩, id, fun _ => id, id⟩

theorem nvmRewrite_wf (m : List Host.Cell) (a b : Nat) (z : List (Nat × Byte)) (h : swf nvmDefault m = true) :
    swf nvmDefault (nvmProgram (nvmErase m a b) z) = true :=
  nvmProgram_wf _ _ (nvmErase_wf _ _ _ h)

theorem State.writeFinding_keeps (s : State) (ok : Bool) : Keeps pw s (s.writeFinding ok) := by
  unfold State.writeFinding
  split
  · exact Keeps.refl _
  · next f rest h =>
    extract_lets q addr
    split
    · exact State.logE_keeps s _ _ _ _ _ _ _ _
    · refine State.setNvmSpare_keeps s _ _ ?_
      intro c
      clear_value q
      cases q with
      | inl a => exact nvmProgram_wf _ _ c
      | inr p => exact nvmRewrite_wf s.nvm _ _ _ c

/-! ### The operations of Machine/Start.lean -/

theorem State.logImg_keeps (s : State) (cause step copy reason chain where_ : Nat) : Keeps pw s (s.logImg cause step
    copy reason chain where_) := by
  unfold State.logImg
  repeat' (first
    | with_reducible assumption
    | with_reducible exact Keeps.refl _
    | with_reducible refine Keeps.trans ?_ (logE_keeps ..))

theorem State.writeSelection_keeps (s : State) (ok : Bool) (pref clear : Nat) (retest respeed : Bool) :
    Keeps pw s (s.writeSelection ok pref clear retest respeed) := by
  unfold State.writeSelection
  extract_lets seq used j acts kp _
  split
  · exact State.logImg_keeps ..
  · split
    · exact State.setNvm_keeps _ _ (nvmProgram_wf _ _)
    · exact State.setNvm_keeps _ _ fun h => nvmProgram_wf _ _ (nvmErase_wf _ _ _ h)

theorem State.mapSt_keeps (s : State) (f : Start → Start) : Keeps pw s (s.mapSt f) := Keeps.same

theorem State.nvmPut_keeps (s : State) (a v n : Nat) : Keeps pw s (s.nvmPut a v n) :=
  State.setNvm_keeps _ _ (nvmProgram_wf _ _)

theorem State.endStep_keeps (s : State) (outcome repairs : Nat) : Keeps pw s (s.endStep outcome repairs) := by
  unfold State.endStep
  dsimp only
  repeat' (first
    | with_reducible assumption
    | with_reducible exact Keeps.refl _
    | with_reducible refine Keeps.trans ?_ (nvmPut_keeps ..)
    | with_reducible refine Keeps.trans ?_ (logImg_keeps ..)
    | with_reducible refine Keeps.trans ?_ (mapSt_keeps ..)
    | split)

theorem State.closeRecord_keeps (s : State) (fault : Nat) : Keeps pw s (s.closeRecord fault) := by
  unfold State.closeRecord
  dsimp only
  repeat' (first
    | with_reducible assumption
    | with_reducible exact Keeps.refl _
    | with_reducible refine Keeps.trans ?_ (nvmPut_keeps ..)
    | with_reducible refine Keeps.trans ?_ (logImg_keeps ..)
    | split)

theorem State.stopStart_keeps (s : State) (fault reason : Nat) : Keeps False s (s.stopStart fault reason) := by
  unfold State.stopStart
  exact (((State.endStep_keeps ..).trans (State.closeRecord_keeps ..)).trans (State.setImg_keeps ..)).trans
    (State.enterStop_keeps ..)

theorem State.endWing_keeps (s : State) (result fault : Nat) : Keeps pw s (s.endWing result fault) := by
  unfold State.endWing
  exact (Keeps.foldl _ (fun _ _ => State.mapBay_keeps ..) _ (State.closeRecord_keeps ..)).trans (State.setImg_keeps
      ..)

theorem State.loadWings_keeps (s : State) (f : WingImage → (Nat → Byte) → WingImage) : Keeps pw s (s.loadWings f) :=
    Keeps.same

theorem State.gateBays_keeps (s : State) : Keeps pw s s.gateBays := by
  have aux : ∀ (bs : List Bay) (d : BitVec 38), bs.length = s.bays.length →
      Keeps pw s { s with
        bays := bs
        pwr := { s.pwr with domains := d } } := fun bs d e =>
    ⟨fun h => e.trans h, id, id, le_rfl, le_rfl, le_rfl, le_rfl, id, id,
      fun c => ⟨c.1, c.2, c.3, c.4, c.5, c.6⟩, id, fun _ => id, id⟩
  unfold State.gateBays
  exact aux _ _ (by rw [List.length_map, List.length_zipIdx])

theorem State.wingFail_keeps (s : State) (step reason : Nat) : Keeps pw s (s.wingFail step reason) := by
  unfold State.wingFail
  split
  · exact (State.endStep_keeps ..).trans (State.endWing_keeps ..)
  · extract_lets s1 copy
    have h1 : Keeps pw s s1 := State.logImg_keeps ..
    split
    · exact h1.trans ((State.endStep_keeps ..).trans (State.endWing_keeps ..))
    · rename_i s2 s3 _
      have h2 : Keeps pw s s2 := h1.trans (State.mapSt_keeps ..)
      have h3 : Keeps pw s s3 := by
        unfold s3
        split
        · exact h2
        · exact h2.trans (State.loadWings_keeps ..)
      split
      · exact h3.trans ((State.loadWings_keeps ..).trans (State.gateBays_keeps _))
      · exact h3

theorem State.failNvm_keeps (s : State) (step copy reason : Nat) : Keeps False s (s.failNvm step copy reason) := by
  unfold State.failNvm
  repeat' (first
    | with_reducible assumption
    | with_reducible exact Keeps.refl _
    | with_reducible refine Keeps.trans ?_ (stopStart_keeps ..)
    | with_reducible refine Keeps.trans ?_ (logImg_keeps ..))

theorem State.step2_keeps (s : State) : Keeps False s (s.step2) := by
  unfold State.step2
  dsimp only
  repeat' (first
    | with_reducible assumption
    | with_reducible exact Keeps.refl _
    | with_reducible refine Keeps.trans ?_ (failNvm_keeps ..)
    | with_reducible refine Keeps.trans ?_ (endStep_keeps ..)
    | split)
  all_goals
    with_reducible refine Keeps.mk' ?_ ?_ ?_ ?_ ?_ ?_ ?_ ?_ ?_ ?_ ?_ ?_ ?_ ?_ ?_ ?_ ?_ ?_ ?_ <;>
      first | exact id | exact le_rfl | exact fun _ => id | skip
    repeat' (first
      | with_reducible assumption
      | with_reducible exact Keeps.refl _)

theorem State.openRecord_keeps (s : State) : Keeps pw s s.openRecord := by
  unfold State.openRecord
  extract_lets x m prev recs acts n skip failed a m1 part m2 outs
  refine Keeps.trans ?_ (State.mapSt_keeps _ _)
  have h1 : swf nvmDefault s.nvm = true → swf nvmDefault m1 = true := by
    intro c
    unfold m1
    split
    · exact nvmErase_wf _ _ _ c
    · exact c
  clear_value m1 outs part a
  have h2 : swf nvmDefault s.nvm = true → swf nvmDefault m2 = true := fun c => nvmProgram_wf _ _ (h1 c)
  clear_value m2
  exact (State.setNvm_keeps s _ fun c => nvmProgram_wf _ _ (h2 c)).trans (State.setImg_keeps _ _)

theorem State.failLog_keeps (s : State) (reason : Nat) : Keeps pw s (s.failLog reason) := by
  unfold State.failLog
  repeat' (first
    | with_reducible assumption
    | with_reducible exact Keeps.refl _
    | with_reducible refine Keeps.trans ?_ (endStep_keeps ..)
    | with_reducible refine Keeps.trans ?_ (logImg_keeps ..))

theorem State.step3_keeps (s : State) : Keeps False s s.step3 := by
  unfold State.step3
  split
  · exact (State.openRecord_keeps s).trans (State.endStep_keeps _ _ _)
  · exact State.failLog_keeps s _

theorem State.failLevel_keeps (s : State) (step copy l reason : Nat) : Keeps pw s (s.failLevel step copy l reason) := by
  unfold State.failLevel
  repeat' (first
    | with_reducible assumption
    | with_reducible exact Keeps.refl _
    | with_reducible refine Keeps.trans ?_ (mapSt_keeps ..)
    | with_reducible refine Keeps.trans ?_ (logImg_keeps ..)
    | split)
  all_goals
    with_reducible refine Keeps.mk' ?_ ?_ ?_ ?_ ?_ ?_ ?_ ?_ ?_ ?_ ?_ ?_ ?_ ?_ ?_ ?_ ?_ ?_ ?_ <;>
      first | exact id | exact le_rfl | exact fun _ => id | skip
    repeat' (first
      | with_reducible assumption
      | with_reducible exact Keeps.refl _)

theorem State.nextLevel_keeps (s : State) (reason : Nat) : Keeps False s (s.nextLevel reason) := by
  unfold State.nextLevel
  dsimp only
  split
  · exact (State.failLevel_keeps ..).trans (State.failNvm_keeps ..)
  · exact (State.failLevel_keeps ..).trans (State.mapSt_keeps ..)

theorem State.step4_keeps (s : State) : Keeps False s s.step4 := by
  unfold State.step4
  dsimp only
  split
  · refine Keeps.trans (Keeps.trans (State.setImg_keeps s { s.img with speed := BitVec.ofNat 2 s.tryLevel }) ?_)
      (State.endStep_keeps ..)
    split
    · exact State.logImg_keeps ..
    · split
      · exact State.nvmPut_keeps ..
      · exact Keeps.refl _
  · exact State.nextLevel_keeps ..

theorem State.dropLevels_keeps (s : State) (step copy n : Nat) : Keeps pw s (s.dropLevels step copy n).1 := by
  induction n generalizing s with
  | zero => exact Keeps.refl _
  | succ n ih =>
    unfold State.dropLevels
    split
    · exact Keeps.refl _
    · exact ((State.failLevel_keeps ..).trans (State.setImg_keeps ..)).trans (ih _)

theorem State.reread_keeps (s : State) (step i : Nat) : Keeps pw s (s.reread step i).1 := by
  unfold State.reread
  dsimp only
  split
  · exact Keeps.refl _
  · exact State.dropLevels_keeps ..

theorem State.markFailed_keeps (s : State) (c : Nat) : Keeps pw s (s.markFailed c) := Keeps.same

theorem State.failCopy_keeps (s : State) (c : Nat) (f : Nat × Nat × Nat × Nat) : Keeps pw s (s.failCopy c f) := by
  unfold State.failCopy
  repeat' (first
    | with_reducible assumption
    | with_reducible exact Keeps.refl _
    | with_reducible refine Keeps.trans ?_ (markFailed_keeps ..)
    | with_reducible refine Keeps.trans ?_ (logImg_keeps ..))

theorem State.tryCopy_keeps (s : State) (c : Nat) : Keeps pw s (s.tryCopy c).1 := by
  have h := State.reread_keeps (pw := pw) s 5 c
  unfold State.tryCopy
  dsimp only
  split
  · split
    · split
      · exact h.trans (State.failCopy_keeps ..)
      · exact h
    · exact h.trans (State.failCopy_keeps ..)
  · exact State.failCopy_keeps ..

theorem State.tryCopies_keeps (s : State) (l : List Nat) : Keeps pw s (s.tryCopies l).1 := by
  induction l generalizing s with
  | nil => exact Keeps.refl _
  | cons c t ih =>
    unfold State.tryCopies
    extract_lets r
    split
    · exact State.tryCopy_keeps s c
    · exact (State.tryCopy_keeps s c).trans (ih _)

theorem State.readHeaders_keeps (s : State) : Keeps pw s (s.readHeaders) := Keeps.same

theorem State.setWing_keeps (s : State) (west : Bool) (c : Nat) : Keeps pw s (s.setWing west c) := Keeps.same

theorem State.writePart2_keeps (s : State) (c : Nat) (gen : W32) (hash : BitVec 256) :
    Keeps pw s (s.writePart2 c gen hash) := by
  unfold State.writePart2
  split
  · exact State.logImg_keeps ..
  · split
    · exact (((State.nvmPut_keeps ..).trans (State.nvmPut_keeps ..)).trans (State.nvmPut_keeps ..)).trans
        (State.nvmPut_keeps ..)
    · exact Keeps.refl _

theorem State.hashSkip_keeps (s : State) (hash : BitVec 256) : Keeps pw s (s.hashSkip hash) := by
  unfold State.hashSkip
  dsimp only
  repeat' (first
    | with_reducible assumption
    | with_reducible exact Keeps.refl _
    | with_reducible refine Keeps.trans ?_ (mapSt_keeps ..)
    | split)
  all_goals
    with_reducible refine Keeps.mk' ?_ ?_ ?_ ?_ ?_ ?_ ?_ ?_ ?_ ?_ ?_ ?_ ?_ ?_ ?_ ?_ ?_ ?_ ?_ <;>
      first | exact id | exact le_rfl | exact fun _ => id | skip
    repeat' (first
      | with_reducible assumption
      | with_reducible exact Keeps.refl _)

theorem State.settle_keeps (s : State) (c : Option Nat) (reason : Nat) : Keeps False s (s.settle c reason) := by
  unfold State.settle
  split
  · exact (State.logImg_keeps ..).trans (State.stopStart_keeps ..)
  · extract_lets g h s1 s2 s3
    have h1 : Keeps False s s1 := (State.setWing_keeps ..).trans (State.setWing_keeps ..)
    clear_value s1
    have h2 : Keeps False s s2 := by
      unfold s2
      split
      · exact h1
      · exact h1.trans (State.logImg_keeps ..)
    clear_value s2
    have h3 : Keeps False s s3 := h2.trans ((State.writePart2_keeps ..).trans (State.hashSkip_keeps ..))
    exact h3.trans ((State.mapSt_keeps ..).trans (State.endStep_keeps ..))

theorem State.resumeMiss_keeps (s : State) (c reason : Nat) : Keeps pw s (s.resumeMiss c reason) := by
  unfold State.resumeMiss
  extract_lets env s1
  have h1 : Keeps pw s s1 := ((State.logImg_keeps ..).trans (State.endStep_keeps ..)).trans (State.closeRecord_keeps
      ..)
  clear_value s1
  refine h1.trans ?_
  exact Keeps.same

theorem State.markCut_keeps (s : State) : Keeps pw s s.markCut := by
  unfold State.markCut
  split <;> exact Keeps.same

theorem State.step5Wing_keeps (s : State) : Keeps pw s s.step5Wing := by
  unfold State.step5Wing
  extract_lets c k q s1 r g h og oh s2
  have h1 : Keeps pw s s1 := State.tryCopies_keeps ..
  split
  · exact h1.trans ((State.endStep_keeps ..).trans (State.endWing_keeps ..))
  · split
    · exact h1.trans ((State.logImg_keeps ..).trans ((State.endStep_keeps ..).trans (State.endWing_keeps ..)))
    · have h2 : Keeps pw s s2 := h1.trans ((State.writePart2_keeps ..).trans (State.resetWing_keeps ..))
      exact h2.trans ((State.setWing_keeps ..).trans ((State.mapSt_keeps ..).trans (State.endStep_keeps ..)))

theorem State.step5_keeps (s : State) : Keeps False s s.step5 := by
  unfold State.step5
  extract_lets s0 x s1 wd s2 q
  have h0 : Keeps False s s0 := State.markCut_keeps s
  split
  · exact h0.trans (State.step5Wing_keeps ..)
  · split
    · split
      · have h1 : Keeps False s s2 := h0.trans ((State.readHeaders_keeps ..).trans ((State.setWing_keeps ..).trans
          (State.setWing_keeps ..)))
        exact h1.trans ((State.writePart2_keeps ..).trans ((State.mapSt_keeps ..).trans (State.endStep_keeps ..)))
      · exact h0.trans ((State.readHeaders_keeps ..).trans (State.resumeMiss_keeps ..))
    · exact h0.trans ((State.readHeaders_keeps s0).trans ((State.tryCopies_keeps s1 s1.copyOrder).trans
        (State.settle_keeps ..)))

theorem State.startFindings_keeps (s : State) (step : Nat) : Keeps pw s (s.startFindings step).1 := by
  unfold State.startFindings
  have : ∀ (l : List (Nat × UnitId)) (a : State × Nat × Bool), Keeps pw s a.1 →
      Keeps pw s (l.foldl (fun (a : State × Nat × Bool) f =>
        match (if unitOk f.2 then a.1.spare.retire f.2 else none) with
        | none => a
        | some r => (a.1.finding f.2 0, a.2.1 + b2n (mappedOut f.2.kind.toNat r.2),
            a.2.2 || a.1.spare.ranOut r.1 || (r.2 == 1 && f.2.kind.toNat != 8))) a).1 := by
    intro l
    induction l with
    | nil => intro a h; exact h
    | cons f t ih =>
      intro a h
      apply ih
      dsimp only
      split
      · exact h
      · exact h.trans (State.finding_keeps a.1 f.2 0 none)
  exact this _ _ (Keeps.refl _)

theorem State.passWith_keeps (a : State × Nat × Bool) (s : State) (h : Keeps pw s a.1) : Keeps pw s (State.passWith
    a) := by
  unfold State.passWith
  exact h.trans (State.endStep_keeps ..)

theorem State.failTrowel_keeps (s : State) (reason : Nat) : Keeps False s (s.failTrowel reason) := by
  unfold State.failTrowel
  repeat' (first
    | with_reducible assumption
    | with_reducible exact Keeps.refl _
    | with_reducible refine Keeps.trans ?_ (stopStart_keeps ..)
    | with_reducible refine Keeps.trans ?_ (logImg_keeps ..))

theorem State.applyMap_keeps (s : State) (map : Spare) : Keeps pw s (s.applyMap map) :=
  ⟨fun h => by simpa [State.applyMap] using h, id, id, le_rfl, le_rfl, le_rfl, le_rfl, id, id,
    fun c => ⟨c.1, c.2, c.3, c.4, c.5, c.6⟩, id, fun _ => id, id⟩

theorem State.imageMap_keeps (s : State) : Keeps pw s s.imageMap := by
  unfold State.imageMap
  dsimp only
  split
  · exact Keeps.refl _
  · exact Keeps.foldl _ (fun t u => (State.finding_keeps t u 6 none).trans (State.applyMap_keeps ..)) _ (Keeps.refl _)

theorem State.rebuildMap_keeps (s : State) : Keeps pw s s.rebuildMap := by
  unfold State.rebuildMap
  split
  · exact Keeps.trans (State.setSpare_keeps s _) (State.imageMap_keeps _)
  · exact Keeps.refl _

theorem State.step6_keeps (s : State) : Keeps False s s.step6 := by
  unfold State.step6
  extract_lets s1 light fw a s2
  have h1 : Keeps False s s1 := State.rebuildMap_keeps s
  clear_value s1
  have h2 : Keeps False s a.1 := by
    unfold a
    split
    · exact h1
    · exact h1.trans (State.startFindings_keeps ..)
  clear_value a
  split
  · exact h2.trans (State.failTrowel_keeps ..)
  · refine State.passWith_keeps _ _ (h2.trans ?_)
    exact ⟨id, id, fun h => (List.length_map _).trans h, le_rfl, le_rfl, le_rfl, le_rfl, id, id, fun c => ⟨c.1, c.2, c.3, c.4, c.5, c.6⟩, id,
        fun _ => id, id⟩

theorem State.failLoad_keeps (s : State) (step reason : Nat) : Keeps False s (s.failLoad step reason) := by
  unfold State.failLoad
  repeat' (first
    | with_reducible assumption
    | with_reducible exact Keeps.refl _
    | with_reducible refine Keeps.trans ?_ (failNvm_keeps ..)
    | with_reducible refine Keeps.trans ?_ (wingFail_keeps ..)
    | split)

theorem State.step7_keeps (s : State) : Keeps False s s.step7 := by
  have h := State.reread_keeps (pw := False) s 7 3
  unfold State.step7
  dsimp only
  split
  · exact h.trans ((State.loadWings_keeps ..).trans (State.endStep_keeps ..))
  · exact h.trans (State.failLoad_keeps ..)

theorem State.step8_keeps (s : State) : Keeps False s s.step8 := by
  have h := State.reread_keeps (pw := False) s 8 4
  unfold State.step8
  dsimp only
  split
  · exact h.trans ((State.loadWings_keeps ..).trans ((State.gateBays_keeps ..).trans (State.endStep_keeps ..)))
  · exact h.trans (State.failLoad_keeps ..)

theorem State.step9_keeps (s : State) : Keeps False s s.step9 := by
  unfold State.step9
  extract_lets s1
  have h1 : Keeps False s s1 := State.gateBays_keeps s
  split
  · exact h1.trans ((State.logE_keeps ..).trans (State.stopStart_keeps ..))
  · exact h1.trans (State.endStep_keeps ..)

theorem State.failOptional_keeps (s : State) (k reason : Nat) : Keeps pw s (s.failOptional k reason) := by
  unfold State.failOptional
  repeat' (first
    | with_reducible assumption
    | with_reducible exact Keeps.refl _
    | with_reducible refine Keeps.trans ?_ (endStep_keeps ..)
    | with_reducible refine Keeps.trans ?_ (logImg_keeps ..))

theorem State.calibrate_keeps (s : State) : Keeps pw s (s.calibrate) := by
  unfold State.calibrate
  repeat' (first
    | with_reducible assumption
    | with_reducible exact Keeps.refl _
    | (refine Keeps.foldl _ ?_ _ ?_; intro t a)
    | split)
  all_goals
    with_reducible refine Keeps.mk' ?_ ?_ ?_ ?_ ?_ ?_ ?_ ?_ ?_ ?_ ?_ ?_ ?_ ?_ ?_ ?_ ?_ ?_ ?_ <;>
      first | exact id | exact le_rfl | exact fun _ => id | skip
    repeat' (first
      | with_reducible assumption
      | with_reducible exact Keeps.refl _)

theorem State.stepOptional_keeps (s : State) (k : Nat) : Keeps pw s (s.stepOptional k) := by
  unfold State.stepOptional
  split
  · exact (State.logImg_keeps ..).trans (State.endStep_keeps ..)
  · split
    · exact State.failOptional_keeps ..
    · refine State.passWith_keeps _ _ ?_
      dsimp only
      split
      · exact (State.startFindings_keeps ..).trans (State.calibrate_keeps ..)
      · exact State.startFindings_keeps ..

theorem State.writeFindings_keeps (s : State) (k : Nat) : Keeps pw s (s.writeFindings k) := by
  induction k generalizing s with
  | zero => exact Keeps.refl _
  | succ k ih =>
    unfold State.writeFindings
    split
    · exact Keeps.refl _
    · exact (State.writeFinding_keeps ..).trans (ih _)

theorem State.firstSnapshot_keeps (s : State) : Keeps pw s s.firstSnapshot := by
  unfold State.firstSnapshot
  split
  · exact Keeps.refl _
  · refine State.setNvmSpare_keeps s _ _ ?_
    exact nvmRewrite_wf s.nvm _ _ _

theorem State.step14With_keeps (s : State) (ok : Bool) (reason : Nat) : Keeps pw s (s.step14With ok reason) := by
  unfold State.step14With
  extract_lets map s1 s2 s3
  have h0 : Keeps pw s (s.applyMap map) := State.applyMap_keeps ..
  have h1 : Keeps pw s s1 := h0.trans (State.gateBays_keeps _)
  split
  · exact h1.trans (State.endStep_keeps ..)
  · split
    · have h2 : Keeps pw s s2 := by
        unfold s2
        split
        · exact h1
        · exact h1.trans (State.firstSnapshot_keeps ..)
      exact h2.trans ((State.writeFindings_keeps ..).trans (State.endStep_keeps ..))
    · have h3 : Keeps pw s s3 := by
        unfold s3
        split
        · exact h1.trans (State.logE_keeps ..)
        · exact h1.trans (State.writeFinding_keeps ..)
      exact h3.trans (State.endStep_keeps ..)

theorem State.step14_keeps (s : State) : Keeps pw s (s.step14) := by
  unfold State.step14
  repeat' (first
    | with_reducible assumption
    | with_reducible exact Keeps.refl _
    | with_reducible refine Keeps.trans ?_ (step14With_keeps ..))

theorem State.doStep_keeps (s : State) : Keeps False s (s.doStep) := by
  unfold State.doStep
  repeat' (first
    | with_reducible assumption
    | with_reducible exact Keeps.refl _
    | with_reducible refine Keeps.trans ?_ (step14_keeps ..)
    | with_reducible refine Keeps.trans ?_ (stepOptional_keeps ..)
    | with_reducible refine Keeps.trans ?_ (step9_keeps ..)
    | with_reducible refine Keeps.trans ?_ (step8_keeps ..)
    | with_reducible refine Keeps.trans ?_ (step7_keeps ..)
    | with_reducible refine Keeps.trans ?_ (step6_keeps ..)
    | with_reducible refine Keeps.trans ?_ (step5_keeps ..)
    | with_reducible refine Keeps.trans ?_ (step4_keeps ..)
    | with_reducible refine Keeps.trans ?_ (step3_keeps ..)
    | with_reducible refine Keeps.trans ?_ (step2_keeps ..)
    | split)

theorem State.runSteps_keeps (s : State) (k : Nat) : Keeps False s (s.runSteps k) := by
  induction k generalizing s with
  | zero => exact Keeps.refl _
  | succ k ih =>
    unfold State.runSteps
    repeat' (first
      | with_reducible exact Keeps.refl _ | exact (State.endStep_keeps ..).trans (ih _) | exact (State.doStep_keeps ..).trans (ih _)
      | split)

theorem State.runStart_keeps (s : State) : Keeps False s s.runStart := State.runSteps_keeps ..

theorem State.enterLifecycle_keeps (s : State) (lc : BitVec 2) : Keeps pw s (s.enterLifecycle lc) := by
  unfold State.enterLifecycle
  dsimp only
  split
  · refine Keeps.trans ?_ (State.logAO_keeps ..)
    exact ⟨id, id, fun h => by simpa using h, le_rfl, le_rfl, le_rfl, le_rfl, id, id,
      fun h => ⟨h.mem, h.nvm, rfl, h.tags, rfl, h.groups⟩, id, fun _ => id, id⟩
  · exact Keeps.same

theorem State.beginStart_keeps (s : State) (kind cause op : Nat) (env : StartEnv) (copy : BitVec 2) :
    Keeps False s (s.beginStart kind cause op env copy) := by
  unfold State.beginStart
  exact (State.setNvm_keeps s _ (nvmTake_wf _ _)).trans ((State.enterLifecycle_keeps ..).trans
    ((State.setImg_keeps ..).trans (State.runStart_keeps ..)))

theorem State.timeout_keeps (s : State) (k : Nat) : Keeps False s (s.timeout k) := by
  unfold State.timeout
  split
  · exact State.failNvm_keeps ..
  · exact State.failLog_keeps ..
  · exact State.nextLevel_keeps ..
  · split
    · exact (State.endStep_keeps ..).trans (State.endWing_keeps ..)
    · split
      · exact State.resumeMiss_keeps ..
      · extract_lets s1
        have h1 : Keeps False s s1 := (State.markCut_keeps s).trans (State.readHeaders_keeps ..)
        split
        · exact h1.trans (State.settle_keeps ..)
        · exact h1.trans ((State.markFailed_keeps ..).trans ((State.tryCopies_keeps ..).trans (State.settle_keeps
            ..)))
  · exact State.failTrowel_keeps ..
  · exact State.failLoad_keeps ..
  · exact State.failLoad_keeps ..
  · exact State.step14With_keeps ..
  · split
    · exact State.failOptional_keeps ..
    · exact State.endStep_keeps ..

theorem State.digestOf_keeps (s : State) (west : Bool) : Keeps pw s (s.digestOf west).2 := by
  unfold State.digestOf
  dsimp only
  repeat' (first
    | with_reducible assumption
    | with_reducible exact Keeps.refl _
    | with_reducible refine Keeps.trans ?_ (takeFree_keeps ..)
    | split)

theorem State.failReady_keeps (s : State) (split : Bool) (reason : Nat) : Keeps False s (s.failReady split reason) :=
    by
  unfold State.failReady
  repeat' (first
    | with_reducible assumption
    | with_reducible exact Keeps.refl _
    | with_reducible refine Keeps.trans ?_ (markFailed_keeps ..)
    | with_reducible refine Keeps.trans ?_ (wingFail_keeps ..)
    | with_reducible refine Keeps.trans ?_ (stopStart_keeps ..)
    | with_reducible refine Keeps.trans ?_ (logImg_keeps ..)
    | split)

theorem State.becomeReady_keeps (s : State) : Keeps pw s s.becomeReady := by
  unfold State.becomeReady
  extract_lets s1 x s2 ev s3
  have h1 : Keeps pw s s1 := State.endStep_keeps ..
  clear_value s1
  have h2 : Keeps pw s s2 := by
    unfold s2
    split
    · exact h1.trans (State.setWing_keeps ..)
    · exact h1
  have h3 : Keeps pw s s3 := h2.trans (State.closeRecord_keeps ..)
  exact h3.trans Keeps.same

theorem State.step16_keeps (s : State) : Keeps False s s.step16 := by
  unfold State.step16
  extract_lets e wd s1
  have h0 : Keeps False s e.2 := by
    unfold e
    split
    · exact State.digestOf_keeps ..
    · exact Keeps.refl _
  clear_value e
  have h1 : Keeps False s s1 := by
    unfold s1 wd
    split
    · exact h0.trans (State.digestOf_keeps ..)
    · exact h0
  clear_value s1
  split
  · exact h1.trans (State.becomeReady_keeps ..)
  · exact h1.trans ((State.failReady_keeps ..).trans (State.runStart_keeps ..))

/-! ### The operations of Machine/ImgCmd.lean -/

theorem State.endProgram_keeps (s : State) (c : Nat) (result : Nat) : Keeps pw s (s.endProgram c result) := Keeps.same

theorem State.failProgram_keeps (s : State) (c result reason where_ : Nat) : Keeps pw s (s.failProgram c result reason
    where_) := by
  unfold State.failProgram
  repeat' (first
    | with_reducible assumption
    | with_reducible exact Keeps.refl _
    | with_reducible refine Keeps.trans ?_ (endProgram_keeps ..)
    | with_reducible refine Keeps.trans ?_ (logImg_keeps ..))

theorem State.tasksGoOn_keeps (before s : State) : Keeps False s (before.tasksGoOn s) := by
  unfold State.tasksGoOn
  split
  · exact State.runStart_keeps ..
  · exact Keeps.refl _

/-! ### The operations of Machine/Ecc.lean -/

theorem State.findingGoesOn_keeps (s : State) (u : UnitId) (source : Nat) (ecc : Option Nat) :
    Keeps False s (s.findingGoesOn u source ecc) :=
  (State.findingRun_keeps ..).trans (State.tasksGoOn_keeps ..)

/-! ### The operations of Machine/Power.lean -/

theorem State.domainOff_keeps (s : State) (p : Nat) : Keeps pw s (s.domainOff p) := Keeps.same

theorem State.domainOn_keeps (s : State) (p : Nat) : Keeps pw s (s.domainOn p) := Keeps.same

theorem State.restored_keeps (s : State) : Keeps pw s (s.restored) := Keeps.same

theorem State.logWarm_keeps (s : State) : Keeps pw s s.logWarm := State.logAO_keeps ..

theorem State.logAO_pwr (s : State) (cause seq where_ aux : Nat) : (s.logAO cause seq where_ aux).pwr = s.pwr := by
  unfold State.logAO State.logRing
  split <;> rfl

theorem State.beginExit_keeps (s : State) (k : ExitKind) (h : s.pwr.stopped = true) : Keeps pw s (s.beginExit k) := by
  have aux : ∀ u : State, u.pwr.stopped = true → ∀ x : Pwr, x.stopped = u.pwr.stopped → x.phase.isStopped = true →
      Keeps pw u { u with pwr := x } := fun u hu x e1 e2 =>
    ⟨id, id, id, le_rfl, le_rfl, le_rfl, le_rfl, id, id, fun c => ⟨c.1, c.2, c.3, c.4, c.5, c.6⟩, id,
      fun _ _ => (e1.trans hu).trans e2.symm, fun y => by simp [State.Awake, hu] at y⟩
  unfold State.beginExit
  split
  · extract_lets s1
    have h1 : Keeps pw s s1 := by
      unfold s1
      split
      · exact State.logWarm_keeps s
      · exact Keeps.refl _
    have e1 : s1.pwr = s.pwr := by
      unfold s1
      split
      · exact State.logAO_pwr ..
      · rfl
    exact h1.trans (aux s1 (by rw [e1]; exact h) _ rfl rfl)
  · exact aux s h _ rfl rfl

theorem State.takeLevel_keeps (s : State) (i : s.pwr.stopped = s.pwr.phase.isStopped) : Keeps pw s s.takeLevel := by
  unfold State.takeLevel
  extract_lets level wake
  split
  · exact State.setPwr_keeps s _ rfl rfl
  · split
    · exact State.setPwr_keeps s _ rfl rfl
    · split
      · next h => exact State.beginExit_keeps s _ (by rw [i, h.1]; rfl)
      · exact Keeps.refl _

/-! ### The operations of Machine/Debug.lean -/

theorem State.changeLevel_keeps (s : State) (kind l : Nat) (hl : l ≤ 2) : Keeps pw s (s.changeLevel kind l) := by
  unfold State.changeLevel
  split
  · exact Keeps.refl _
  · exact (State.logE_keeps ..).trans (State.setLevel_keeps _ _ fun _ => hl)

theorem State.endDbg_keeps (s : State) (result reason : Nat) : Keeps pw s (s.endDbg result reason) := Keeps.same

theorem State.refuseDbg_keeps (s : State) (reason : Nat) : Keeps pw s (s.refuseDbg reason) := by
  unfold State.refuseDbg
  repeat' (first
    | with_reducible assumption
    | with_reducible exact Keeps.refl _
    | with_reducible refine Keeps.trans ?_ (endDbg_keeps ..)
    | with_reducible refine Keeps.trans ?_ (logE_keeps ..)
    | split)
  all_goals
    with_reducible refine Keeps.mk' ?_ ?_ ?_ ?_ ?_ ?_ ?_ ?_ ?_ ?_ ?_ ?_ ?_ ?_ ?_ ?_ ?_ ?_ ?_ <;>
      first | exact id | exact le_rfl | exact fun _ => id | skip
    repeat' (first
      | with_reducible assumption
      | with_reducible exact Keeps.refl _)

theorem State.setDbg_keeps (s : State) (x : Dbg) (h : x.level = s.dbg.level) : Keeps pw s { s with dbg := x } :=
  ⟨id, id, id, le_rfl, le_rfl, le_rfl, le_rfl, id, id, fun c => ⟨c.1, c.2, c.3, c.4, c.5, c.6⟩, fun i => by rw [h]; exact i,
    fun _ => id, id⟩

theorem State.lcAdvance_keeps (s : State) (dest : Nat) : Keeps False s (s.lcAdvance dest) := by
  have h : ∀ (k : Nat) (u : State), Keeps False s u → Keeps False s (if u.pwr.phase = .run then u.beginWarm k 4 else u) := by
    intro k u hu
    split
    · exact hu.trans (State.beginWarm_keeps ..)
    · exact hu
  unfold State.lcAdvance
  exact h _ _ (((State.logE_keeps ..).trans (State.endDbg_keeps ..)).trans (State.setDbg_keeps _ _ rfl))

theorem State.leaveTest_keeps (s : State) (was : Bool) : Keeps False s (s.leaveTest was) := by
  unfold State.leaveTest
  repeat' (first
    | with_reducible assumption
    | with_reducible exact Keeps.refl _
    | with_reducible refine Keeps.trans ?_ (beginWarm_keeps ..)
    | split)

theorem State.logTapDeny_keeps (s : State) (op : Nat) : Keeps pw s (s.logTapDeny op) := by
  unfold State.logTapDeny
  repeat' (first
    | with_reducible assumption
    | with_reducible exact Keeps.refl _
    | with_reducible refine Keeps.trans ?_ (logRing_keeps ..)
    | with_reducible refine Keeps.trans ?_ (pushLog_keeps ..)
    | split)

theorem State.setDr_keeps (s : State) (v : Nat) : Keeps pw s (s.setDr v) := Keeps.same

theorem State.coreDr_keeps (s : State) (c data : Nat) : Keeps pw s (s.coreDr c data) := Keeps.same

theorem State.logCore_keeps (s : State) (c op : Nat) : Keeps pw s (s.logCore c op) := by
  unfold State.logCore
  repeat' (first
    | with_reducible assumption
    | with_reducible exact Keeps.refl _
    | with_reducible refine Keeps.trans ?_ (logE_keeps ..))

theorem State.setHalt_keeps (s : State) (c : Nat) (h : Bool) : Keeps pw s (s.setHalt c h) :=
  ⟨id, id, fun x => by simpa [State.setHalt] using x, le_rfl, le_rfl, le_rfl, le_rfl, id, id, fun c => ⟨c.1, c.2,
      c.3, c.4, c.5, c.6⟩, id, fun _ => id, id⟩

end Sys2Proof.Machine
end

