-- ==== Sys2Proof/Laws/KeepsWrites.lean ====
section
/-! SUPPORT. What each write of a register keeps, and an access under R261. -/

namespace Sys2Proof.Machine

set_option Elab.async false

variable {pw : Prop}

theorem Keeps.ok {s t : State} (h : Keeps pw s t) : Keeps pw s t.ok.s := h

theorem State.routeWrite_keeps (s : State) (f) : Keeps pw s (s.routeWrite f).s := by
  unfold State.routeWrite; split <;> exact Keeps.same

theorem State.stxWrite_keeps (s : State) (f) : Keeps pw s (s.stxWrite f).s := by
  unfold State.stxWrite; split <;> exact Keeps.same

theorem State.memWrites_keeps (s : State) (ws : List MemWrite) : Keeps pw s (s.memWrites ws) :=
  Keeps.foldl _ (fun _ _ => State.memWrite_keeps ..) _ (Keeps.refl s)

theorem State.routeIssue_keeps (s : State) : Keeps pw s s.routeIssue := by
  unfold State.routeIssue
  split
  · exact Keeps.trans Keeps.same (State.memWrites_keeps ..)
  · exact Keeps.refl _

theorem State.stxIssue_keeps (s : State) : Keeps pw s s.stxIssue := by
  unfold State.stxIssue
  split
  · exact Keeps.trans Keeps.same (State.memWrites_keeps ..)
  · exact Keeps.refl _

theorem State.routeCmdWrite_keeps (s : State) (d) : Keeps pw s (s.routeCmdWrite d).s := by
  unfold State.routeCmdWrite; dsimp only; repeat' split
  · exact Keeps.same
  · exact Keeps.same
  · exact Keeps.same
  · exact Keeps.ok (Keeps.trans Keeps.same (State.routeIssue_keeps _))

theorem State.stxCmdWrite_keeps (s : State) (d) : Keeps pw s (s.stxCmdWrite d).s := by
  unfold State.stxCmdWrite; dsimp only; repeat' split
  all_goals first | exact Keeps.same | exact Keeps.ok (Keeps.trans Keeps.same (State.stxIssue_keeps _))

theorem State.gnWrite_keeps (s : State) (f) : Keeps pw s (s.gnWrite f).s := by
  unfold State.gnWrite; split <;> exact Keeps.same

theorem State.gnGateWrite_keeps (s : State) (d) : Keeps pw s (s.gnGateWrite d).s := by
  unfold State.gnGateWrite; repeat' split
  all_goals exact Keeps.same

theorem State.gnStartWrite_keeps (s : State) : Keeps pw s s.gnStartWrite.s := by
  unfold State.gnStartWrite; dsimp only; repeat' split
  all_goals exact Keeps.same

theorem State.skipAll_keeps (s : State) : Keeps pw s s.skipAll :=
  Keeps.foldl _ (fun t n => State.skipGated_keeps t n) _ (Keeps.refl s)

theorem State.gnSkip_keeps (s : State) : Keeps pw s s.gnSkip := by
  unfold State.gnSkip
  refine Keeps.trans ?_ (State.skipAll_keeps _)
  exact Keeps.same

theorem State.gnAbortWrite_keeps (s : State) (who) : Keeps pw s (s.gnAbortWrite who).s := by
  unfold State.gnAbortWrite; split
  · exact Keeps.ok ((State.logE_keeps s _ _ _ _ _ _ _ _).trans (State.gnSkip_keeps _))
  · exact Keeps.same

theorem State.gnCmdWrite_keeps (s : State) (who d) : Keeps pw s (s.gnCmdWrite who d).s := by
  unfold State.gnCmdWrite; repeat' split
  · exact Keeps.same
  · exact State.gnStartWrite_keeps s
  · exact State.gnAbortWrite_keeps s who
  · exact Keeps.same

theorem State.xpFoldWrite_keeps (s : State) (d) : Keeps pw s (s.xpFoldWrite d).s := by
  unfold State.xpFoldWrite State.xpFoldArmWrite; dsimp only; repeat' split
  all_goals exact Keeps.same

theorem swf_tags (_n : Nat) (f : Nat → W32) (g : Nat → Nat) (m : List (Nat × W32)) (h : swf (0:W32) m = true) (l :
    List Nat) :
   swf (0:W32) (l.foldl (fun m i => sset 0 m (g i) (f i)) m) = true := by
  induction l generalizing m with
  | nil => exact h
  | cons a t ih => exact ih _ (swf_sset _ _ _ _ h)

theorem fresh_ne : RowCtx.fresh ≠ RowCtx.zero := by decide

theorem State.ctxAllocWrite_keeps (s : State) (d) : Keeps pw s (s.ctxAllocWrite d).s := by
  unfold State.ctxAllocWrite; dsimp only; repeat' split
  · exact Keeps.same
  · exact Keeps.same
  · exact ⟨id, id, id, le_rfl, le_rfl, le_rfl, le_rfl, id, id, fun c => ⟨c.1, c.2, swf_sfill _ _ fresh_ne _ _ _ c.3,
      swf_tags 0 (fun i => BitVec.ofNat 32 (bits d 63 32 + 32 * i)) _ _ c.4 _, c.5, c.6⟩, id, fun _ => id, id⟩

theorem State.ctxFreeWrite_keeps (s : State) (d) : Keeps pw s (s.ctxFreeWrite d).s := by
  unfold State.ctxFreeWrite; dsimp only; repeat' split
  · exact Keeps.same
  · exact Keeps.same
  · exact Keeps.same
  · exact ⟨id, id, id, le_rfl, le_rfl, le_rfl, le_rfl, id, id, fun c => ⟨c.1, c.2, swf_sclear _ _ _ _ c.3, c.4, c.5,
      c.6⟩, id, fun _ => id, id⟩

theorem State.windowWrite_keeps (s : State) (k d) : Keeps pw s (s.windowWrite k d).s := by
  unfold State.windowWrite; dsimp only; repeat' split
  · exact Keeps.same
  · exact Keeps.same
  · refine Keeps.ok (Keeps.trans (State.setCtx_keeps s (s.ctl.ctxBase.toNat + k / 4) ((s.ctx (s.ctl.ctxBase.toNat + k
      / 4)).setWord (k % 4) d)) ?_)
    exact Keeps.same

theorem State.bgrpDefWrite_keeps (s : State) (k d) : Keeps pw s (s.bgrpDefWrite k d).s := by
  unfold State.bgrpDefWrite State.bgrpArmWrite State.bgrpDisarmWrite; dsimp only; repeat' split
  all_goals first | exact Keeps.same | exact State.setGroup_keeps s _ _ | skip
  all_goals
    generalize hs : s.setGroup k _ = t
    have : Keeps pw s t := hs ▸ State.setGroup_keeps s _ _
    refine Keeps.ok (this.trans ?_)
    exact Keeps.same

theorem State.bgrpRangeWrite_keeps (s : State) (k d) : Keeps pw s (s.bgrpRangeWrite k d).s := by
  unfold State.bgrpRangeWrite; repeat' split
  all_goals first | exact Keeps.same | exact State.setGroup_keeps s _ _

theorem State.bgrpXpWrite_keeps (s : State) (k d) : Keeps pw s (s.bgrpXpWrite k d).s := by
  unfold State.bgrpXpWrite; repeat' split
  all_goals first | exact Keeps.same | exact State.setGroup_keeps s _ _

theorem State.spillWrite_keeps (s : State) (f) : Keeps pw s (s.spillWrite f).s := by
  unfold State.spillWrite; repeat' split
  all_goals exact Keeps.same

theorem State.etCmdWrite_keeps (s : State) (d) : Keeps pw s (s.etCmdWrite d).s := by
  unfold State.etCmdWrite; dsimp only; repeat' split
  all_goals first | exact Keeps.same | exact State.setTotal_keeps s _ _

theorem State.spareCmdWrite_keeps (s : State) (d) : Keeps False s (s.spareCmdWrite d).s := by
  unfold State.spareCmdWrite; dsimp only; repeat' split
  all_goals first | exact Keeps.same | exact State.findingGoesOn_keeps s _ _ _

theorem State.restartWrite_keeps (s : State) (d env) : Keeps False s (s.restartWrite d env).s := by
  unfold State.restartWrite; dsimp only
  generalize hs : (wingBays (imgWest d)).foldl _ s = t
  have h : Keeps False s t := hs ▸ Keeps.foldl _ (fun t n => State.mapBay_keeps t n _) _ (Keeps.refl s)
  repeat' split
  · exact Keeps.same
  · exact Keeps.same
  · exact Keeps.same
  · exact Keeps.ok (h.trans (State.beginStart_keeps _ _ _ _ _ _))
  · exact Keeps.ok (h.trans (State.beginStart_keeps _ _ _ _ _ _))

theorem State.commitWrite_keeps (s : State) (d ok) : Keeps pw s (s.commitWrite d ok).s := by
  unfold State.commitWrite; dsimp only; split
  · exact Keeps.same
  · split
    · exact Keeps.same
    · exact Keeps.ok ((State.writeSelection_keeps s _ _ _ _ _).trans (State.setImg_keeps _ _))

theorem State.programWrite_keeps (s : State) (d) : Keeps pw s (s.programWrite d).s := by
  unfold State.programWrite; dsimp only; repeat' split
  all_goals exact Keeps.same

theorem State.imgCmdWrite_keeps (s : State) (who gen d env) : Keeps False s (s.imgCmdWrite who gen d env).s := by
  unfold State.imgCmdWrite; repeat' split
  · exact Keeps.same
  · exact Keeps.same
  · exact Keeps.same
  · exact State.restartWrite_keeps s d env
  · exact State.commitWrite_keeps s d _
  · exact State.programWrite_keeps s d
  · exact Keeps.ok (State.writeSelection_keeps s _ _ _ _ _)
  · exact Keeps.ok (State.writeSelection_keeps s _ _ _ _ _)
  · exact Keeps.same

theorem State.pwrCmdWrite_keeps (s : State) (who d) : Keeps False s (s.pwrCmdWrite who d).s := by
  unfold State.pwrCmdWrite; repeat' split
  · exact Keeps.same
  · exact Keeps.same
  · exact Keeps.ok (State.enterStop_keeps s _)
  · exact Keeps.ok (State.beginWarm_keeps s _ _)
  · exact Keeps.same

theorem State.bayoffWrite_keeps (s : State) (d) : Keeps pw s (s.bayoffWrite d).s := by
  unfold State.bayoffWrite; exact Keeps.same

theorem bits_le (d : Nat) (h : bits d 5 4 ≠ 3) : bits d 5 4 ≤ 2 := by
  unfold bits at *; simp at *; omega

theorem State.setlevelWrite_keeps (s : State) (who l) (h : l ≤ 2) : Keeps False s (s.setlevelWrite who l).s := by
  unfold State.setlevelWrite; split
  · exact Keeps.ok ((State.changeLevel_keeps s _ _ h).trans (State.tasksGoOn_keeps s _))
  · exact Keeps.same

theorem State.challengeWrite_keeps (s : State) (who l r) : Keeps pw s (s.challengeWrite who l r).s := by
  unfold State.challengeWrite
  by_cases h : s.dbg.asking = true
  · simp only [h, if_true]; exact Keeps.same
  · simp only [h]
    by_cases g : s.dbg.lc ≠ 2 ∨ (r = false ∧ l ≠ 2) ∨ 8 ≤ s.dbg.refusals.toNat
    · rw [if_pos g]; exact Keeps.same
    · rw [if_neg g]; exact Keeps.same

theorem State.respondWrite_keeps (s : State) (who) : Keeps pw s (s.respondWrite who).s := by
  unfold State.respondWrite; repeat' split
  all_goals exact Keeps.same

theorem State.advanceWrite_keeps (s : State) (who t) : Keeps pw s (s.advanceWrite who t).s := by
  unfold State.advanceWrite; repeat' split
  all_goals exact Keeps.same

theorem State.cancelWrite_keeps (s : State) : Keeps pw s s.cancelWrite.s := by
  unfold State.cancelWrite; repeat' split
  all_goals exact Keeps.same

theorem State.dbgCmdWrite_keeps (s : State) (who gen d) : Keeps False s (s.dbgCmdWrite who gen d).s := by
  unfold State.dbgCmdWrite
  split
  · exact Keeps.same
  · next h =>
    split
    · exact Keeps.same
    · split
      · exact Keeps.same
      · exact State.setlevelWrite_keeps s _ _ (bits_le d fun x => h (.inr x))
      · exact State.challengeWrite_keeps s _ _ _
      · exact State.respondWrite_keeps s _
      · exact State.advanceWrite_keeps s _ _
      · exact State.cancelWrite_keeps s

theorem State.dbgRespWrite_keeps (s : State) (who k d) : Keeps pw s (s.dbgRespWrite who k d).s := by
  unfold State.dbgRespWrite; dsimp only; repeat' split
  all_goals exact Keeps.same

theorem State.viewselWrite_keeps (s : State) (d) : Keeps pw s (s.viewselWrite d).s := by
  unfold State.viewselWrite; repeat' split
  all_goals exact Keeps.same

theorem State.errPopWrite_keeps (s : State) (d) : Keeps pw s (s.errPopWrite d).s := by
  unfold State.errPopWrite; dsimp only; split
  · exact Keeps.same
  · exact ⟨id, id, id, le_rfl, le_rfl, le_rfl, le_rfl, id, fun h => by
      simp only [State.ok, List.length_drop]; omega, fun c => ⟨c.1, c.2, c.3, c.4, c.5, c.6⟩, id, fun _ => id, id⟩

theorem State.clearWrite_keeps (s : State) (r d) : Keeps pw s (s.clearWrite r d) := by
  unfold State.clearWrite; repeat' split
  all_goals first | exact Keeps.same | exact State.mapBay_keeps s _ _

theorem State.semCmdWrite_keeps (s : State) (p gen op) : Keeps pw s (s.semCmdWrite p gen op).s := by
  unfold State.semCmdWrite; dsimp only; repeat' split
  all_goals exact Keeps.same

theorem State.writeHome_keeps (s : State) (who gen d env r) : Keeps False s (s.writeHome who gen d env r).s := by
  cases r <;> unfold State.writeHome <;> dsimp only
  all_goals first
    | exact Keeps.same
    | exact Keeps.ok (State.clearWrite_keeps s _ d)
    | exact State.errPopWrite_keeps s d
    | exact State.imgCmdWrite_keeps s who gen d env
    | exact State.pwrCmdWrite_keeps s who d
    | exact State.routeWrite_keeps s _
    | exact State.routeCmdWrite_keeps s d
    | exact State.stxWrite_keeps s _
    | exact State.stxCmdWrite_keeps s d
    | exact State.gnWrite_keeps s _
    | exact State.gnGateWrite_keeps s d
    | exact State.gnCmdWrite_keeps s who d
    | exact State.xpFoldWrite_keeps s d
    | exact State.bgrpXpWrite_keeps s _ d
    | exact State.bgrpDefWrite_keeps s _ d
    | exact State.bgrpRangeWrite_keeps s _ d
    | exact State.ctxAllocWrite_keeps s d
    | exact State.ctxFreeWrite_keeps s d
    | exact State.windowWrite_keeps s _ d
    | exact State.etCmdWrite_keeps s d
    | exact State.spillWrite_keeps s _
    | exact State.spareCmdWrite_keeps s d
    | exact State.dbgCmdWrite_keeps s who gen d
    | exact State.dbgRespWrite_keeps s who _ d
    | exact State.viewselWrite_keeps s d

theorem State.readAccess_keeps (s : State) (who r) : Keeps pw s (s.readAccess who r).s := by
  unfold State.readAccess
  split
  · dsimp only; split <;> exact Keeps.same
  · exact Keeps.same
  · exact Keeps.same

theorem State.writeAccess_keeps (s : State) (who gen a d env r) : Keeps False s (s.writeAccess who gen a d env r).s
    := by
  unfold State.writeAccess
  split
  · split
    · exact Keeps.same
    · exact State.semCmdWrite_keeps s _ _ _
  · exact Keeps.same
  · dsimp only
    repeat' split
    · exact Keeps.same
    · exact Keeps.same
    · exact Keeps.same
    · exact State.writeHome_keeps s who gen d env r

theorem State.logAccess_keeps (s : State) (who code a aux seq sem) : Keeps pw s (s.logAccess who code a aux seq sem)
    := by
  unfold State.logAccess
  split
  · exact Keeps.refl s
  · exact State.logE_keeps s _ _ _ _ _ _ _ _

theorem State.access_keeps (s : State) (who write addr gen data env) : Keeps False s (s.access who write addr gen
    data env).s := by
  unfold State.access
  extract_lets a d r sem aux
  have : Keeps False s r.s := by
    unfold r
    split
    · exact Keeps.same
    · repeat' split
      · exact Keeps.same
      · exact Keeps.same
      · exact State.writeAccess_keeps s _ _ _ _ _ _
      · exact State.readAccess_keeps s _ _
  exact this.trans (State.logAccess_keeps _ _ _ _ _ _ _)

/-! ### Accesses of the TAP (R355) -/

theorem State.tapAccess_keeps (s : State) (x : TapAccess) : Keeps False s (s.tapAccess x) := by
  unfold State.tapAccess
  extract_lets r t
  have h : Keeps False s t := by
    unfold t
    split
    · exact (State.access_keeps ..).trans (State.logE_keeps ..)
    · exact State.access_keeps ..
  exact h.trans Keeps.same

theorem State.tapTurn_keeps (s : State) : Keeps False s s.tapTurn := by
  unfold State.tapTurn
  split
  · exact Keeps.refl s
  · refine Keeps.foldl _ (fun t x => ?_) _ Keeps.same
    split
    · exact State.tapAccess_keeps t x
    · exact Keeps.refl t

/-- Where no access waits, nothing happens. -/
theorem State.tapTurn_of_held_nil (s : State) (h : s.tap.held = []) : s.tapTurn = s := by
  simp [State.tapTurn, h]

/-- While a Lath request is ready, accesses of the TAP wait (R355). -/
theorem State.tapTurn_of_ready (s : State) (h : ∃ p, s.ready p = true) : s.tapTurn = s := by
  obtain ⟨p, hp⟩ := h
  cases p <;> simp [State.tapTurn, hp]

/-- A single access that waits executes once no Lath request is ready (R355). -/
theorem State.tapTurn_of_held_singleton (s : State) (x : TapAccess) (h : s.tap.held = [x]) (ha : s.ready .a = false)
    (hb : s.ready .b = false) (ho : s.pwr.phase.lathOpen = true) :
    s.tapTurn = State.tapAccess { s with tap := { s.tap with held := [] } } x := by
  simp [State.tapTurn, h, ha, hb, ho]

end Sys2Proof.Machine
end

