-- ==== Sys2Proof/Laws/Rows.lean ====
section
/-! SUPPORT. One lemma for every row that executes a Lath request: what the row's step is once the register's own rule has
answered OK. -/

namespace Sys2Proof.Machine

set_option Elab.async false

variable {s t : State} {p : Port} {q : LathReq} {row : LathReq → Bool} {env : StartEnv}

theorem State.ready_serves (h : s.Serves p q) : s.ready p = true := by
  have hd := h.head
  unfold State.ready
  cases e : (s.lath p).reqs with
  | nil => simp [e] at hd
  | cons a l => simp [h.run, h.awake, h.room, Phase.lathOpen]

theorem State.headFor_serves (h : s.Serves p q) (hr : row q = true) : s.headFor p row = some q := by
  have hd := h.head
  have ht := h.turn
  unfold State.headFor
  cases e : (s.lath p).reqs with
  | nil => simp [e] at hd
  | cons a l =>
    simp only [e, List.head?_cons, Option.some.injEq] at hd
    subst hd
    cases e2 : s.tie
    · simp [State.ready_serves h, hr]
    · simp [State.ready_serves h, hr, ht e2]

/-- A row whose request is at the head runs it; then an access of the TAP that waits for it may execute. -/
theorem State.lathRow_serves (h : s.Serves p q) (hr : row q = true) :
    s.lathRow p row env = .next (s.runRequest p q env).tapTurn := by
  simp [State.lathRow, State.headFor_serves h hr]

theorem State.runRequest_ok (ha : (s.popped p).access (.port p) q.write q.addr q.gen q.data env = ⟨t, codeOK, 0⟩) :
    s.runRequest p q env = t.respond p q codeOK 0 := by
  simp only [State.runRequest, ha]

/-- A write whose register's rule answers OK, once the checks before it pass. -/
theorem State.access_ok {r : Reg} {g : W32} {d : W64} {a : W32} (hreg : regOf a.toNat = some r) (hal : a.toNat % 8 = 0)
    (hf : s.forbids (.port p) true a.toNat r = false) (hrun : s.pwr.phase = .run) (hne : r ≠ .semCmd)
    (hg : guarded a.toNat r = true → g = s.sem.copy ∧ s.sem.owner = some p ∧ s.fullStart = false)
    (hs : r = .imgCmd → s.fullStart = false)
    (hw : s.writeHome (.port p) g d.toNat env r = State.ok t) :
    s.access (.port p) true a g d env = ⟨t, codeOK, 0⟩ := by
  have hwa : s.writeAccess (.port p) g a.toNat d.toNat env r = State.ok t := by
    have e : s.writeAccess (.port p) g a.toNat d.toNat env r =
        if s.pwr.phase.writesBusy || (s.fullStart && (guarded a.toNat r || r == .imgCmd)) then s.fail codeBUSY
        else if guarded a.toNat r && Req.port p != .tap && g != s.sem.copy then s.fail codeSTALE
        else if guarded a.toNat r && !s.owns (.port p) g then s.fail codeDENY
        else s.writeHome (.port p) g d.toNat env r := by
      cases r <;> first | exact absurd rfl hne | rfl
    have hb : s.pwr.phase.writesBusy = false := by simp [hrun, Phase.writesBusy]
    rw [e, ← hw]
    cases e : guarded a.toNat r
    · by_cases hi : r = .imgCmd
      · simp [hb, hs hi]
      · simp [hb, hi]
    · obtain ⟨h1, h2, h3⟩ := hg e
      simp [hb, h1, h2, h3, State.owns]
  unfold State.access
  simp [hreg, hal, hf, hwa, State.ok, State.logAccess, codeOK]

/-- What a row does whose register's own rule answers OK and leaves the TAP alone. -/
theorem State.row_ok {r : Reg} (h : s.Serves p q) (hr : row q = true) (w : Writes q r)
    (hf : (s.popped p).forbids (.port p) true q.addr.toNat r = false) (hne : r ≠ .semCmd)
    (hg : guarded q.addr.toNat r = true → s.Holds p q) (hs : r = .imgCmd → s.fullStart = false)
    (hw : (s.popped p).writeHome (.port p) q.gen q.data.toNat env r = State.ok t) (ht : t.tap = s.tap) :
    s.lathRow p row env = .next (t.respond p q codeOK 0) := by
  rw [State.lathRow_serves h hr, State.runRequest_ok,
    State.tapTurn_of_held_nil _ (by rw [State.respond_tap, ht]; exact h.alone)]
  rw [w.write]
  refine State.access_ok w.reg w.aligned hf ?_ hne ?_ ?_ hw
  · cases p <;> exact h.run
  · intro g
    have o := hg g
    cases p <;> exact ⟨o.gen, o.owner, o.started⟩
  · intro i
    cases p <;> exact hs i

end Sys2Proof.Machine
end

