-- ==== Sys2Proof/Tests/Slice0.lean ====
section
/-! SUPPORT. The model's own tests: ill-formed commands refused, the manual's worked examples, and for every statement with
hypotheses a state and operands that meet them. -/

namespace Sys2Proof.Tests

set_option Elab.async false
open Sys2Proof Sys2Proof.Machine

/-! ### Ill-formed commands -/

def env0 : StartEnv :=
  ⟨0, true, true, 7, [], 0, [0, 0, 0], [], [], [], true, (true, true), true, [], true, [], []⟩

theorem test_env_wf : env0.wf = true := by decide
theorem test_env_verdicts_refused : ({ env0 with verdicts := [0, 0] } : StartEnv).wf = false := by decide
theorem test_env_finding_step_refused : ({ env0 with findings := [(1, ⟨1, 0, 0⟩)] } : StartEnv).wf = false := by decide
theorem test_env_failure_step_refused : ({ env0 with failures := [(17, 0)] } : StartEnv).wf = false := by decide
theorem test_env_margin_refused : ({ env0 with margins := [(34, 0)] } : StartEnv).wf = false := by decide
theorem test_env_device_refused : ({ env0 with device := [(0x2000000, 0)] } : StartEnv).wf = false := by decide
theorem test_env_failure_reason_refused : ({ env0 with failures := [(4, 0x7F)] } : StartEnv).wf = false := by decide
theorem test_env_record_refused : ({ env0 with recordFails := [20] } : StartEnv).wf = false := by decide
theorem test_env_hang_refused : ({ env0 with hang := [1] } : StartEnv).wf = false := by decide
theorem test_units_refused : [⟨0, 34, 0⟩, ⟨0, 0, 264⟩, ⟨1, 0, 1⟩, ⟨2, 2, 0⟩, ⟨3, 0, 17⟩, ⟨4, 0, 1296⟩, ⟨5, 0, 10⟩, ⟨6, 1, 0⟩,
    ⟨7, 0, 2⟩, ⟨8, 0, 16⟩, ⟨9, 0, 0⟩].all (fun u => !UnitId.wf u) = true := by decide
/-- The 128 bytes of the unit at `a`, all zero. -/
def unit0 (a : Nat) : List (Nat × Byte) := (List.range 128).map fun i => (a + i, 0)
theorem test_read_units_taken : (Instr.memoryReadResponse 0 (.argSet 0 0) (unit0 256 ++ unit0 0)).wf = true := by decide +kernel
theorem test_read_address_refused : (Instr.memoryReadResponse 0 (.argSet 0 0) (unit0 (2 ^ 48))).wf = false := by decide +kernel
theorem test_read_units_differ : (Instr.memoryReadResponse 0 (.argSet 0 0) (unit0 0 ++ unit0 0)).wf = false := by decide +kernel
theorem test_read_unaligned_refused : (Instr.memoryReadResponse 0 (.argSet 0 0) (unit0 8)).wf = false := by decide +kernel
theorem test_read_part_refused : (Instr.memoryReadResponse 0 (.argSet 0 0) ((unit0 0).take 64)).wf = false := by decide +kernel
theorem test_read_level_refused : (Instr.memoryReadResponse 0 (.spill 1 0 25 0) []).wf = false := by decide
theorem test_tree_levels_refused : [Instr.bondTreeMerge 1 0 25 0, .bondStoreSpill ⟨1, 0⟩ 25 0 0, .spillReturn ⟨1, 0⟩ 25 0,
    .eccloss (.bondEntry 1 0 25 0)].all (fun c => !c.wf) = true := by decide
theorem test_starts_refused : [Instr.restartWing .a { env0 with hang := [1] }, .stoppedFall { env0 with hang := [19] },
    .regacc 0 true 0 { env0 with verdicts := [] }, .startStepTimeout 0].all (fun c => !c.wf) = true := by decide
theorem test_patrol_refused : [Instr.patrolVector (.clean 2 0), .patrolVector (.clean 1 34), .patrolVector (.clean 3 31),
    .patrolVector (.clean 7 10), .patrolVector (.bankCorrected 3 0),
    .patrolVector (.bankCorrected 0 17), .patrolVector (.finding ⟨0, 0, 0⟩ 2), .patrolVector (.finding ⟨9, 0, 0⟩ 1),
    .patrolConfirm 0 264 0 0 0 ⟨0, 0, 0, 0, 0, []⟩, .eccloss (.tableRow 0 1296)].all (fun c => !c.wf) = true := by decide
theorem test_cores_refused : [Instr.coretrace 10, .coredbgStatus 10, .coredbgHalt 10, .coredbgStep 10, .coredbgResume 10,
    .coredbgRead 10 0, .coredbgWrite 10 0 0].all (fun c => !c.wf) = true := by decide
theorem test_no_row_gives_bits : decodeTableWord 64 0 = none := by decide

/-! ### States -/

/-- In Run, every domain on, both wings ready, both ports up. -/
def run0 : State :=
  { State.reset with
    lathA := ⟨[], [], true⟩
    lathB := ⟨[], [], true⟩
    img := { State.reset.img with eastReady := true, westReady := true }
    pwr := { State.reset.pwr with phase := .run, stopped := false, domains := 0x3FFFFFFFFF } }

/-- Step 16 of a full start. -/
def step16 (hang : List Nat) : Start :=
  ⟨0, 0, { env0 with hang := hang }, 16, 0, [], [], 0, 0, true, false, 0, imgDigest (State.reset.copyRd 0), imgDigest (State.reset.copyRd 0), false⟩

/-- Chain 1 of both wings: FP32 in, one ROUND stage, FP32 out on SO. -/
def chain1 : List W64 := [BitVec.ofNat 64 (1 + 3 * 2 ^ 30 + 2 ^ 48), 0x28]
/-- Both wings hold chain 1 and enable every format. -/
def wing1 : WingImage := { WingImage.empty with chains := [(1, chain1)], fmtEnable := 0xFFFF, rndEnable := 0x1F }
def images1 (s : State) : State := { s with img := { s.img with east := wing1, west := wing1 } }

/-- A write and a read through a port with GEN 1. -/
def wr (a : W32) (d : W64) : LathReq := ⟨true, 5, a, 1, d⟩
def rd (a : W32) : LathReq := ⟨false, 5, a, 1, 0⟩

/-- Lath A owns the semaphore in generation 1 and `q` is at the head of its queue. -/
def own (q : LathReq) : State := { run0 with sem := ⟨some .a, false, false, 1, 1⟩, lathA := ⟨[q], [], true⟩ }

theorem serves_own (q : LathReq) : (own q).Serves .a q := ⟨rfl, rfl, rfl, Nat.zero_lt_succ 7, fun _ => rfl, rfl⟩
theorem holds_own (a : W32) (d : W64) : (own (wr a d)).Holds .a (wr a d) := ⟨rfl, rfl, rfl⟩
theorem at_wr (a : W32) (d : W64) : WritesAt (wr a d) a := ⟨rfl, rfl⟩
theorem canonical_run0 : run0.Canonical := ⟨rfl, rfl, rfl, rfl, rfl, rfl⟩

/-! ### The manual's examples -/

/-- The example of R267, its first four steps: SEM_OWNER reads GEN 7, ACQUIRE through A, a port reset, ACQUIRE through B. -/
def sem7 : State := { own (wr 0x1008 1) with sem := ⟨none, false, false, 7, 7⟩ }

theorem test_acquire_example :
    (match exec (.semAcquire .a) sem7 with
      | .next t => t.lathA.rsps.map LathRsp.data == [0x0000000800000001]
      | _ => false) = true := by decide +kernel

theorem test_port_reset_example :
    (match exec (.lathPortReset .a) { sem7 with sem := ⟨some .a, false, false, 8, 8⟩ } with
      | .next t => t.log.queue == [⟨0x0000000900000135, 0x0000000800000000⟩] && t.sem.owner == none
      | _ => false) = true := by decide +kernel

theorem test_stale_example :
    (match exec (.registerWrite .a) { own { wr 0xC000 0x1234 with gen := 8 } with sem := ⟨some .b, false, false, 10, 10⟩ } with
      | .next t => t.log.queue == [⟨0x0000000A40000133, 0x000000080000C000⟩] && t.ctl.srSeed == 0
      | _ => false) = true := by decide +kernel

/-- The example of R115: four group results in either order, ET_WORD2 and the value read. -/
theorem test_exact_total_example :
    (let x := Total.addAll { Total.zero with mode := 0 } [0x53800000, 0x3F400000, 0x40400000, 0xD3800000]
     x.t = 0x780000 * 2 ^ 128 ∧ x.terms = 4 ∧ x.read = 0x40700000) := by decide +kernel

theorem test_exact_total_other_order :
    Total.addAll { Total.zero with mode := 0 } [0xD3800000, 0x40400000, 0x53800000, 0x3F400000]
      = Total.addAll { Total.zero with mode := 0 } [0x53800000, 0x3F400000, 0x40400000, 0xD3800000] := by decide +kernel

/-- R274: ID_BLOCK, and LATH_SELF through each port. -/
theorem test_identity : run0.readReg false .idBlock = 0x24260 ∧ run0.readReg false .lathSelf = 0
    ∧ run0.readReg true .lathSelf = 1 := by decide +kernel

/-- R12, R275: the first gap of the map, and its last address. -/
theorem test_unoccupied : regOf 0x20 = none ∧ regOf 0x3020 = none ∧ regOf 0xC068 = none ∧ regOf 0x100000 = none
    ∧ regOf 0xEFFF8 = some (.coreView 8191) := by decide +kernel

/-- R301: PROGRAM through a port that does not own the semaphore is denied. -/
theorem test_program_denied :
    (match exec (.program .a) { own (wr 0x4050 3) with sem := ⟨none, false, false, 1, 1⟩ } with
      | .next t => t.lathA.rsps.map LathRsp.code == [1] && !t.img.busy
      | _ => false) = true := by decide +kernel

/-! ### Witnesses: the block, ports, semaphore, log, Scaffold -/

theorem witness_StepRunsFrontCommand :
    (({ run0 with pending := [.ready, .drainEnd] } : State).pending = .ready :: [.drainEnd] ∧ run0.pending = [] ∧ run0.tap.held = [])
    ∧ (let s (q : LathReq) : State := { own q with tap := { run0.tap with ir := 0x12, held := [⟨0xC000, true, 5, env0⟩] } }
       (((s (rd 0)).lath .a).reqs ≠ [] ∧ ((s (rd 0)).lath .a).rsps.length < 8 ∧ (s (rd 0)).pwr.phase = .run ∧ (s (rd 0)).pwr.stopped = false)
       ∧ (s (rd 0)).tap.held = [⟨0xC000, true, 5, env0⟩] ∧ (s (rd 0)).tap.ir = 0x12
       ∧ ∀ o, (({ s (rd 0) with lathA := ⟨[], [], true⟩ } : State).lath o).reqs = []) :=
  ⟨⟨rfl, rfl, rfl⟩, by decide, rfl, rfl, fun o => by cases o <;> rfl⟩

theorem witness_WellFormedCommandsComplete : (Instr.stoppedFall env0).wf = true ∧ (Instr.ready).wf = true := by decide

/-- A cold start at the front of the queue of the state after reset. -/
def reset1 : State := { State.reset with pending := [.coldStart true 1] }

theorem witness_EveryStepKeepsInvariant : reset1.Inv ∧ ∃ t, step reset1 = .next t :=
  ⟨⟨rfl, portsFit_reset, rfl, ⟨by decide, by decide⟩, ⟨by decide, by decide⟩, by decide, by decide, ⟨rfl, rfl, rfl, rfl, rfl, rfl⟩,
    by decide, rfl⟩, _, rfl⟩

theorem witness_RefusedLathRequests :
    (regOf (wr 0x20 7).addr.toNat = none)
    ∧ ((regOf (rd 0x1004).addr.toNat).isSome = true ∧ (rd 0x1004).addr.toNat % 8 ≠ 0)
    ∧ (rowOther (wr 0xC004 7) = true ∧ (regOf (wr 0xC004 7).addr.toNat).isSome = true ∧ (wr 0xC004 7).addr.toNat % 8 ≠ 0)
    ∧ (rowOther (wr 0xC000 7) = true ∧ Writes (wr 0xC000 7) .srSeed ∧ guarded (wr 0xC000 7).addr.toNat .srSeed = true
      ∧ (wr 0xC000 7).gen ≠ sem7.sem.copy)
    ∧ (wr 0xC000 7).gen = (own (wr 0xC000 7)).sem.copy ∧ (∀ p, some Port.b ≠ some p ∨ p = Port.b) :=
  ⟨by decide, by decide, by decide +kernel, ⟨by decide +kernel, ⟨rfl, by decide, by decide⟩, by decide, by decide⟩, rfl,
    by intro p; cases p <;> simp⟩

theorem witness_RefusedLathRequests_deny (q : LathReq) :
    ({ own q with sem := ⟨some .b, false, false, 1, 1⟩ } : State).Serves .a q
    ∧ ({ own q with sem := ⟨some .b, false, false, 1, 1⟩ } : State).sem.owner ≠ some .a
    ∧ ({ own q with sem := ⟨some .b, false, false, 2, 2⟩ } : State).Serves .a q :=
  ⟨⟨rfl, rfl, rfl, Nat.zero_lt_succ 7, fun _ => rfl, rfl⟩, nofun, ⟨rfl, rfl, rfl, Nat.zero_lt_succ 7, fun _ => rfl, rfl⟩⟩

/-- The owner's request at the head, with LEVEL given. -/
def atLevel (q : LathReq) (l : BitVec 2) : State := { own q with dbg := { run0.dbg with level := l } }

theorem serves_atLevel (q : LathReq) (l : BitVec 2) : (atLevel q l).Serves .a q :=
  ⟨rfl, rfl, rfl, Nat.zero_lt_succ 7, fun _ => rfl, rfl⟩

theorem witness_RefusedLathRequests_views :
    (Writes (wr 0xC0078 0) .dbgViewsel ∧ (atLevel (wr 0xC0078 0) 0).dbg.level = 0)
    ∧ (Writes (wr 0xDFFF8 0) (.tableView 8191) ∧ (atLevel (wr 0xDFFF8 0) 0).dbg.level = 0)
    ∧ (Writes (wr 0xE0000 0) (.coreView 0) ∧ (atLevel (wr 0xE0000 0) 1).dbg.level.toNat < 2) :=
  ⟨⟨⟨rfl, by decide, by decide⟩, rfl⟩, ⟨⟨rfl, by decide, by decide⟩, rfl⟩, ⟨⟨rfl, by decide, by decide⟩, by decide⟩⟩

theorem witness_RefusedLathRequests_start :
    let q := wr 0xC000 7
    let s : State := { own q with img := { run0.img with busy := true, start := some (step16 []) } }
    s.Serves .a q ∧ s.fullStart = true ∧ (own q).fullStart = false ∧ rowOther q = true ∧ Writes q .srSeed
      ∧ guarded q.addr.toNat .srSeed = true :=
  ⟨⟨rfl, rfl, rfl, Nat.zero_lt_succ 7, fun _ => rfl, rfl⟩, by decide, by decide, by decide +kernel, ⟨rfl, by decide, by decide⟩,
    by decide +kernel⟩

/-- A SEM_CMD write at the head, with the owner and generation given. -/
def withSem (o : Option Port) (c : W32) (d : W64) : State := { own (wr 0x1008 d) with sem := ⟨o, false, false, c, c⟩ }

theorem witness_SemaphoreCommands :
    (∀ o c d, (withSem o c d).Serves .a (wr 0x1008 d) ∧ WritesAt (wr 0x1008 d) 0x1008)
    ∧ (wr 0x1008 0).data.toNat % 4 = 0
    ∧ ((wr 0x1008 1).data.toNat % 4 = 1 ∧ (withSem none 1 1).sem.owner = none)
    ∧ (withSem (some .a) 1 1).sem.owner = some .a
    ∧ ((withSem (some .b) 1 1).sem.owner ≠ none ∧ (withSem (some .b) 1 1).sem.owner ≠ some .a)
    ∧ ((wr 0x1008 2).data.toNat % 4 = 2 ∧ (wr 0x1008 2).gen ≠ (withSem (some .a) 2 2).sem.copy)
    ∧ ((wr 0x1008 2).gen = (withSem none 1 2).sem.copy ∧ (withSem none 1 2).sem.owner ≠ some .a)
    ∧ ((wr 0x1008 2).gen = (withSem (some .a) 1 2).sem.copy ∧ (withSem (some .a) 1 2).sem.owner = some .a)
    ∧ ((wr 0x1008 3).data.toNat % 4 = 3 ∧ (wr 0x1008 3).gen ≠ (withSem none 2 3).sem.copy)
    ∧ (wr 0x1008 3).gen = (withSem (some .b) 1 3).sem.copy :=
  ⟨fun _ _ _ => ⟨⟨rfl, rfl, rfl, Nat.zero_lt_succ 7, fun _ => rfl, rfl⟩, rfl, rfl⟩, by decide⟩

theorem witness_LathTransfers :
    (run0.pwr.phase = .run ∧ run0.pwr.stopped = false ∧ run0.testing = false ∧ (run0.lath .a).up = true ∧ run0.tap.held = [])
    ∧ (run0.lath .a).reqs.length < 8
    ∧ 8 ≤ ((run0.setLath .a ⟨List.replicate 8 (rd 0), [], true⟩).lath .a).reqs.length
    ∧ ((run0.setLath .a ⟨[], [⟨0, 0, 0⟩], true⟩).lath .a).rsps = ⟨0, 0, 0⟩ :: [] :=
  ⟨⟨rfl, rfl, rfl, rfl, rfl⟩, by decide, by decide, rfl⟩

/-- A read waits in both ports. -/
def tied (b : Bool) : State := { run0 with lathA := ⟨[rd 0], [], true⟩, lathB := ⟨[rd 8], [], true⟩, tieB := b }

theorem witness_LathTransfers_tie :
    ((tied false).pwr.phase = .run ∧ (tied false).pwr.stopped = false ∧ ((tied false).lath .b).reqs.head? = some (rd 8)
      ∧ ((tied false).lath .a).reqs ≠ [] ∧ ((tied false).lath .a).rsps.length < 8 ∧ (tied false).first = .a)
    ∧ ((tied true).first = .b ∧ ((tied true).lath .a).reqs.head? = some (rd 0) ∧ ((tied true).lath .b).reqs ≠ [])
    ∧ ((own (rd 0)).lath .b).reqs = [] ∧ ((own (rd 0)).lath .a).reqs.head? = some (rd 0) := by decide

/-- A header that waits: a tile of one beat of chain 1. -/
def tile0 : Tile :=
  ⟨0, 1, 0, 0, 1, false, false, 0, 0, 0, 0, 0, false, .waiting, 0, 0, false, false, [], 0, [], false, false, [], [], []⟩
/-- The state with one tile in bay 0. -/
def withTile (s : State) (t : Tile) : State := s.mapBay 0 fun b => { b with tiles := [t] }

theorem witness_LathPortResets :
    let s := withTile { own (rd 0) with dbg := { run0.dbg with state := 2 } } { tile0 with status := .accepted }
    (run0.pwr.stopped = false ∧ State.reset.pwr.stopped = true ∧ ({ run0 with tap := { run0.tap with ir := 3 } } : State).testing = true)
    ∧ (s.mpq.length = 4 ∧ s.pwr.stopped = false ∧ s.testing = false ∧ s.sem.copy = s.sem.gen ∧ s.bays.length = 32 ∧ s.sem.owner = some .a
      ∧ s.sem.owner ≠ some .b)
    ∧ (s.dbg.state = 2 ∧ s.dbg.source = 0 ∧ s.dbg.source ≠ 1 ∧ run0.dbg.state ≠ 2)
    ∧ ∃ u ∈ (s.bay 0).tiles, u.status = .accepted := by decide +kernel

/-- An ERR_LOG_POP write over a log of one entry. -/
def pop (d : W64) : State := { own (wr 0x2010 d) with log := ⟨[], [⟨1, 2⟩], 127, 3⟩ }

theorem witness_ErrorLogPop :
    (∀ d, (pop d).Serves .a (wr 0x2010 d) ∧ WritesAt (wr 0x2010 d) 0x2010)
    ∧ ((wr 0x2010 1).data.toNat.testBit 8 = false ∧ (wr 0x2010 1).data.toNat % 256 ≤ (pop 1).log.ring.length)
    ∧ ((wr 0x2010 0x101).data.toNat.testBit 8 = true ∧ (wr 0x2010 0x101).data.toNat % 256 ≤ (pop 0x101).log.ring.length)
    ∧ ((wr 0x2010 2).data.toNat.testBit 8 = false ∧ (pop 2).log.ring.length < (wr 0x2010 2).data.toNat % 256)
    ∧ ((wr 0x2010 0x102).data.toNat.testBit 8 = true ∧ (pop 0x102).log.ring.length < (wr 0x2010 0x102).data.toNat % 256) :=
  ⟨fun _ => ⟨⟨rfl, rfl, rfl, Nat.zero_lt_succ 7, fun _ => rfl, rfl⟩, rfl, rfl⟩, by decide⟩

theorem witness_ErrorLogRing :
    let s (n : Nat) : State := { run0 with log := ⟨[⟨1, 2⟩], List.replicate n ⟨0, 0⟩, 0, 0⟩ }
    (s 127).log.queue = ⟨1, 2⟩ :: [] ∧ (s 127).pwr.stopped = false ∧ (s 127).log.ring.length < 128
      ∧ (s 128).log.ring.length = 128 := ⟨rfl, rfl, by decide +kernel, by decide +kernel⟩

/-- Context 0 is allocated, and context 1 is poisoned. -/
def alloc0 (q : LathReq) : State := { own q with alloc := [0, 1, 2, 3, 4, 5, 6, 7], poison := [1] }

theorem witness_LathReads :
    (∀ a, (alloc0 (rd a)).Serves .a (rd a)) ∧ (∀ a, (rd a).write = false)
    ∧ (regOf (rd 0xC000).addr.toNat = some .srSeed ∧ (rd 0xC000).addr.toNat % 8 = 0)
    ∧ (regOf (rd 0x30000).addr.toNat = some (.window 0) ∧ (alloc0 (rd 0)).allocated 0 = true ∧ 0 ∉ (alloc0 (rd 0)).poison)
    ∧ (regOf (rd 0x3FFF8).addr.toNat = some (.window 8191) ∧ (alloc0 (rd 0)).allocated (8191 / 4) = false)
    ∧ (regOf (rd 0x30020).addr.toNat = some (.window 4) ∧ (alloc0 (rd 0)).allocated 1 = true ∧ 1 ∈ (alloc0 (rd 0)).poison)
    ∧ (regOf (rd 0xD0000).addr.toNat = some (.tableView 0) ∧ (atLevel (rd 0xD0000) 0).dbg.level = 0
      ∧ (atLevel (rd 0xD0000) 1).dbg.level ≠ 0)
    ∧ (regOf (rd 0xE0000).addr.toNat = some (.coreView 0) ∧ (atLevel (rd 0xE0000) 1).dbg.level.toNat < 2
      ∧ 2 ≤ (atLevel (rd 0xE0000) 2).dbg.level.toNat) :=
  ⟨fun _ => ⟨rfl, rfl, rfl, Nat.zero_lt_succ 7, fun _ => rfl, rfl⟩, fun _ => rfl, by decide, by decide, by decide, by decide, by decide, by decide⟩

theorem witness_RegisterWritesReadBack :
    let q := wr 0xC000 0xFFFFFFFFFFFFFFFF
    let s := own q
    s.Serves .a q ∧ Writes q .srSeed ∧ s.Holds .a q ∧ s.route.busy = false ∧ s.stx.busy = false ∧ s.gn.state ≠ 1 ∧ s.anyArmed = false
      ∧ Writes (wr 0x80020 63) .patrolCtl :=
  ⟨serves_own _, ⟨rfl, by decide, by decide⟩, holds_own _ _, rfl, rfl, by decide, rfl, ⟨rfl, by decide, by decide⟩⟩

theorem witness_RegisterWritesReadBack_checked :
    let mixed (q : LathReq) : State := images1 { own q with img := { run0.img with genDiff := true } }
    let gate : W64 := 0x1FFF000
    let asked : State := { own (wr 0xC0038 9) with dbg := { run0.dbg with state := 2 } }
    (Writes (wr 0xC080 0) .gnGate ∧ (own (wr 0xC080 0)).gn.state ≠ 1
      ∧ ({ own (wr 0xC080 0) with gn := { run0.gn with state := 1 } } : State).gn.state = 1 ∧ (wr 0xC080 0).data.toNat.testBit 24 = false)
    ∧ (gate.toNat.testBit 24 = true ∧ (mixed (wr 0xC080 gate)).img.genDiff = true
      ∧ (mixed (wr 0xC080 gate)).spansWings (gate.toNat % 2 ^ 12) (gate.toNat / 2 ^ 12 % 2 ^ 12) = true)
    ∧ (Writes (wr 0x21008 0) (.bgrpRange 0) ∧ Writes (wr 0x21018 0) (.bgrpRange 1) ∧ Writes (wr 0xD008 0) (.bgrpXp 1))
    ∧ (Writes (wr 0xC0038 9) (.dbgResp 0) ∧ asked.Serves .a (wr 0xC0038 9) ∧ asked.dbg.state = 2 ∧ asked.dbg.source = 0
      ∧ (own (wr 0xC0038 9)).dbg.state ≠ 2)
    ∧ (Writes (wr 0xC0078 33) .dbgViewsel ∧ (atLevel (wr 0xC0078 33) 1).dbg.level ≠ 0 ∧ ¬ 33 < (33 : W64).toNat % 2 ^ 6
      ∧ 33 < (34 : W64).toNat % 2 ^ 6) :=
  ⟨⟨⟨rfl, by decide, by decide⟩, by decide⟩, by decide +kernel,
    ⟨⟨rfl, by decide, by decide⟩, ⟨rfl, by decide, by decide⟩, ⟨rfl, by decide, by decide⟩⟩,
    ⟨⟨rfl, by decide, by decide⟩, ⟨rfl, rfl, rfl, Nat.zero_lt_succ 7, fun _ => rfl, rfl⟩, rfl, rfl, by decide⟩,
    ⟨⟨rfl, by decide, by decide⟩, by decide, by decide, by decide⟩⟩

/-- A pass, a transfer, a round or an armed group keeps its registers busy. -/
theorem witness_RegisterWritesReadBack_busy :
    let s (f : State → State) (a : W32) (r : Reg) : Prop := Writes (wr a 0) r ∧ (f (own (wr a 0))).Serves .a (wr a 0)
      ∧ (f (own (wr a 0))).Holds .a (wr a 0)
    (s (fun x => { x with route := { x.route with busy := true } }) 0xC018 .routeSrc
      ∧ s (fun x => { x with stx := { x.stx with busy := true } }) 0xC050 .stxDst)
    ∧ (s (fun x => { x with gn := { x.gn with state := 1 } }) 0xC0B0 .optStep
      ∧ s (fun x => { x with groups := [(1, { Bgrp.zero with arm := true })] }) 0x20030 .bsSpillSize)
    ∧ ({ Bgrp.zero with arm := true } : Bgrp).open = true ∧ Writes (wr 0x3018 1) .nanCount ∧ Writes (wr 0xC0F0 1) .xpDrops := by
  refine ⟨⟨⟨⟨rfl, by decide, by decide⟩, ⟨rfl, rfl, rfl, Nat.zero_lt_succ 7, fun _ => rfl, rfl⟩, ⟨rfl, rfl, rfl⟩⟩,
    ⟨⟨rfl, by decide, by decide⟩, ⟨rfl, rfl, rfl, Nat.zero_lt_succ 7, fun _ => rfl, rfl⟩, ⟨rfl, rfl, rfl⟩⟩⟩,
    ⟨⟨⟨rfl, by decide, by decide⟩, ⟨rfl, rfl, rfl, Nat.zero_lt_succ 7, fun _ => rfl, rfl⟩, ⟨rfl, rfl, rfl⟩⟩,
    ⟨⟨rfl, by decide, by decide⟩, ⟨rfl, rfl, rfl, Nat.zero_lt_succ 7, fun _ => rfl, rfl⟩, ⟨rfl, rfl, rfl⟩⟩⟩,
    by decide, ⟨rfl, by decide, by decide⟩, ⟨rfl, by decide, by decide⟩⟩

/-- A term waits for exact total 0. -/
def inFlight (q : LathReq) : State := { own q with runs := [⟨0, 0, [], some 0, 0, 0⟩] }

theorem witness_ExactTotalCommands :
    (∀ d, (own (wr 0x40038 d)).Serves .a (wr 0x40038 d) ∧ WritesAt (wr 0x40038 d) 0x40038 ∧ (own (wr 0x40038 d)).Holds .a (wr 0x40038 d))
    ∧ (∀ d, (inFlight (wr 0x40038 d)).Serves .a (wr 0x40038 d) ∧ (inFlight (wr 0x40038 d)).Holds .a (wr 0x40038 d))
    ∧ ((wr 0x40038 3).data.toNat % 4 = 3)
    ∧ ((wr 0x40038 9).data.toNat % 4 = 1 ∧ (wr 0x40038 9).data.toNat / 4 % 4 ≠ 3 ∧ (own (wr 0x40038 9)).totalInFlight 0 = false)
    ∧ ((wr 0x40038 2).data.toNat % 4 = 2 ∧ (wr 0x40038 2).data.toNat / 4 % 4 ≠ 3 ∧ (own (wr 0x40038 2)).totalInFlight 0 = false)
    ∧ ((wr 0x40038 13).data.toNat % 4 = 1 ∧ (wr 0x40038 13).data.toNat / 4 % 4 = 3)
    ∧ ((wr 0x40038 14).data.toNat % 4 = 2 ∧ (wr 0x40038 14).data.toNat / 4 % 4 = 3)
    ∧ ((inFlight (wr 0x40038 1)).totalInFlight 0 = true ∧ (inFlight (wr 0x40038 2)).totalInFlight 0 = true) :=
  ⟨fun _ => ⟨serves_own _, at_wr _ _, holds_own _ _⟩, fun _ => ⟨⟨rfl, rfl, rfl, Nat.zero_lt_succ 7, fun _ => rfl, rfl⟩, ⟨rfl, rfl, rfl⟩⟩, by decide,
    by decide, by decide, by decide, by decide, by decide⟩

/-- The last stripe: BASE 262,112, one stripe, TAG 7. -/
def stripe : W64 := BitVec.ofNat 64 (262112 + 2 ^ 18 + 7 * 2 ^ 32)

theorem witness_ContextAllocation :
    (∀ d, (own (wr 0x20000 d)).Serves .a (wr 0x20000 d) ∧ WritesAt (wr 0x20000 d) 0x20000 ∧ (own (wr 0x20000 d)).Holds .a (wr 0x20000 d))
    ∧ (own (wr 0x20000 stripe)).Canonical
    ∧ (wr 0x20000 1).data.toNat % 2 ^ 18 % 32 ≠ 0
    ∧ (let d := stripe.toNat
       d % 2 ^ 18 % 32 = 0 ∧ d / 2 ^ 18 % 2 ^ 14 ≠ 0 ∧ ¬ 262144 < d % 2 ^ 18 + 32 * (d / 2 ^ 18 % 2 ^ 14))
    ∧ (∀ c, (own (wr 0x20000 stripe)).allocated c = false)
    ∧ ({ own (wr 0x20000 stripe) with alloc := [8191] } : State).allocated 262143 = true
    ∧ ({ own (wr 0x20000 stripe) with alloc := [8191] } : State).Canonical :=
  ⟨fun _ => ⟨serves_own _, at_wr _ _, holds_own _ _⟩, ⟨rfl, rfl, rfl, rfl, rfl, rfl⟩, by decide, by decide, fun _ => rfl, by decide,
    ⟨rfl, rfl, rfl, rfl, rfl, rfl⟩⟩

theorem witness_ContextFree :
    let q := wr 0x20008 0x40000
    let s : State := { own q with alloc := [0] }
    let t := inFlight q
    let used (s : State) (c : Nat) := s.ctxInFlight c = true ∨ ∃ g ∈ s.groups, g.2.open = true ∧ g.2.names c = true
    (s.Serves .a q ∧ WritesAt q 0x20008 ∧ s.Holds .a q)
    ∧ (q.data.toNat % 2 ^ 18 = 0 ∧ q.data.toNat / 2 ^ 18 % 2 ^ 14 = 1)
    ∧ (wr 0x20008 0).data.toNat / 2 ^ 18 % 2 ^ 14 = 0
    ∧ (t.Serves .a q ∧ t.Holds .a q ∧ used t 0)
    ∧ ((own q).allocated 31 = false ∧ ∀ c, c < 32 → ¬ used (own q) c)
    ∧ ∀ c, c < 32 → ¬ used s c ∧ s.allocated c = true :=
  ⟨⟨⟨rfl, rfl, rfl, Nat.zero_lt_succ 7, fun _ => rfl, rfl⟩, ⟨rfl, rfl⟩, ⟨rfl, rfl, rfl⟩⟩, by decide, by decide,
    ⟨⟨rfl, rfl, rfl, Nat.zero_lt_succ 7, fun _ => rfl, rfl⟩, ⟨rfl, rfl, rfl⟩, .inl (by decide +kernel)⟩, ⟨by decide, by decide +kernel⟩, by decide +kernel⟩

theorem witness_WindowWrite :
    let q := wr 0x30000 5
    let s := alloc0 q
    (s.Serves .a q ∧ Writes q (.window 0) ∧ s.Holds .a q ∧ s.Canonical)
    ∧ (s.ctxInFlight 0 = false ∧ s.allocated 0 = true)
    ∧ ((inFlight q).Serves .a q ∧ (inFlight q).Holds .a q ∧ (inFlight q).Canonical ∧ (inFlight q).ctxInFlight 0 = true)
    ∧ ((own q).ctxInFlight 0 = false ∧ (own q).allocated 0 = false)
    ∧ Writes (wr 0x3FFF8 5) (.window 8191) :=
  ⟨⟨⟨rfl, rfl, rfl, Nat.zero_lt_succ 7, fun _ => rfl, rfl⟩, ⟨rfl, by decide, by decide⟩, ⟨rfl, rfl, rfl⟩, ⟨rfl, rfl, rfl, rfl, rfl, rfl⟩⟩,
    by decide +kernel,
    ⟨⟨rfl, rfl, rfl, Nat.zero_lt_succ 7, fun _ => rfl, rfl⟩, ⟨rfl, rfl, rfl⟩, ⟨rfl, rfl, rfl, rfl, rfl, rfl⟩, by decide +kernel⟩,
    by decide +kernel, ⟨rfl, by decide, by decide⟩⟩

/-- Group 1 with one chunk. -/
def group1 : Bgrp := { Bgrp.zero with n := 1 }
def armed1 : Bgrp := { group1 with courses := 1, arm := true, rootsLeft := 256 }
/-- A BGRP_DEF[1] write of one course. -/
def grouped (d : W64) (g : Bgrp) : State := { alloc0 (wr 0x21010 d) with groups := [(1, g)] }

theorem witness_BondGroupCommands :
    (∀ d g, (grouped d g).Serves .a (wr 0x21010 d) ∧ (grouped d g).Holds .a (wr 0x21010 d) ∧ Writes (wr 0x21010 d) (.bgrpDef 1))
    ∧ Writes (wr 0x21000 0) (.bgrpDef 0)
    ∧ (let d := (wr 0x21010 0x40040000).data.toNat
       d.testBit 30 = true ∧ d % 2 ^ 18 = 0 ∧ d / 2 ^ 18 % 2 ^ 11 = 1 ∧ ((grouped 0x40040000 group1).group 1).n = 1
       ∧ ((grouped 0x40040000 group1).group 1).open = false ∧ (∀ i, i < 256 → (grouped 0x40040000 group1).allocated i = true)
       ∧ (grouped 0x40040000 group1).reserved + 257 ≤ 131072
       ∧ ((grouped 0x40040000 armed1).group 1).open = true
       ∧ ({ grouped 0x40040000 group1 with alloc := [] } : State).allocated 0 = false)
    ∧ ((wr 0x21010 0x40000000).data.toNat / 2 ^ 18 % 2 ^ 11 = 0)
    ∧ ((wr 0x21010 0x40000).data.toNat.testBit 30 = false ∧ ((grouped 0x40000 armed1).group 1).open = true
      ∧ (grouped 0x40000 armed1).groupInFlight 1 = false
      ∧ (withTile (grouped 0x40000 armed1) { tile0 with bgrp := 1, status := .accepted }).groupInFlight 1 = true
      ∧ ((grouped 0x40000 group1).group 1).open = false) :=
  ⟨fun _ _ => ⟨⟨rfl, rfl, rfl, Nat.zero_lt_succ 7, fun _ => rfl, rfl⟩, ⟨rfl, rfl, rfl⟩,
    ⟨rfl, (by decide : (0x21010#32).toNat % 8 = 0), (by decide : regOf (0x21010#32).toNat = some (.bgrpDef 1))⟩⟩, ⟨rfl, by decide, by decide⟩,
    by decide +kernel, by decide, by decide +kernel⟩

/-- A SEND group that R223 allows, and one that it does not. -/
theorem witness_BondGroupCommands_send :
    let ok (c0 oc0 on n : Nat) : Prop := oc0 ≤ c0 ∧ (c0 - oc0) % 2 ^ clog2 n = 0 ∧ (n = 2 ^ clog2 n ∨ c0 + n = oc0 + on)
    ok 4 0 7 3 ∧ ¬ ok 2 0 7 3 := by decide

/-! ### Witnesses: passes, the round, XP, the image and the start -/

/-- A write of `d` to address `a` by the owner, over a state with some part changed. -/
theorem serves_upd (a : W32) (d : W64) (f : State → State) (h1 : (f (own (wr a d))).lathA = (own (wr a d)).lathA)
    (h2 : (f (own (wr a d))).pwr = run0.pwr) (h3 : (f (own (wr a d))).tieB = false)
    (h4 : (f (own (wr a d))).sem = (own (wr a d)).sem) (h5 : (f (own (wr a d))).img.start = none)
    (h6 : (f (own (wr a d))).tap = run0.tap) : (f (own (wr a d))).Serves .a (wr a d) ∧ (f (own (wr a d))).Holds .a (wr a d) := by
  refine ⟨⟨by rw [h2]; rfl, by rw [h2]; rfl, ?_, ?_, fun _ => by unfold State.first; rw [h3]; rfl,
    by rw [h6]; rfl⟩,
    ⟨by rw [h4]; rfl, by rw [h4]; rfl, ?_⟩⟩
  · show (f (own (wr a d))).lathA.reqs.head? = _
    rw [h1]; rfl
  · show (f (own (wr a d))).lathA.rsps.length < 8
    rw [h1]; exact Nat.zero_lt_succ 7
  · unfold State.fullStart
    rw [h5]

/-- ROUTE_CTL for one record, one expert of capacity one. -/
def routing (busy : Bool) (d : W64) : State :=
  { own (wr 0xC038 d) with route := ⟨0, 0x1000, 0x2000, BitVec.ofNat 64 (1 + 2 ^ 24 + 2 ^ 40), busy, false, false, 0, none⟩ }

theorem witness_RoutingPass :
    ((routing true 1).Serves .a (wr 0xC038 1) ∧ (routing true 1).Holds .a (wr 0xC038 1))
    ∧ ((routing false 1).Serves .a (wr 0xC038 1) ∧ (routing false 1).Holds .a (wr 0xC038 1))
    ∧ WritesAt (wr 0xC038 1) 0xC038 ∧ (wr 0xC038 1).data.toNat.testBit 0 = true
    ∧ (own (wr 0xC038 1)).route.ctl.toNat % 2 ^ 24 = 0
    ∧ (let c := (routing false 1).route.ctl.toNat
       ¬ (c % 2 ^ 24 = 0 ∨ c / 2 ^ 24 % 2 ^ 13 = 0 ∨ 4096 < c / 2 ^ 24 % 2 ^ 13 ∨ c / 2 ^ 40 = 0))
    ∧ ((routing true 1).route.busy = true ∧ (routing true 1).coresRun = true ∧ (routing true 1).route.issued = none
      ∧ ({ (routing true 1).route with issued := some none } : Route).issued.isSome = true ∧ (routing true 1).mpq.length = 4) :=
  ⟨serves_upd _ _ (fun x => { x with route := _ }) rfl rfl rfl rfl rfl rfl, serves_upd _ _ (fun x => { x with route := _ }) rfl rfl rfl rfl rfl rfl,
    at_wr _ _, by decide, by decide, by decide, by decide⟩

/-- A transfer of SUM of context 0, or of exact total 0. -/
def transfer (src : Nat) (busy : Bool) : State :=
  { alloc0 (wr 0xC058 1) with stx := ⟨BitVec.ofNat 64 (src + 2 ^ 20 + 2 ^ 32), 0x1000, busy, false, 0, false⟩ }

theorem witness_StatisticTransfer :
    (∀ src busy, (transfer src busy).Serves .a (wr 0xC058 1) ∧ (transfer src busy).Holds .a (wr 0xC058 1))
    ∧ WritesAt (wr 0xC058 1) 0xC058
    ∧ (let s := transfer 0 false
       s.stx.busy = false ∧ stxCount s.stx.src = 1 ∧ stxPermitted s.stx.src = true ∧ stxKind s.stx.src = 0 ∧ s.ctxInFlight 0 = false
         ∧ s.allocated 0 = true)
    ∧ (let s := transfer (2 ^ 18) false
       stxCount s.stx.src = 1 ∧ stxPermitted s.stx.src = true ∧ stxKind s.stx.src = 1 ∧ s.totalInFlight 0 = false)
    ∧ (let s := transfer 0 true
       s.stx.busy = true ∧ s.coresRun = true ∧ stxImport s.stx.src = false)
    ∧ (let s := transfer (2 ^ 23) true
       s.stx.busy = true ∧ stxImport s.stx.src = true)
    ∧ (let s := transfer (2 ^ 19) false
       let item (s : State) : Nat := stxFirst s.stx.src + 0
       stxPermitted (transfer (2 ^ 23 + 2 ^ 18) false).stx.src = false ∧ { s with alloc := [] }.allocated (item s) = false
         ∧ { s with runs := [⟨0, 0, [], some 0, 0, 0⟩] }.ctxInFlight (item s) = true
         ∧ ({ (transfer 0 true).stx with issued := true } : Stx).issued = true)
    ∧ (∀ src busy, (transfer src busy).Canonical) :=
  ⟨fun _ _ => ⟨⟨rfl, rfl, rfl, Nat.zero_lt_succ 7, fun _ => rfl, rfl⟩, ⟨rfl, rfl, rfl⟩⟩, at_wr _ _, by decide +kernel, by decide +kernel,
    by decide +kernel, by decide +kernel, by decide +kernel, fun _ _ => ⟨rfl, rfl, rfl, rfl, rfl, rfl⟩⟩

/-- A GN_CMD write with one shard expected and the tags 0 to 0. -/
def round (state : BitVec 2) (d : W64) : State :=
  { own (wr 0xC090 d) with gn := { run0.gn with tags := BitVec.ofNat 64 (2 ^ 24), state := state } }

/-- An accepted tile of a gated chain waits in bay 0. -/
def gatedTile (s : State) : State :=
  withTile { s with gn := { s.gn with gate := BitVec.ofNat 64 (2 ^ 24 + 0xFFF000) } } { tile0 with status := .accepted }

theorem witness_GlobalNormCommands :
    (∀ g d, (round g d).Serves .a (wr 0xC090 d) ∧ (round g d).Holds .a (wr 0xC090 d) ∧ WritesAt (wr 0xC090 d) 0xC090)
    ∧ (wr 0xC090 3).data.toNat % 4 = 3
    ∧ ((wr 0xC090 1).data.toNat % 4 = 1 ∧ (round 1 1).gn.state = 1)
    ∧ ((round 0 1).gn.state ≠ 1 ∧ (∀ b ∈ (round 0 1).bays, ∀ u ∈ b.tiles, u.status ≠ .admitted)
      ∧ (round 0 1).totalInFlight 4097 = false)
    ∧ (own (wr 0xC090 1)).gn.tags.toNat / 2 ^ 24 % 2 ^ 21 < 1
    ∧ (round 0 1).gn.tags.toNat / 2 ^ 24 % 2 ^ 21 = 1
    ∧ ((wr 0xC090 2).data.toNat % 4 = 2 ∧ (round 2 2).gn.state ≠ 1 ∧ (round 1 2).gn.state = 1)
    ∧ (let s := gatedTile (round 0 1)
       (∃ u ∈ (s.bay 0).tiles, u.status = .accepted ∧ s.gated u.chain = true)
         ∧ s.totalInFlightOf (fun u => !s.gated u.chain || s.gn.state == 2) 4097 = false ∧ (gatedTile (round 2 1)).gn.state = 2) :=
  ⟨fun _ _ => ⟨⟨rfl, rfl, rfl, Nat.zero_lt_succ 7, fun _ => rfl, rfl⟩, ⟨rfl, rfl, rfl⟩, at_wr _ _⟩, by decide, by decide, by decide +kernel, by decide,
    by decide, by decide, by decide +kernel⟩

/-- A summed NORM frame of round 0 with word 0 given. -/
def summed (w : W32) : XpFrame := ⟨1, 6, 0, 0, 0, 0, 0, w :: List.replicate 95 0⟩

theorem witness_GlobalNormDecision :
    let s := round 1 0
    (s.pwr.phase = .run ∧ s.gn.state = 1 ∧ s.Canonical)
    ∧ ((summed 0).kind = 1 ∧ frameOk (summed 0) = true ∧ (summed 0).roundId.toNat = s.gn.ctl.toNat % 2 ^ 32)
    ∧ (frameOk (summed 0x7FC00000) = true ∧ wordInt ((summed 0x7FC00000).words.getD 0 0) = none)
    ∧ (∀ i, i < 82 → wordInt ((summed 0x3F800000).words.getD i 0) = some (if i = 0 then 1 else 0))
    ∧ (∀ i, i < 82 → wordInt ((summed 0xBF800000).words.getD i 0) = some (if i = 0 then -1 else 0))
    ∧ ∃ u ∈ ((gatedTile s).bay 0).tiles, u.status = .accepted ∧ (gatedTile s).gated u.chain = true :=
  ⟨⟨rfl, by decide, ⟨rfl, rfl, rfl, rfl, rfl, rfl⟩⟩, by decide +kernel, by decide +kernel, by decide +kernel, by decide +kernel, by decide +kernel⟩

/-- Frames with one data word, or with one LEAF entry for group 1. -/
def frame (kind : BitVec 4) (addr : W64) : XpFrame := ⟨kind, 1, 3, 0, addr, 1, 0, 0x3F800000 :: List.replicate 15 0⟩
def leaf : XpFrame := ⟨2, 1, 3, 0, 0, 0, 0, 0 :: 0x10000 :: List.replicate 14 0⟩
/-- A fold of total 5 is armed, and group 1 is armed or not. -/
def folding (g : Bgrp) : State :=
  { run0 with xp := { run0.xp with foldBase := 5, foldCount := 1, foldFrames := 1, foldArm := true, left := 1 }, groups := [(1, g)] }

theorem witness_ReceivedFrames :
    (folding armed1).pwr.phase.xpOpen = true
    ∧ ((summed 0).kind = 1 ∧ frameOk (summed 0) = true ∧ (folding armed1).gn.state ≠ 1)
    ∧ ((frame 4 0x1000).kind = 4 ∧ frameOk (frame 4 0x1000) = true)
    ∧ ((frame 3 5).kind = 3 ∧ frameOk (frame 3 5) = true ∧ (folding armed1).xp.foldArm = true
      ∧ (frame 3 5).addr.toNat % 2 ^ 14 = 5 ∧ (frame 3 5).wcount = 1)
    ∧ (frameOk (frame 3 6) = true ∧ ¬ (frame 3 6).addr.toNat % 2 ^ 14 + (frame 3 6).wcount.toNat ≤ 6)
    ∧ (leaf.kind = 2 ∧ frameOk leaf = true ∧ (leafEntries leaf).length = 1
      ∧ (∀ e ∈ leafEntries leaf, ((folding armed1).group e.bgrp.toNat).open = true ∧ ((folding armed1).group e.bgrp.toNat).send = false)
      ∧ (∃ e ∈ leafEntries leaf, ((folding group1).group e.bgrp.toNat).open = false))
    ∧ frameOk (frame 5 0) = false := by decide +kernel

/-- R224: an entry whose chunk is marked for its row makes one DUPLEAF entry and enters no node. -/
theorem test_leaf_duplicate :
    (match exec (.xpLeafFrame leaf) (folding { armed1 with marks := [(0, 0)] }) with
      | .next t => t.xp.drops == 1 && t.store.isEmpty && t.log.queue.map (fun e => e.w0.toNat % 256) == [0x24]
      | _ => false) = true := by decide +kernel

theorem witness_FoldCommands :
    let arm := BitVec.ofNat 64 (5 + 2 ^ 14 + 2 ^ 27 + 2 ^ 51)
    (∀ d, (own (wr 0xC0E0 d)).Serves .a (wr 0xC0E0 d) ∧ (own (wr 0xC0E0 d)).Holds .a (wr 0xC0E0 d) ∧ WritesAt (wr 0xC0E0 d) 0xC0E0)
    ∧ (arm.toNat.testBit 51 = true ∧ (own (wr 0xC0E0 arm)).totalInFlight 5 = false ∧ (own (wr 0xC0E0 arm)).xp.foldArm = false
      ∧ arm.toNat / 2 ^ 27 % 2 ^ 24 = 1 ∧ arm.toNat / 2 ^ 14 % 2 ^ 13 = 1)
    ∧ (BitVec.ofNat 64 (2 ^ 14 + 2 ^ 51)).toNat / 2 ^ 27 % 2 ^ 24 = 0
    ∧ (let s : State := { own (wr 0xC0E0 arm) with xp := (folding group1).xp }
       s.Serves .a (wr 0xC0E0 arm) ∧ s.Holds .a (wr 0xC0E0 arm) ∧ s.xp.foldArm = true)
    ∧ (wr 0xC0E0 5).data.toNat.testBit 51 = false :=
  ⟨fun _ => ⟨serves_own _, holds_own _ _, at_wr _ _⟩, by decide +kernel, by decide, ⟨⟨rfl, rfl, rfl, Nat.zero_lt_succ 7, fun _ => rfl, rfl⟩, ⟨rfl, rfl, rfl⟩, rfl⟩,
    by decide⟩

/-- An IMG_CMD write over an image state. -/
def imaged (d : W64) (i : Img) : State := { own (wr 0x4050 d) with img := i }

theorem witness_ImageCommands :
    let i := run0.img
    (∀ d i, i.start = none → (imaged d i).Serves .a (wr 0x4050 d) ∧ WritesAt (wr 0x4050 d) 0x4050 ∧ (imaged d i).fullStart = false)
    ∧ ([0x10000, 0x10002, 0x10003, 0x10004, 0x10005, 6, 7].map fun d => (wr 0x4050 d).data.toNat % 8) = [0, 2, 3, 4, 5, 6, 7]
    ∧ (wr 0x4050 0x10003).data.toNat / 2 ^ 16 % 256 ≠ 0
    ∧ ((imaged 2 i).sem.owner = some .a ∧ (wr 0x4050 2).gen = (imaged 2 i).sem.copy ∧ i.busy = false ∧ i.genDiff = false
      ∧ i.copyE.toNat = (wr 0x4050 2).data.toNat / 2 ^ 4 % 4 ∧ i.copyW.toNat = (wr 0x4050 2).data.toNat / 2 ^ 4 % 4)
    ∧ i.copyE.toNat ≠ (wr 0x4050 0x12).data.toNat / 2 ^ 4 % 4
    ∧ (let n := (wr 0x4050 0x13).data.toNat / 2 ^ 4 % 4
       ¬ (i.copyE.toNat = n ∨ i.copyW.toNat = n ∨ i.fwCopy.toNat = n))
    ∧ ((imaged 3 { i with start := some (step16 []) }).fullStart = true
      ∧ (imaged 3 { i with start := some (step16 []) }).Serves .a (wr 0x4050 3))
    ∧ (imaged 3 { i with busy := true }).img.busy = true ∧ (imaged 2 { i with genDiff := true }).img.genDiff = true :=
  ⟨fun _ _ h => ⟨⟨rfl, rfl, rfl, Nat.zero_lt_succ 7, fun _ => rfl, rfl⟩, at_wr _ _, by simp [State.fullStart, imaged, h]⟩, by decide, by decide, by decide,
    by decide, by decide, ⟨by decide, ⟨rfl, rfl, rfl, Nat.zero_lt_succ 7, fun _ => rfl, rfl⟩⟩, rfl, rfl⟩

theorem witness_RestartWing :
    let good (g : W32) : Img := { run0.img with copies := [⟨g, true, false⟩, ⟨0, false, false⟩, ⟨0, false, false⟩] }
    let d : W64 := 1
    (∀ i, i.start = none → (imaged d i).Serves .a (wr 0x4050 d) ∧ (imaged d i).Holds .a (wr 0x4050 d))
    ∧ ((imaged d (good 0)).img.busy = false ∧ (imaged d (good 0)).bays.length = 32 ∧ d.toNat % 8 = 1 ∧ d.toNat / 2 ^ 4 % 4 ≠ 3
      ∧ d.toNat / 2 ^ 16 % 256 = 0)
    ∧ (imaged d run0.img).wingBusy false = false
    ∧ ({ imaged d (good 0) with gn := { run0.gn with state := 1 } } : State).wingBusy false = true
    ∧ (run0.img.copies.getD 0 ⟨0, false, false⟩).valid = false
    ∧ ((good 5).copies.getD 0 ⟨0, false, false⟩).gen ≠ run0.img.genE
    ∧ (3 ∈ ({ env0 with hang := [3] } : StartEnv).hang ∧ (run0.dbg.readFuses env0.lifecycle).lc ≠ 3)
    ∧ (env0.hang = [] ∧ (∀ c ∈ run0.cores, c.halted = false) ∧ run0.spare.mortar ≠ 0xFFFF) :=
  ⟨fun _ h => ⟨⟨rfl, rfl, rfl, Nat.zero_lt_succ 7, fun _ => rfl, rfl⟩, ⟨rfl, rfl, by simp [State.fullStart, imaged, h]⟩⟩, by decide, by decide +kernel,
    by decide +kernel, by decide, by decide, by decide, by decide⟩

/-- A header at address 0 that passes check 1 of R289: LENGTH 0x200, GENERATION 24, one section. -/
def header1 : List Host.Cell :=
  [(0, 65), (1, 68), (2, 73), (3, 83), (4, 3), (6, 96), (7, 66), (8, 2), (12, 24), (17, 2), (24, 1), (124, 15), (125, 66), (126, 100), (127, 227)]

theorem witness_ProgramEnds :
    let s (m : List Host.Cell) : State := { run0 with mem := m, img := { run0.img with busy := true, op := 3, program := some (1, 0) } }
    (s []).img.program = some (1, 0) ∧ (s []).pwr.phase = .run ∧ (s []).coresRun = true ∧ (1 : BitVec 2).toNat < (s []).img.copies.length
    ∧ imgCheck1 ((s []).srcRd 0) = false ∧ imgCheck1 ((s header1).srcRd 0) = true ∧ (s header1).Canonical := by
  refine ⟨rfl, rfl, ?_, ?_, ?_, ?_, ?_, rfl, rfl, rfl, rfl, rfl⟩ <;> decide +kernel

/-- The copy that holds that header fails check 2. -/
theorem witness_ProgramEnds_check :
    let s : State := { run0 with mem := header1, img := { run0.img with busy := true, op := 3, program := some (1, 0) } }
    imgFault (({ s with nvm := s.programNvm 1 0 (programSectors (s.srcRd 0)) (cdiv (programLen (s.srcRd 0)) 256) } : State).copyRd 1)
      = some (2, 0, 0x80) := by decide +kernel

theorem witness_StartCommands :
    let s (h : List Nat) : State := { run0 with img := { State.reset.img with busy := true, start := some (step16 h) } }
    (State.reset.pwr.phase = .trim ∧ State.reset.pwr.vddGood = true ∧ State.reset.log.ring.length < 128)
    ∧ ((s [16]).img.start = some (step16 [16]) ∧ (step16 [16]).step = 16 ∧ (step16 [16]).kind.toNat ≤ 2 ∧ (s [16]).pwr.phase = .run
      ∧ 16 ∈ (step16 [16]).env.hang)
    ∧ (16 ∉ (step16 []).env.hang ∧ (step16 []).env.digestOk = (true, true) ∧ (step16 []).reload = false ∧ (s []).allHalted = false
      ∧ (step16 []).env.recordFails = []
      ∧ imgDigest ((s []).copyRd (s []).img.copyE.toNat) = (step16 []).hashE
      ∧ imgDigest ((s []).copyRd (s []).img.copyW.toNat) = (step16 []).hashW) :=
  ⟨⟨rfl, rfl, by decide⟩, ⟨rfl, rfl, by decide, rfl, List.mem_singleton.mpr rfl⟩, ⟨List.not_mem_nil, rfl, rfl, rfl, rfl,
    congrArg imgDigest (funext fun _ => rfl), congrArg imgDigest (funext fun _ => rfl)⟩⟩

/-! ### Witnesses: power, Stop and reset -/

/-- A state with another power state. -/
def powered (f : Pwr → Pwr) : State := { run0 with pwr := f run0.pwr }

theorem witness_PowerCommands :
    (∀ d, (own (wr 0x8010 d)).Serves .a (wr 0x8010 d) ∧ (own (wr 0x8010 d)).Holds .a (wr 0x8010 d) ∧ WritesAt (wr 0x8010 d) 0x8010)
    ∧ ((own (wr 0x8018 5)).Serves .a (wr 0x8018 5) ∧ (own (wr 0x8018 5)).Holds .a (wr 0x8018 5) ∧ WritesAt (wr 0x8018 5) 0x8018)
    ∧ ((wr 0x8010 4).data.toNat % 4 = 0 ∧ (wr 0x8010 7).data.toNat % 4 = 3 ∧ (wr 0x8010 1).data.toNat % 4 = 1 ∧ (wr 0x8010 2).data.toNat % 4 = 2)
    ∧ (own (wr 0x8010 1)).stopBlocked = false
    ∧ (let s : State := { own (wr 0x8010 1) with gn := { run0.gn with state := 1 } }
       s.Serves .a (wr 0x8010 1) ∧ s.Holds .a (wr 0x8010 1) ∧ s.stopBlocked = true) :=
  ⟨fun _ => ⟨serves_own _, holds_own _ _, at_wr _ _⟩, ⟨serves_own _, holds_own _ _, at_wr _ _⟩, by decide, by decide +kernel,
    ⟨⟨rfl, rfl, rfl, Nat.zero_lt_succ 7, fun _ => rfl, rfl⟩, ⟨rfl, rfl, rfl⟩, by decide +kernel⟩⟩

theorem witness_BayGating :
    let s := powered fun p => { p with bayOff := 1 }
    (s.pwr.phase = .run ∧ s.pwr.bayOff.toNat.testBit 0 = true ∧ (s.bay 0).tiles = [] ∧ (s.bay 0).held = none ∧ (s.bay 0).soq = [])
    ∧ s.pwr.bayOff.toNat.testBit 31 = false ∧ ((withTile s tile0).bay 0).tiles ≠ []
    ∧ ((images1 run0).pwr.phase = .run ∧ (images1 run0).wantsBay ((images1 run0).physBay 31) = true) := by
  decide +kernel

theorem witness_StopEntry :
    (let s := powered fun p => { p with phase := .entering true }
     s.pwr.phase = .entering true ∧ s.log.queue = [])
    ∧ (let s := powered fun p => { p with phase := .saved }
       s.pwr.phase = .saved ∧ s.log.queue = [] ∧ ({ s with log := ⟨[⟨1, 2⟩], [], 0, 0⟩ } : State).log.queue ≠ [])
    ∧ (let s (seen : Bool) := powered fun p => { p with
         phase := .committed, stopped := true, rstSeen := seen, en := true, level := true }
       (s false).pwr.phase = .committed ∧ (s false).pwr.rstLow = false ∧ (s false).pwr.rstSeen = false ∧ (s true).pwr.rstSeen = true
       ∧ (s false).pwr.en = true ∧ (s false).pwr.level = true ∧ run0.pwr.en = false ∧ (s false).pwr.vddGood = true
       ∧ (s false).log.ring.length + 2 ≤ 128)
    ∧ (let s := powered fun p => { p with phase := .off, stopped := true }
       s.pwr.phase = .off ∧ s.pwr.exit = none) := by decide

theorem witness_WakeAndResetPins :
    let s (en pol : Bool) := powered fun p => { p with phase := .stop, stopped := true, en := en, pol := pol }
    (s true false).pwr.phase = .stop ∧ (s true false).pwr.exit = none ∧ (s true false).pwr.vddGood = true
    ∧ 200 + 40 * (s true false).pwr.thresh.toNat = 520 ∧ (s true false).pwr.en = true ∧ (s false true).pwr.en = false
    ∧ (s true false).pwr.level = false
    ∧ (powered fun p => { p with phase := .off, stopped := true }).pwr.phase = .off
    ∧ (powered fun p => { p with phase := .saved }).pwr.phase.enteringStop = true ∧ run0.pwr.phase.enteringStop = false
    ∧ (powered fun p => { p with phase := .stop, stopped := true, vddGood := false }).pwr.vddGood = false
    ∧ ({ run0 with log := ⟨[], List.replicate 128 ⟨0, 0⟩, 0, 0⟩ } : State).log.ring.length = 128
    ∧ (powered fun p => { p with phase := .warmHold, stopped := true }).pwr.phase = .warmHold
    ∧ run0.pwr.phase ≠ .warmHold ∧ run0.log.ring.length < 128 := by
  decide +kernel

/-- The comparator at its boundary values: 521 mV rises and 494 mV falls over 520 mV, and 520 mV and 495 mV do neither. -/
theorem test_comparator :
    let s := powered fun p => { p with phase := .stop, stopped := true }
    let level (x : Host.Outcome State Fault Refusal) : Option Bool := match x with
      | .next t => some t.pwr.level
      | _ => none
    level (exec (.wakeEvent 521) s) = some true ∧ level (exec (.wakeEvent 520) s) = some false
    ∧ level (exec (.wakeEvent 494) (powered fun p => { p with phase := .stop, stopped := true, level := true })) = some false
    ∧ level (exec (.wakeEvent 495) (powered fun p => { p with phase := .stop, stopped := true, level := true })) = some true := by
  decide +kernel

theorem witness_SupplyEvents :
    (powered fun p => { p with phase := .noAux, stopped := true }).pwr.phase = .noAux ∧ run0.pwr.phase = .run
    ∧ (powered fun p => { p with phase := .committed, stopped := true }).pwr.phase = .committed
    ∧ (let s := powered fun p => { p with phase := .stop, stopped := true, exit := some .wake, vddGood := false }
       s.pwr.phase = .stop ∧ s.pwr.exit = some .wake) := ⟨rfl, rfl, rfl, rfl, rfl⟩

theorem witness_DrainEnd :
    (∀ c, (powered fun p => { p with phase := .drain (.cold c) }).pwr.phase = .drain (.cold c))
    ∧ (powered fun p => { p with phase := .drain .warm }).pwr.phase = .drain .warm
    ∧ (powered fun p => { p with phase := .drain .faultStop }).pwr.phase = .drain .faultStop ∧ run0.tap.held = [] :=
  ⟨fun _ => rfl, rfl, rfl, rfl⟩

/-- An access of REGACC waits in a drain of a fault Stop, and executes. -/
theorem witness_DrainEnd_access :
    let x : TapAccess := ⟨0xC000, false, 0, env0⟩
    let s : State := powered fun p => { p with phase := .drain .faultStop }
    let t : State := { s with tap := { s.tap with ir := 0x12, held := [x] } }
    (t.pwr.stopped = false ∧ t.tap.held = [x] ∧ t.tap.ir = 0x12 ∧ ∀ o, t.ready o = false)
    ∧ ∃ u, exec (.regacc x.addr x.write x.data x.env) { t with tap := { t.tap with held := [] } } = .next u :=
  ⟨⟨rfl, rfl, rfl, fun o => by cases o <;> rfl⟩, _, rfl⟩

/-- Power-up with every domain on from `lo` upward. -/
def rising0 (k : ExitKind) (d : BitVec 38) : State := powered fun p => { p with phase := .powerUp k, stopped := true, domains := d }


theorem witness_PowerUp :
    ((rising0 .wake 0).pwr.phase = .powerUp .wake
      ∧ ((rising0 .wake 0).slots.find? fun i => !(rising0 .wake 0).pwr.domains.toNat.testBit i) = some (37 : Fin 38).val)
    ∧ ((rising0 .cold 0x3FFFFFFFFF).pwr.phase = .powerUp .cold
      ∧ ∀ i ∈ (rising0 .cold 0x3FFFFFFFFF).slots, (rising0 .cold 0x3FFFFFFFFF).pwr.domains.toNat.testBit i = true)
    ∧ ExitKind.wake ≠ .cold
    ∧ (let s := powered fun p => { p with phase := .released .wake, stopped := true }
       s.pwr.phase = .released .wake ∧ s.pwr.rstLow = false ∧ s.restorable = false)
    ∧ (2 ∈ ({ env0 with hang := [2] } : StartEnv).hang ∧ (run0.dbg.readFuses env0.lifecycle).lc ≠ 3)
    ∧ (env0.hang = [] ∧ ∀ c ∈ run0.cores, c.halted = false) := by
  decide +kernel

/-- A save with IMGVALID 1 over items of zeros. -/
def saved1 : List W64 :=
  BitVec.ofNat 64 (0x4C4C4543 + 2 ^ 32 + 2 ^ 40 + 2 ^ 48 * 116)
    :: BitVec.ofNat 64 (crc32 (wordBytes (List.replicate 114 0))) :: List.replicate 114 0

theorem restorable_of (s : State) (items : List W64) (k : Nat) (h : crc32 (wordBytes items) = k) :
    ({ s with cellar := BitVec.ofNat 64 (0x4C4C4543 + 2 ^ 32 + 2 ^ 40 + 2 ^ 48 * 116) :: BitVec.ofNat 64 k :: items } : State).restorable
      = true := by
  have hk : k < 2 ^ 32 := h ▸ crc32_lt _
  simp only [State.restorable, State.cellarValid, State.cellarCrc, State.cellarWord, List.drop_succ_cons, List.drop_zero,
    List.getD_cons_zero, List.getD_cons_succ, Bool.and_eq_true, beq_iff_eq, h]
  refine ⟨⟨⟨⟨by decide, by decide⟩, by decide⟩, ?_⟩, by decide⟩
  simp only [bits, BitVec.toNat_ofNat, Nat.shiftRight_zero]
  omega

theorem witness_PowerUp_restore :
    let s : State := { powered (fun p => { p with phase := .released .wake, stopped := true }) with cellar := saved1 }
    s.pwr.phase = .released .wake ∧ s.restorable = true :=
  ⟨rfl, restorable_of _ _ _ rfl⟩

/-! ### Witnesses: spares, data errors, debug -/

/-- A SPARE_CMD write over a spare map. -/
def sparing (d : W64) (f : Spare → Spare) : State := { own (wr 0x80030 d) with spare := f run0.spare }

theorem witness_SpareCommands :
    (∀ d f, (sparing d f).Serves .a (wr 0x80030 d) ∧ WritesAt (wr 0x80030 d) 0x80030 ∧ (sparing d f).Holds .a (wr 0x80030 d))
    ∧ (wr 0x80030 4).data.toNat % 4 = 0 ∧ (2 ≤ (wr 0x80030 2).data.toNat % 4 ∧ 2 ≤ (wr 0x80030 7).data.toNat % 4)
    ∧ (let d := (wr 0x80030 0x91).data.toNat
       d % 4 = 1 ∧ d / 2 ^ 4 % 2 ^ 4 = 9)
    ∧ (let d := (wr 0x80030 0x1072101).data.toNat
       d % 4 = 1 ∧ d / 2 ^ 4 % 2 ^ 4 = 0 ∧ d / 2 ^ 8 % 2 ^ 6 = 33 ∧ d / 2 ^ 16 % 2 ^ 11 = 263)
    ∧ (sparing 0x1072101 fun x => { x with preps := [(true, 16)] }).spare.pending = true
    ∧ ((sparing 0x1072101 id).spare.pending = false ∧ 33 < (sparing 0x1072101 id).spare.bays.length
      ∧ (sparing 0x1072101 id).spare.prepares 33 = false
      ∧ BitVec.ofNat 9 263 ∉ ((sparing 0x1072101 id).spare.bay 33).lanes ∧ ((sparing 0x1072101 id).spare.bay 33).lanes.length < 7)
    ∧ ((sparing 0x1072101 id).spare.serving 33 = none ∧ (sparing 1 id).spare.serving 0 = some 0
      ∧ ((sparing 1 id).bay 0).act.isSome = false)
    ∧ (sparing 0x11 fun x => { x with retired := 1 }).spare.retire ⟨1, 0, 0⟩ = none
    ∧ (let s := sparing 0x90051 id
       (wr 0x80030 0x90051).data.toNat / 2 ^ 4 % 2 ^ 4 = 5 ∧ (wr 0x80030 0x90051).data.toNat / 2 ^ 16 % 2 ^ 11 = 9
         ∧ s.spare.cores.toNat.testBit 9 = false ∧ popCount 10 s.spare.cores.toNat < 6 ∧ s.allHalted = false
         ∧ (s.cores.getD 9 Core.reset).halted = false) :=
  ⟨fun _ _ => ⟨⟨rfl, rfl, rfl, Nat.zero_lt_succ 7, fun _ => rfl, rfl⟩, ⟨rfl, rfl⟩, ⟨rfl, rfl, rfl⟩⟩, by decide, by decide, by decide, by decide, by decide,
    by decide, by decide, by decide +kernel⟩

/-- Bay 0 with one tile that holds its lanes, before its first group. -/
def running (s : State) (t : Tile) : State :=
  s.mapBay 0 fun b => { b with tiles := [t], act := some ⟨t.seq, 0, 0, 0, 0, 0, false⟩ }

theorem witness_PatrolEvents :
    let s : State := run0
    let last : State := { run0 with spare := { run0.spare with left := 1, covered := (List.range 31).map fun i => (1, i + 1) } }
    let counted : State := { run0 with spare := { run0.spare with bankCnt := [(32 * 2 + 16, 15)] } }
    let failed : State := { run0 with spare := { run0.spare with vfail := [⟨0, 33, 263⟩] } }
    let opened (s : State) (a v i : Nat) : Bool := s.spare.left.toNat.testBit i
      && (s.sweepUnits (i + 1)).any fun w => !((a, v) :: s.spare.covered).contains (i + 1, w)
    let soft (k : BitVec 2) : State := running { run0 with spare :=
      { run0.spare.mapPhys 0 fun m => { m with soft := k } with sampled := [[⟨255, 2, 0, 7, 3, 9, 0, 0, 0, false, .none, [0]⟩]] } } tile0
    let found (s : State) (lane row : Nat) : Bool := ((s.spare.sampled.getD 0 []).find? fun x =>
      x.ready && x.lane == lane && x.row == row && x.stage == 0 && x.element == 7).isSome
    (s.pwr.phase = .run ∧ s.patrolOn = true ∧ (⟨4, 33, 1295⟩ : UnitId).wf = true)
    ∧ (17 * 1 + 16 ∈ s.sweepUnits 4 ∧ 34 + 16 ∈ s.sweepUnits 4 ∧ (⟨2, 1, 16⟩ : UnitId).wf = true ∧ (⟨3, 0, 16⟩ : UnitId).wf = true
      ∧ (∀ c, c < 16 → s.spare.ctxBank (16 * 1 + c) ≠ (1, 16)) ∧ s.spare.ctxBank (16 * 1 + 3) = (1, 3))
    ∧ (33 ∉ s.sweepUnits 1 ∧ 31 ∈ s.sweepUnits 1 ∧ 33 ∈ s.sweepUnits 3)
    ∧ ((last.patrolOn = true ∧ 0 ∈ last.sweepUnits 1 ∧ ∀ i, i < 8 → opened last 1 0 i = false)
      ∧ opened { last with spare := { last.spare with left := 5 } } 1 0 2 = true)
    ∧ (50 ∈ s.sweepUnits 4 ∧ sget 0 s.spare.bankCnt 80 < 15 ∧ sget 0 counted.spare.bankCnt 80 = 15)
    ∧ (s.findsUnit ⟨1, 0, 0⟩ = false ∧ s.findsUnit ⟨0, 33, 263⟩ = true ∧ (⟨0, 33, 263⟩ : UnitId).wf = true
      ∧ failed.findsUnit ⟨0, 33, 263⟩ = true ∧ s.findsUnit ⟨6, 0, 15⟩ = true)
    ∧ (∀ k, k < 4 → (soft (BitVec.ofNat 2 k)).patrolOn = true ∧ found (soft (BitVec.ofNat 2 k)) 255 2 = true
      ∧ (soft (BitVec.ofNat 2 k)).bayOn 0 = true ∧ (soft (BitVec.ofNat 2 k)).isLost 0 = false
      ∧ (soft (BitVec.ofNat 2 k)).patrolsBay ((soft (BitVec.ofNat 2 k)).physBay 0) = true
      ∧ (soft (BitVec.ofNat 2 k)).physBay 0 < (soft (BitVec.ofNat 2 k)).spare.bays.length
      ∧ ((soft (BitVec.ofNat 2 k)).spare.bay ((soft (BitVec.ofNat 2 k)).physBay 0)).soft.toNat = k)
    ∧ found (soft 0) 263 2 = false := by
  decide +kernel

/-- The map of a snapshot, erased. -/
def erased : List Byte := List.replicate 0x8B0 255

/-- A record whose sector 0 has the magic of a snapshot and the CRC `k`, over an erased map. -/
def recorded (k : Nat) : List Host.Cell :=
  [(0x1C01000, 0x53), (0x1C01001, 0x4D), (0x1C01002, 1), (0x1C0100C, BitVec.ofNat 8 k), (0x1C0100D, BitVec.ofNat 8 (k / 2 ^ 8)),
    (0x1C0100E, BitVec.ofNat 8 (k / 2 ^ 16)), (0x1C0100F, BitVec.ofNat 8 (k / 2 ^ 24))]

theorem witness_SpareMappings :
    let f : FindingRec := ⟨⟨0, 0, 0⟩, 5, 0, 0⟩
    let prep : State := { run0 with spare := { run0.spare with preps := [(true, 31)] } }
    let fresh (m : List Host.Cell) : State := { run0 with nvm := m, spare := { run0.spare with unwritten := [f] } }
    let halted : State := { run0 with cores := List.replicate 10 { Core.reset with halted := true } }
    let moved : State := { prep with spare := { prep.spare with preps := [], retired := 2 ^ 31, wUse := true, wFor := 15 } }
    ((run0.bay 31).act = none ∧ run0.coresRun = true) ∧ (((running run0 tile0).bay 0).act.isSome = true ∧ halted.coresRun = false)
    ∧ (prep.pwr.phase = .run ∧ prep.coresRun = true ∧ (prep.spare.preps.find? fun x => x.1 == true) = some (true, 31)
      ∧ (prep.bay 31).act = none ∧ ((running { run0 with spare := { run0.spare with preps := [(false, 0)] } } tile0).bay 0).act.isSome = true)
    ∧ (prep.bayOn 31 = true ∧ (powered fun p => { p with domains := 0 }).bayOn 31 = false
      ∧ (images1 moved).wantsBay 33 = true ∧ moved.wantsBay 33 = false)
    ∧ (run0.pwr.phase = .run ∧ run0.spare.unwritten = [])
    ∧ ((fresh []).pwr.phase = .run ∧ (fresh []).coresRun = true ∧ (fresh []).spare.unwritten = f :: []) := by
  decide +kernel

theorem recorded_get (k a : Nat) (h : 0x1C01010 ≤ a) : sget nvmDefault (recorded k) a = 0xFF := by
  simp only [recorded, sget, nvmDefault]
  repeat rw [if_neg (by omega)]

theorem recorded_map (k : Nat) : nvmBytes (recorded k) 0x1C01010 0x8B0 = erased :=
  List.eq_replicate_iff.mpr ⟨by simp [nvmBytes], fun b hm => by
    obtain ⟨j, -, rfl⟩ := List.mem_map.mp hm
    exact recorded_get k _ (by omega)⟩

theorem recorded_first (k : Nat) (hk : k < 2 ^ 32) (hc : crc32 erased = k) : snapshotOk (recorded k) 0 = true := by
  simp only [snapshotOk, mapSector, Nat.mul_zero, Nat.add_zero, Nat.reduceAdd, recorded_map, hc]
  simp [nvmRead, sget, recorded]
  omega

theorem recorded_other (i k : Nat) (h : i ≠ 0) : snapshotOk (recorded k) i = false := by
  simp only [snapshotOk, mapSector, nvmRead, recorded_get k (0x1C01000 + 4096 * i) (by omega)]
  simp
  omega

theorem recorded_serial : snapshotSerial (recorded (crc32 erased)) 0 = 0xFFFFFFFF := rfl

theorem recorded_latest : latestSector (recorded (crc32 erased)) = some 0 := by
  have snap (i : Nat) : snapshotOk (recorded (crc32 erased)) i = decide (i = 0) := by
    by_cases h : i = 0
    · rw [h, recorded_first _ (crc32_lt _) rfl]; rfl
    · rw [recorded_other _ _ h, decide_eq_false h]
  have ok : (List.range 1023).filter (snapshotOk (recorded (crc32 erased))) = [0] := by
    rw [funext snap, List.range_eq_range', show (1023 : Nat) = 1022 + 1 from rfl, List.range'_succ,
      List.filter_cons_of_pos (by simp), List.filter_eq_nil_iff.mpr]
    intro a ha
    have := (List.mem_range'_1.mp ha).1
    simp; omega
  simp only [latestSector, ok, List.map_cons, List.map_nil, recorded_serial]
  rfl

theorem empty_latest : latestSector [] = none := by
  have ok : (List.range 1023).filter (snapshotOk []) = [] :=
    List.filter_eq_nil_iff.mpr fun i _ => by simp [snapshotOk, nvmRead, sget, nvmDefault]
  simp only [latestSector, ok]
  rfl

theorem next_of {m : List Host.Cell} {i k : Nat} (h : latestSector m = some i)
    (h2 : ((List.range 56).find? fun k => nvmRead m (mapSector i + 0x900 + 32 * k) 2 == 0xFFFF) = some k) :
    nextFinding m = .inl (mapSector i + 0x900 + 32 * k) := by
  unfold nextFinding
  rw [h]
  simp only [h2]

/-- An erased place for a finding entry. -/
theorem witness_SpareMappings_erased :
    swf nvmDefault [] = true ∧ ∀ i, i < 32 → sget nvmDefault [] (0x1C01900 + i) = 0xFF := ⟨rfl, fun _ _ => rfl⟩

/-- The next finding of an empty record opens sector 0, and that of a valid one takes its first free entry. -/
theorem witness_SpareMappings_record :
    nextFinding [] = .inr (0, 1) ∧ nextFinding (recorded (crc32 erased)) = .inl 0x1C01900 := by
  refine ⟨by unfold nextFinding; rw [empty_latest], next_of (k := 0) recorded_latest ?_⟩
  rw [show List.range 56 = 0 :: (List.range 56).tail from rfl, List.find?_cons]
  simp only [nvmRead, mapSector, recorded_get _ _ (by omega : 0x1C01010 ≤ 0x1C01000 + 4096 * 0 + 0x900 + 32 * 0),
    recorded_get _ _ (by omega : 0x1C01010 ≤ 0x1C01000 + 4096 * 0 + 0x900 + 32 * 0 + 1)]
  rfl

/-- Level-0 node `j` of context 0 in group 1. -/
def node (j : BitVec 24) : BondEntry := ⟨0, j, 0, 1, 0, false, false, 0⟩

theorem witness_DataErrors :
    let s : State := { alloc0 (rd 0) with store := [node 3] }
    let here (x : BondEntry) : Bool := x.bgrp == 1 && x.ctx == 0 && x.level == 0 && x.node == 3
    s.pwr.phase = .run ∧ (s.allocated (0 : BitVec 18).toNat = true ∧ (0 : BitVec 18).toNat ∉ s.poison)
    ∧ (1 ∉ s.spare.copies ∧ 2 ∉ s.spare.copies)
    ∧ (∃ x ∈ s.store, here x = true) ∧ (∀ x ∈ run0.store, here x = false)
    ∧ s.Canonical ∧ (s.total 16383).mode = 0 ∧ (1295 : BitVec 11).toNat < 1296 :=
  ⟨rfl, by decide, by decide, ⟨node 3, List.mem_singleton.mpr rfl, rfl⟩, nofun, ⟨rfl, rfl, rfl, rfl, rfl, rfl⟩, rfl, by decide⟩

/-- A DBG_CMD write over debug registers. -/
def debugging (d : W64) (f : Dbg → Dbg) : State := { own (wr 0xC0008 d) with dbg := f run0.dbg }

theorem witness_DebugCommands :
    let d (x : W64) := (wr 0xC0008 x).data.toNat
    (∀ d f, (debugging d f).Serves .a (wr 0xC0008 d) ∧ WritesAt (wr 0xC0008 d) 0xC0008 ∧ (debugging d f).sem.owner = some .a
      ∧ (wr 0xC0008 d).gen = (debugging d f).sem.copy)
    ∧ ([0, 0x11, 0x21, 2, 0x22, 3, 4, 0x44, 0xC4, 5].map fun x => d x / 2 ^ 4 % 4) = [0, 1, 2, 0, 2, 0, 0, 0, 0, 0]
    ∧ ([0, 0x21, 0x22, 3, 0x44, 5].map fun x => d x % 8) = [0, 1, 2, 3, 4, 5]
    ∧ (d 0x21 / 2 ^ 4 % 4 = 2 ∧ d 0x11 / 2 ^ 4 % 4 = 1 ∧ d 0x44 / 2 ^ 6 % 4 = 1 ∧ d 4 / 2 ^ 6 % 4 = 0 ∧ d 0xC4 / 2 ^ 6 % 4 = 3)
    ∧ (let s := debugging 0x21 fun x => { x with lc := 2, level := 0 }
       s.dbg.lc = 2 ∧ s.dbg.level.toNat < 2 ∧ s.dbg.state = 0 ∧ s.dbg.refusals.toNat < 8)
    ∧ (let s := debugging 0x44 fun x => { x with lc := 0 }
       s.dbg.lc ≠ 2 ∧ s.dbg.state = 0 ∧ s.stopBlocked = false)
    ∧ ((debugging 0x21 id).allHalted = false ∧ ({ debugging 0x21 id with
        cores := List.replicate 10 { Core.reset with halted := true } } : State).allHalted = true)
    ∧ (debugging 5 fun x => { x with state := 1 }).dbg.state = 1
    ∧ (d 0x31 / 2 ^ 4 % 4 = 3 ∧ 6 ≤ d 6 % 8 ∧ (withSem (some .b) 1 0).sem.owner ≠ some .a)
    ∧ (let s := debugging 3 fun x => { x with state := 2, purpose := 1 }
       s.dbg.state = 2 ∧ s.dbg.source = 0 ∧ s.dbg.purpose = 1 ∧ s.stopBlocked = false
       ∧ ({ s with gn := { s.gn with state := 1 } } : State).stopBlocked = true) :=
  ⟨fun _ _ => ⟨⟨rfl, rfl, rfl, Nat.zero_lt_succ 7, fun _ => rfl, rfl⟩, ⟨rfl, rfl⟩, rfl, rfl⟩, by decide, by decide, by decide, by decide, by decide +kernel,
    by decide, by decide, by decide, by decide +kernel⟩

theorem witness_GatehouseAnswers_level :
    ({ run0.dbg with state := 3, purpose := 0, level := 1 } : Dbg).level ≠ 2 ∧ ({ run0.dbg with state := 3, purpose := 0, level := 2 } : Dbg).level = 2 := by decide

theorem witness_GatehouseAnswers :
    let s (st purpose : BitVec 2) : State := { run0 with dbg := { run0.dbg with state := st, purpose := purpose } }
    (∀ st purpose, (s st purpose).pwr.phase = .run ∧ (s st purpose).pwr.stopped = false ∧ (s st purpose).dbg.state = st ∧ (s st purpose).dbg.purpose = purpose)
    ∧ ((s 1 0).dbg.state = 1 ∧ (s 1 0).dbg.purpose ≠ 2)
    ∧ (powered fun p => { p with phase := .saved }).pwr.phase ≠ .run :=
  ⟨fun _ _ => ⟨rfl, rfl, rfl, rfl⟩, ⟨rfl, by decide⟩, by decide⟩

/-- A read of ID_BLOCK waits in Lath A, with and without one in Lath B, and an access of REGACC behind them. -/
theorem witness_TapCommands_behind :
    let x : TapAccess := ⟨0xC000, false, 0, env0⟩
    let s (b : List LathReq) : State := { run0 with lathA := ⟨[rd 0], [], true⟩, lathB := ⟨b, [], true⟩, tap := { run0.tap with ir := 0x12, held := [x] } }
    let u (b : List LathReq) : State := (State.popped { s b with tap := { (s b).tap with held := [] } } .a).respond .a (rd 0) codeOK 0x24260
    (∀ b, (s b).tap.held = [x] ∧ (s b).tap.ir = 0x12 ∧ (s b).pwr.phase = .run ∧ (s b).pwr.stopped = false
      ∧ ((s b).lath .a).reqs.head? = some (rd 0) ∧ ((s b).tie = true → (s b).first = .a) ∧ ((s b).lath .a).rsps.length < 8)
    ∧ ((rd 0).addr.toNat % 8 = 0 ∧ regOf (rd 0).addr.toNat = some .idBlock)
    ∧ ((u [rd 8]).ready .b = true) ∧ (∀ o, (u []).ready o = false) :=
  ⟨fun _ => ⟨rfl, rfl, rfl, rfl, rfl, fun _ => rfl, Nat.zero_lt_succ 7⟩, by decide, by decide, fun o => by cases o <;> rfl⟩

theorem regacc_answers (a : W32) (w : Bool) (d : W64) (e : StartEnv) (s : State) : ∃ u, exec (.regacc a w d e) s = .next u := by
  unfold exec execRegacc
  dsimp only
  split <;> exact ⟨_, rfl⟩

/-- A reset of Lath A lets an access of REGACC execute. -/
theorem witness_LathPortResets_access :
    let x : TapAccess := ⟨0xC000, false, 0, env0⟩
    let s : State := { run0 with lathA := ⟨[rd 0], [], true⟩, tap := { run0.tap with ir := 0x12, held := [x] } }
    ((s.portReset .a).tap.held = [x] ∧ (s.portReset .a).tap.ir = 0x12 ∧ (s.portReset .a).pwr.phase = .run
      ∧ (s.portReset .a).pwr.stopped = false ∧ (s.portReset .a).ready .a = false ∧ (s.portReset .a).ready .b = false)
    ∧ (run0.tap.held = [] ∧ ({ s with lathB := ⟨[rd 8], [], true⟩ } : State).ready .b = true)
    ∧ ∃ u, exec (.regacc x.addr x.write x.data x.env) { s.portReset .a with tap := { (s.portReset .a).tap with held := [] } } = .next u :=
  ⟨by decide +kernel, ⟨rfl, by decide⟩, regacc_answers ..⟩

theorem witness_TapCommands :
    let s (ir : BitVec 8) (l : BitVec 2) : State := { run0 with tap := { run0.tap with ir := ir }, dbg := { run0.dbg with level := l } }
    ((s 1 0).pwr.phase ≠ .noAux ∧ (s 1 0).testing = false ∧ (s 3 2).testing = true ∧ (s 3 2).pwr.phase = .run
      ∧ (s 3 2).tapAvailable (0x11 : BitVec 8).toNat = some true ∧ (0x11 : BitVec 8) ≠ (s 3 2).tap.ir)
    ∧ ((s 1 0).tapAvailable (1 : BitVec 8).toNat = some true ∧ (s 1 0).tapAvailable (0x11 : BitVec 8).toNat = some false
      ∧ (s 1 0).tapAvailable (0x55 : BitVec 8).toNat = none ∧ (s 1 0).log.queue.length < 32)
    ∧ ((s 0x11 1).tap.ir = 0x11 ∧ 1 ≤ (s 0x11 1).dbg.level.toNat ∧ (127 : BitVec 8).toNat < 128)
    ∧ ((s 0x12 1).tap.ir = 0x12 ∧ regOf (0xC000 : W32).toNat = some .srSeed ∧ 1 ≤ (s 0x12 1).dbg.level.toNat ∧ (s 0x12 0).dbg.level = 0
      ∧ ¬ (0xC0000 ≤ (0xC000 : W32).toNat))
    ∧ ((s 0x12 2).dbg.level = 2 ∧ (s 0x12 2).fullStart = false ∧ (∀ o, ((s 0x12 2).lath o).reqs = [])
      ∧ (((own (rd 0)).lath .a).reqs ≠ [] ∧ ((own (rd 0)).lath .a).rsps.length < 8))
    ∧ ((s 1 2).tapAvailable (2 : BitVec 8).toNat = some true ∧ (s 1 2).tapAvailable (3 : BitVec 8).toNat = some true
      ∧ (s 1 2).testing = false ∧ (s 0x12 2).tap.held = [])
    ∧ (∀ k, Reg.srSeed ≠ .window k) ∧ ∀ k, Reg.srSeed ≠ .coreView k :=
  ⟨by decide +kernel, by decide +kernel, by decide, by decide, ⟨rfl, rfl, fun o => by cases o <;> rfl, by decide⟩, by decide +kernel, nofun, nofun⟩

theorem witness_CoreDebug :
    let s (ir : BitVec 8) : State := { run0 with tap := { run0.tap with ir := ir }, dbg := { run0.dbg with level := 2 } }
    (9 : BitVec 4).toNat < 10 ∧ (s 0x20).pwr.stopped = false ∧ (s 0x20).cores.length = 10 ∧ (s 0x20).tap.ir = 0x20 ∧ (s 0x21).tap.ir = 0x21
    ∧ ({ Core.reset with zeroed := true } : Core).zeroed = true ∧ 2 ≤ (s 0x21).dbg.level.toNat ∧ (s 0x21).allHalted = false ∧ (s 0x21).img.start = none
    ∧ ({ s 0x21 with cores := List.replicate 10 { Core.reset with halted := true } } : State).allHalted = true := by decide

/-! ### Witnesses: tiles -/

theorem witness_SiHeaders :
    let drops (s : State) : Prop := s.pwr.phase = .saved ∨ s.pwr.phase = .drain .faultStop ∨ ∃ v, s.pwr.phase = .entering v
    let seq (x : Beat) : W32 := BitVec.ofNat 32 (x.toNat % 2 ^ 32)
    (run0.pwr.stopped = false ∧ (run0.bay 0).siRst = false ∧ run0.testing = false ∧ ¬ drops run0)
    ∧ ((seq 63 - (run0.bay 0).next).toNat < 64 ∧ 64 ≤ (seq 64 - (run0.bay 0).next).toNat
      ∧ ∃ u ∈ ((withTile run0 tile0).bay 0).tiles, u.seq.toNat % 64 = (seq 64).toNat % 64)
    ∧ drops (powered fun p => { p with phase := .saved }) := by
  decide +kernel

/-- A tile of two beats with some progress. -/
def tile2 (st : TileStatus) (granted arrived : Nat) : Tile := { tile0 with beats := 2, status := st, granted := granted, arrived := arrived }

theorem witness_SiTransfers :
    let early : List Tile := [tile2 .waiting 0 0, tile2 .accepted 1 0, tile2 .accepted 2 1, tile2 .accepted 1 1]
    let s (e : Bool) (t : Tile) : State := running run0 t |>.mapBay 0 fun b => { b with act := b.act.map fun a => { a with ended := e } }
    let act (e : Bool) : Active := ⟨0, 0, 0, 0, 0, 0, e⟩
    (run0.pwr.stopped = false ∧ (run0.bay 0).siRst = false ∧ run0.testing = false ∧ run0.isLost 0 = false)
    ∧ ({ run0 with spare := { run0.spare with retired := 1 } } : State).isLost 0 = true
    ∧ (run0.bay 0).tile? (0 : BitVec 6).toNat = none
    ∧ (∀ t ∈ early ++ [tile2 .accepted 2 0, tile2 .accepted 2 2, tile2 (.refused 6 none) 1 0, tile2 (.refused 6 none) 2 1,
        tile2 (.refused 6 none) 1 1], ((withTile run0 t).bay 0).tile? (0 : BitVec 6).toNat = some t)
    ∧ ((tile2 .accepted 2 0).arrived < (tile2 .accepted 2 0).beats.toNat ∧ (tile2 .accepted 2 0).arrived < (tile2 .accepted 2 0).granted
      ∧ (tile2 .accepted 2 0).arrived + 1 ≠ (tile2 .accepted 2 0).beats.toNat)
    ∧ ((tile2 .accepted 2 1).arrived + 1 = (tile2 .accepted 2 1).beats.toNat ∧ ¬ (tile2 .accepted 2 2).arrived < (tile2 .accepted 2 2).beats.toNat)
    ∧ ((tile2 .accepted 1 1).granted ≤ (tile2 .accepted 1 1).arrived)
    ∧ (∀ t ∈ early, t.arrived < t.beats.toNat ∧ t.lastSeen = false)
    ∧ (∀ t ∈ [tile2 .admitted 1 0, tile2 .admitted 1 1, tile2 .admitted 2 1, tile2 .admitted 2 2],
        ((s false t).bay 0).tile? (0 : BitVec 6).toNat = some t ∧ ((s false t).bay 0).act = some (act false)
        ∧ ((s true t).bay 0).tile? (0 : BitVec 6).toNat = some t ∧ ((s true t).bay 0).act = some (act true))
    ∧ ∀ p ∈ ((s false (tile2 .admitted 1 1)).bay 0).activeTile, p.1.pass = 0 := by
  decide +kernel

theorem witness_BeatCredits :
    let wide (st : TileStatus) (seq : W32) (granted : Nat) : Tile := { tile0 with seq := seq, beats := 1024, status := st, granted := granted }
    let s (t u : Tile) : State := run0.mapBay 0 fun b => { b with tiles := [t, u] }
    let fits (s : State) (t : Tile) (k : BitVec 6) : Prop := (s.bay 0).tile? t.slot = some t ∧ s.pwr.phase = .run ∧ s.bayOn 0 = true
      ∧ (∀ q ∈ s.spare.preps, q.2 ≠ 0) ∧ (s.tileChain 0 t).insrc = false ∧ 1 ≤ k.toNat ∧ k.toNat ≤ 32 ∧ t.granted + k.toNat ≤ t.beats.toNat
    let all (s : State) : Nat := ((s.bay 0).tiles.map (s.bay 0).entriesOf).sum
    let others (s : State) : Nat := (((s.bay 0).tiles.filter fun x => x.seq ≠ (s.bay 0).next).map (s.bay 0).entriesOf).sum
    let head := wide .accepted 0 992
    let next := wide .accepted 1 480
    (fits (s head (wide .waiting 2 0)) head 32 ∧ all (s head (wide .waiting 2 0)) + 32 = 1024)
    ∧ (fits (s next (wide .accepted 2 0)) next 32 ∧ others (s next (wide .accepted 2 0)) + 32 = 512)
    ∧ (fits (s next (wide .accepted 2 1)) next 32 ∧ others (s next (wide .accepted 2 1)) + 32 = 513)
    ∧ (fits (s head (wide .accepted 2 1)) head 32 ∧ all (s head (wide .accepted 2 1)) + 32 = 1025)
    ∧ fits (s (wide (.refused 6 none) 0 0) next) (wide (.refused 6 none) 0 0) 1
    ∧ fits (s (wide .waiting 0 0) next) (wide .waiting 0 0) 1 := by
  decide +kernel

/-- Tiles that are skipped, in the lanes, ended there, or refused by BAYLOST. -/
theorem witness_BeatCredits_others :
    let s (t : Tile) (e : Bool) : State := running run0 t |>.mapBay 0 fun b => { b with act := b.act.map fun a => { a with ended := e } }
    (∀ t ∈ [tile2 .skipped 1 0, tile2 .admitted 1 1, tile2 (.refused 0x74 none) 1 0], ∀ e, ((s t e).bay 0).tile? (0 : BitVec 6).toNat = some t
      ∧ (s t e).pwr.phase = .run ∧ (s t e).bayOn 0 = true ∧ (s t e).spare.preps = [] ∧ ((s t e).tileChain 0 t).insrc = false
      ∧ t.granted + (1 : BitVec 6).toNat ≤ t.beats.toNat)
    ∧ (((s (tile2 .admitted 1 1) false).bay 0).act = some ⟨0, 0, 0, 0, 0, 0, false⟩
      ∧ ((s (tile2 .admitted 1 1) true).bay 0).endedTile (tile2 .admitted 1 1) = true) := by decide +kernel

/-- The earlier tile lacks one beat, so the later one is granted nothing. -/
theorem witness_BeatCredits_order :
    let lacks : Tile := { tile0 with seq := 1, beats := 1024, status := .accepted, granted := 1023 }
    let later : Tile := { tile0 with seq := 2, beats := 1024, status := .accepted }
    let s : State := run0.mapBay 0 fun b => { b with tiles := [lacks, later] }
    ((s.bay 0).tile? (2 : BitVec 6).toNat = some later ∧ s.pwr.phase = .run ∧ s.bayOn 0 = true ∧ (s.tileChain 0 later).insrc = false)
    ∧ (∀ q ∈ s.spare.preps, q.2 ≠ 0) ∧ later.granted + (1 : BitVec 6).toNat ≤ later.beats.toNat
    ∧ (lacks ∈ (s.bay 0).tiles ∧ lacks.seq ≠ (s.bay 0).next ∧ later.seq ≠ (s.bay 0).next)
    ∧ (lacks.seq - (s.bay 0).next).toNat < (later.seq - (s.bay 0).next).toNat ∧ lacks.taken ≠ lacks.beats.toNat := by decide +kernel

/-- Both wings hold chain 1 and the first course is allocated; bay 0 holds one tile. -/
def chained (t : Tile) : State := withTile (images1 { run0 with alloc := [0, 1, 2, 3, 4, 5, 6, 7] }) t

/-- A tile of one beat, accepted with the words given. -/
def accepted (ws : List W64) : Tile := { tile0 with status := .accepted, words := ws, granted := 1 }

theorem witness_TileAcceptance :
    let odd : Tile := { tile0 with beats := 4097 }
    (∀ t, (chained t).pwr.phase = .run ∧ (chained t).poison = [] ∧ (chained t).gn.state ≠ 3)
    ∧ (chained tile0).Canonical
    ∧ (((chained tile0).bay 0).tile? (0 : BitVec 6).toNat = some tile0 ∧ tile0.status = .waiting)
    ∧ ({ chained tile0 with spare := { run0.spare with retired := 1 } } : State).isLost 0 = true
    ∧ ((chained tile0).isLost 0 = false ∧ (chained tile0).bayOn 0 = true ∧ (chained tile0).wingReady 0 = true)
    ∧ ({ chained tile0 with img := { (chained tile0).img with eastReady := false } } : State).wingReady 0 = false
    ∧ (((chained odd).bay 0).tile? (0 : BitVec 6).toNat = some odd ∧ odd.status = .waiting ∧ 4096 < odd.beats.toNat)
    ∧ ({ chained tile0 with alloc := [] } : State).checkAccept 0 tile0 = some (6, 0)
    ∧ ((chained tile0).checkAccept 0 tile0 = none ∧ (chained tile0).instances < 1024
      ∧ ((chained tile0).bay 0).adds tile0 ((((chained tile0).wingImage (westBay 0)).find tile0.chain).getD []) = true)
    ∧ (let s := (chained tile0).mapBay 1 fun b => { b with tiles := List.replicate 1024 { tile0 with ctxBase := 4096, status := .accepted } }
       s.checkAccept 0 tile0 = none ∧ 1024 ≤ s.instances)
    ∧ (let u : Tile := { accepted chain1 with argArrived := true }
       ((chained u).bay 0).tile? (0 : BitVec 6).toNat = some u ∧ u.argDone = false ∧ u.bgrp = 0
         ∧ (chained u).argCause 0 u (chainOf u.words) = none) :=
  ⟨fun _ => ⟨rfl, rfl, (by decide : run0.gn.state ≠ 3)⟩, ⟨rfl, rfl, rfl, rfl, rfl, rfl⟩, by decide, by decide, by decide, by decide, by decide,
    by decide +kernel, by decide +kernel, by decide +kernel, by decide +kernel⟩

/-- Chain 2: a MASK stage. -/
def chain2 : List W64 := [BitVec.ofNat 64 (2 + 3 * 2 ^ 30 + 2 ^ 48), 0x01]
/-- Chain 3: an OVFCHK stage. -/
def chain3 : List W64 := [BitVec.ofNat 64 (3 + 3 * 2 ^ 30 + 2 ^ 48), 0x2A]

theorem witness_ArgumentReads :
    let read (ws : List W64) : Tile := { accepted ws with argArrived := true, args := List.replicate 8 1 }
    let source : List W64 := [BitVec.ofNat 64 (2 ^ 36), 0x28]
    let second : List W64 := [BitVec.ofNat 64 (2 ^ 44), 0x28]
    (∀ t, t ∈ [accepted chain1, read chain1, read chain2] → ((withTile run0 t).bay 0).tile? (0 : BitVec 6).toNat = some t)
    ∧ (∀ c, (withTile run0 (accepted chain1)).gated c = false)
    ∧ ((chainOf source).insrc = true ∧ (chainOf second).secen = true ∧ (accepted source).arrived < (accepted source).beats.toNat
      ∧ (accepted second).secondRead < (accepted second).beats.toNat)
    ∧ ((withTile run0 (read chain1)).argCause 0 (read chain1) (chainOf chain1) = none ∧ (read chain1).bgrp = 0
      ∧ (read chain1).argDone = false)
    ∧ ((withTile run0 (accepted source)).bay 0).room (accepted source) 1 = true
    ∧ (withTile run0 (read chain2)).argCause 0 (read chain2) (chainOf chain2) = some (0x0C, 0)
    ∧ ((withTile run0 (read chain2)).checkArgs (read chain2) (chainOf chain2) = some 0x0C) := by
  refine ⟨by decide, fun _ => rfl, by decide, by decide +kernel, by decide, by decide +kernel, by decide +kernel⟩

/-- A lane before its first element. -/
def lane0 : Lane := ⟨RowCtx.zero.initial, RowCtx.zero, 0, 0, false, false, [], [], [], [], [], [], false⟩

theorem witness_TileAdmission :
    let ready (ws : List W64) (shift : BitVec 2) : Tile :=
      { accepted ws with argDone := true, staged := List.replicate 256 RowCtx.zero, lastSeen := true, ovf := true, shift := shift }
    let gating (t : Tile) : State := { withTile run0 t with gn := { run0.gn with state := 3, gate := BitVec.ofNat 64 (2 ^ 24 + 0xFFF000) } }
    (∀ shift, ((withTile run0 (ready chain1 shift)).bay 0).nextTile? = some (ready chain1 shift)
      ∧ ((withTile run0 (ready chain3 shift)).bay 0).nextTile? = some (ready chain3 shift) ∧ (ready chain3 shift).shift = shift)
    ∧ (let s := withTile run0 (ready chain1 0)
       s.pwr.phase = .run ∧ s.gn.state ≠ 3 ∧ (s.bay 0).held = none ∧ (s.bay 0).act = none ∧ s.bayOn 0 = true ∧ s.gated 1 = false)
    ∧ ((chainOf chain1).has opOVFCHK = false ∧ (chainOf chain3).has opOVFCHK = true)
    ∧ (accepted chain1).argDone = false
    ∧ ((gating (accepted chain1)).gn.state = 3 ∧ (gating (accepted chain1)).gated 1 = true)
    ∧ (let h : HeldOp := ⟨0, 1, 0, false, none, [], [], [], true, accepted chain1⟩
       let u : Tile := { ready chain1 0 with staged := [RowCtx.zero] }
       let s := withTile run0 u
       u.carries h = true ∧ u.carries { h with carry := false } = false
         ∧ ((s.mapBay 0 fun b => { b with held := some h, lanes := [lane0] }).bay 0).held = some h
         ∧ ((s.mapBay 0 fun b => { b with resume := some (h, [lane0]) }).bay 0).resume = some (h, [lane0])
         ∧ u.staged[0]? = some RowCtx.zero ∧ [lane0][0]? = some lane0)
    ∧ (let u : Tile := { ready [BitVec.ofNat 64 (1 + 2 ^ 12), BitVec.ofNat 64 (0x01 + 2 ^ 26), BitVec.ofNat 64 (0x14 + 2 ^ 28 + 2 ^ 29)] 0 with
         args := [0, 0x200], view := [(1, 1), (4, 1), (41, 1)] }
       let s (p : List Nat) : State := { withTile run0 u with poison := p }
       0x200 ∈ u.segCourses (chainOf u.words) ∧ u.staged ≠ [] ∧ ((s []).bay 0).nextTile? = some u
         ∧ (s [0x203]).poison = [0x203] ∧ ((s [0x203]).bay 0).held = none) :=
  ⟨fun _ => ⟨rfl, rfl, rfl⟩, by decide +kernel, by decide, rfl, by decide, by decide +kernel, by decide +kernel⟩

theorem witness_IssueGroups :
    let a : Active := ⟨0, 0, 0, 0, 0, 0, false⟩
    let t : Tile := { accepted chain1 with status := .admitted }
    let u : Tile := { t with data := [0] }
    let past : State := withTile run0 t |>.mapBay 0 fun b => { b with act := some { a with group := 1 } }
    (past.bay 0).activeTile = some ({ a with group := 1 }, t)
    ∧ ((t.beats.toNat + (chainOf chain1).group - 1) / (chainOf chain1).group ≤ 1 ∧ (chainOf chain1).oneTile = false)
    ∧ ((running run0 t).bay 0).activeTile = some (a, t) ∧ t.data.length < min ((a.group + 1) * (chainOf chain1).group) t.beats.toNat
    ∧ (((running run0 u).bay 0).activeTile = some (a, u) ∧ ¬ (u.data.length < min ((a.group + 1) * (chainOf chain1).group) u.beats.toNat)
      ∧ (chainOf chain1).secen = false ∧ ((running run0 u).bay 0).soq.length < 32 ∧ ¬ (u.beats.toNat + (chainOf chain1).group - 1) / (chainOf chain1).group ≤ a.group) := by
  decide +kernel

/-- The operation in the lanes of bay 0, of a tile of two beats of a chain with the header fields and the stages given, whose first
beat has come: its rows begin with the FP32 elements 1.0, -Inf and a signalling NaN. -/
def oneBeat (infmt out : Nat) (ws : List Nat) : State :=
  let words := BitVec.ofNat 64 (1 + 2 ^ 12 * (ws.length - 1) + 3 * 2 ^ 30 + infmt * 2 ^ 32 + out * 2 ^ 48) :: ws.map (BitVec.ofNat 64)
  let t : Tile := { accepted words with
    status := .admitted, beats := 2, data := [BitVec.ofNat _ (0x3F800000 + 2 ^ 32 * 0xFF800000 + 2 ^ 64 * 0x7F800001)]
    args := [0x3F800000, 0x40000000] }
  (running run0 t).mapBay 0 fun b => { b with
    held := some ⟨0, 1, 0, false, none, [], [], [], true, t⟩, lanes := [lane0, lane0, lane0] }

theorem witness_IssueGroups_values :
    let form (s : State) (k out : Nat) : Bool := match (s.bay 0).activeTile with
      | some (a, u) =>
        let c := chainOf u.words
        c.passes == 1 && c.group == 1 && !c.secen && !c.oneTile && !c.staged && a.pass == 0
          && decide (a.group + 1 < u.beats.toNat) && decide (1 ≤ u.data.length) && c.stages.length == k && c.out == out
      | none => false
    let rounds (w : Nat) : Bool := stOp w == opROUND && stPass w == 0 && stIn w == 0 && stDst w == 0 && stScale w == 0
      && decide (stRnd w < 5) && decide (stSfmt w < 0xC)
    let bonded (elem : W32) : State := (oneBeat 0 0 [0x10]).mapBay 0 fun b => { b with
      tiles := b.tiles.map fun t => { t with bgrp := 1, elem0 := elem } }
    let chunkEnds (s : State) : Bool := match (s.bay 0).activeTile with
      | some (a, u) => u.bgrp != 0 && (u.elem0.toNat + a.group + 1) % (s.group u.bgrp.toNat).chunkSize == 0
      | none => false
    (form (oneBeat 0 1 [0x28]) 1 1 = true ∧ rounds 0x28 = true ∧ rounds (0x28 + 2 ^ 15) = true ∧ stRnd (0x28 + 2 ^ 15) = 4 ∧ form (oneBeat 0 1 [0x18, 0x28]) 2 1 = true)
    ∧ (form (oneBeat 0 1 [0x08 + 2 ^ 20, 0x28]) 2 1 = true ∧ stOp (0x08 + 2 ^ 20) = opSCALE ∧ stArgi (0x08 + 2 ^ 20) = 1)
    ∧ (form (oneBeat 0 0 [0x11 + 3 * 2 ^ 24]) 1 0 = true ∧ form (oneBeat 0 0 [0x10]) 1 0 = true)
    ∧ ((oneBeat 0 0 [0x10]).bay 0).held.isSome = true ∧ ((oneBeat 0 0 [0x10]).bay 0).lanes ≠ []
    ∧ (∀ l ∈ ((oneBeat 0 0 [0x10]).bay 0).lanes, l.elems = [])
    ∧ (form (oneBeat 0 2 [0x28]) 1 2 = true ∧ (oneBeat 0 2 [0x28]).mpq.length = 4)
    ∧ (form (bonded 127) 1 0 = true ∧ chunkEnds (bonded 127) = true ∧ form (bonded 126) 1 0 = true ∧ chunkEnds (bonded 126) = false) := by
  decide +kernel

/-- No aperture is set, so every row of the output stands in memory. -/
theorem witness_IssueGroups_memory (a : Nat) : (oneBeat 0 2 [0x28]).aperture a = none := rfl

/-- ROUND to FP32 keeps 1.0 and -Inf, makes the NaN canonical, and SHIFT 0 leaves the values (R39, R45, R53). -/
theorem test_round_beat :
    (match exec (.issueGroup 0) (oneBeat 0 1 [0x28]) with
      | .next t => (t.bay 0).egress.map (fun i => i.data.toNat)
          == [0x3F800000 + 2 ^ 32 * 0xFF800000 + 2 ^ 64 * 0x7FC00000]
      | _ => false) = true := by decide +kernel

/-- PIVOT of 1.0 is 1, and neither -Inf nor a NaN has one; EXTREMA keep -Inf as the least (R43, R116, R117). -/
theorem test_registers_beat :
    (match exec (.issueGroup 0) (oneBeat 0 0 [0x10]), exec (.issueGroup 0) (oneBeat 0 0 [0x11 + 3 * 2 ^ 24]) with
      | .next t, .next u => (t.bay 0).lanes.map (fun l => (l.ctx.pivot, l.ctx.nanSeen, l.ctx.infSeen))
            == [(1, false, false), (0x800000, false, true), (0x800000, true, false)]
          && (u.bay 0).lanes.map (fun l => (l.ctx.maxv, l.ctx.minv)) == [(0x3F800000, 0x3F800000), (0xFF800000, 0xFF800000), (0x7FC00000, 0x7FC00000)]
      | _, _ => false) = true := by decide +kernel

theorem witness_MortarRuns :
    let s := inFlight (rd 0)
    let mine (r : MRun) := s.mortarUnit r.total = (0 : Fin 16).val ∧ r.source ≤ 32
    run0.Canonical ∧ s.Canonical ∧ (∀ r ∈ run0.runs, ¬ mine r) ∧ ∃ r ∈ s.runs, mine r :=
  ⟨canonical_run0, ⟨rfl, rfl, rfl, rfl, rfl, rfl⟩, nofun, by decide⟩

theorem witness_TileRetirement :
    let a : Active := ⟨0, 0, 0, 1, 0, 0, false⟩
    let t (st : TileStatus) : Tile := { accepted chain1 with status := st, lastSeen := true }
    let s (st : TileStatus) : State := withTile run0 (t st) |>.mapBay 0 fun b => { b with act := some a }
    (∀ st, ((s st).bay 0).nextTile? = some (t st) ∧ (s st).pwr.phase = .run ∧ (t st).status = st ∧ ((s st).bay 0).act = some a)
    ∧ a.done (t .admitted) (chainOf chain1) = true
    ∧ (((s .admitted).bay 0).stalled = [] ∧ (s .admitted).writes = [] ∧ (s .admitted).runs = [])
    ∧ ((t (.refused 6 none)).lastSeen = true ∧ (accepted chain1).lastSeen = false
      ∧ (withTile run0 (accepted chain1)).isLost 0 = false ∧ ((withTile run0 (accepted chain1)).tileChain 0 (accepted chain1)).insrc = false
      ∧ ({ withTile run0 (accepted chain1) with spare := { run0.spare with retired := 1 } } : State).isLost 0 = true)
    ∧ ((running run0 (t .admitted)).bay 0).nextTile? = some (t .admitted)
    ∧ (⟨0, 0, 0, 0, 0, 0, false⟩ : Active).done (t .admitted) (chainOf chain1) = false ∧ run0.gn.state ≠ 3 ∧ run0.poison = [] :=
  ⟨fun _ => ⟨rfl, rfl, rfl, rfl⟩, by decide, by decide, by decide, by decide, by decide, by decide, rfl⟩

theorem witness_ContextWriteBack :
    let t : Tile := accepted chain1
    let h (carry : Bool) (bgrp : BitVec 8) : HeldOp := ⟨0, 1, bgrp, false, none, [], [], [], carry, t⟩
    let s (carry : Bool) (bgrp : BitVec 8) (ts : List Tile) : State := run0.mapBay 0 fun b => { b with held := some (h carry bgrp), tiles := ts }
    (∀ carry bgrp ts, ((s carry bgrp ts).bay 0).held = some (h carry bgrp) ∧ ((s carry bgrp ts).bay 0).act = none
      ∧ (s carry bgrp ts).pwr.phase = .run ∧ (s carry bgrp ts).Canonical ∧ (h carry bgrp).segCtx = none
      ∧ (chainOf (h carry bgrp).tile.words).segctx = none)
    ∧ (((s true 0 [t]).bay 0).nextTile? = some t ∧ t.status = .accepted ∧ t.mayCarry (h true 0) = true)
    ∧ ((s true 1 []).bay 0).nextTile? = none
    ∧ (chainOf [1, BitVec.ofNat 64 (0x14 + 2 ^ 28)]).segctx.isSome = true
    ∧ [lane0][0]? = some lane0 :=
  ⟨fun _ _ _ => ⟨rfl, rfl, rfl, ⟨rfl, rfl, rfl, rfl, rfl, rfl⟩, rfl, (by decide : (chainOf chain1).segctx = none)⟩, by decide, by decide, by decide, rfl⟩

theorem witness_EgressAndWrites :
    let w : MemWrite := ⟨.spill 0, [(8, 0xFF, 1), (9, 0x0F, 2)]⟩
    let s : State := { run0 with mpq := [[w], [], [], []] }
    s.pwr.stopped = false ∧ s.testing = false ∧ s.bayOn 0 = true ∧ s.isLost 0 = false
    ∧ (powered fun p => { p with domains := 0 }).bayOn 0 = false ∧ s.mpq.getD (3 : Fin 4).val [] = [] ∧ s.mpq.getD (0 : Fin 4).val [] = w :: [] ∧ s.Canonical
    ∧ (w.cells.map Prod.fst).Nodup
    ∧ (let full : State := { run0 with mpq := List.replicate 4 (w :: List.replicate 63 w), mpWait := [(2, w)] }
       full.mpWait = (2, w) :: [] ∧ full.mpq.length = 4 ∧ (∀ p, p < 4 → (full.mpq.getD p []).length = 64)
         ∧ full.mpq.getD (1 : Fin 4).val [] = w :: List.replicate 63 w) :=
  ⟨rfl, rfl, by decide, by decide, by decide, rfl, rfl, ⟨rfl, rfl, rfl, rfl, rfl, rfl⟩, by decide, by decide +kernel⟩

/-- Two level-0 siblings of context 0 in group 1, whose rows have `n` chunks. -/
def siblings (n : BitVec 25) : State := { run0 with store := [node 0, node 1], groups := [(1, { armed1 with n := n })] }

theorem witness_BondTreeMerges :
    let root (n : BitVec 25) : Nat :=
      let k := (((siblings n).group (1 : BitVec 8).toNat).span (0 : BitVec 18).toNat).2
      if k ≤ 1 then 0 else Nat.log2 (k - 1) + 1
    let child (j : Nat) (e : BondEntry) : Bool := e.isNode 1 0 ((1 : BitVec 5).toNat - 1) (2 * (0 : BitVec 24).toNat + j)
    let full : State := { siblings 4 with store := node 0 :: node 1 :: List.replicate 131072 (node 2) }
    (∀ n, (siblings n).store.find? (child 0) = some (node 0) ∧ (siblings n).store.find? (child 1) = some (node 1))
    ∧ (full.store.find? (child 0) = some (node 0) ∧ full.store.find? (child 1) = some (node 1))
    ∧ (siblings 4).Canonical ∧ ((1 : BitVec 5).toNat < root 4 ∧ ((0 : BitVec 24).toNat + 1) * 2 ^ (1 : BitVec 5).toNat < 4)
    ∧ ((1 : BitVec 5).toNat = root 2 ∧ ((siblings 2).group (1 : BitVec 8).toNat).send = false ∧ (siblings 2).Canonical)
    ∧ ((siblings 2).pwr.phase.draining = false ∧ (Phase.drain .warm).draining = true)
    ∧ (let up (k : Nat) : Nat := (1 : BitVec 24).toNat / 2 ^ (k - 1)
       let lone (n k : Nat) : Prop := up k % 2 = 0 ∧ n ≤ (up k + 1) * 2 ^ k
       (root 6 = 3 ∧ ¬ lone 6 1 ∧ root 5 = 3) ∧ (¬ lone 8 1 ∧ root 8 = 3))
    ∧ (let u (k : Nat) : Nat := (2 : BitVec 24).toNat / 2 ^ (k - 1)
       u 1 % 2 = 0 ∧ 6 ≤ (u 1 + 1) * 2 ^ 1 ∧ ¬ (u 2 % 2 = 0 ∧ 6 ≤ (u 2 + 1) * 2 ^ 2))
    ∧ ({ siblings 2 with groups := [(1, { armed1 with n := 2, send := true })] } : State).group 1 = { armed1 with n := 2, send := true } :=
  ⟨fun _ => ⟨rfl, rfl⟩, ⟨rfl, rfl⟩, ⟨rfl, rfl, rfl, rfl, rfl, rfl⟩, by decide, ⟨by decide, rfl, ⟨rfl, rfl, rfl, rfl, rfl, rfl⟩⟩,
    by decide, by decide, by decide, rfl⟩

theorem witness_SpillAndTopk :
    let size : Ctl := { run0.ctl with spillSize := 1 }
    let here (e : BondEntry) := e.isNode 1 0 (0 : BitVec 5).toNat (3 : BitVec 24).toNat
    let full (n : Nat) : State := { run0 with ctl := size, store := List.replicate (n + 1) (node 3) }
    let out (arrived : Bool) : State := { run0 with store := [node 2], spilled := [⟨node 3, 0, true, arrived⟩] }
    let recs : State := { run0 with topks := [⟨1, 0, 1, 1, 0, [], 0, 0, 0⟩], groups := [(1, { armed1 with done := true })] }
    (run0.coresRun = true ∧ run0.pwr.phase.draining = false)
    ∧ (∀ n, (full n).coresRun = true ∧ (full n).store.find? here = some (node 3)
      ∧ (0 : W32).toNat < (full n).ctl.spillSize.toNat ∧ (∀ x ∈ (full n).spilled, x.slot ≠ 0) ∧ (full n).store.length = n + 1)
    ∧ (∀ arrived, (out arrived).coresRun = true
      ∧ ((out arrived).spilled.find? fun y => here y.entry) = some ⟨node 3, 0, true, arrived⟩
      ∧ ∃ e ∈ (out arrived).store, e.isNode 1 0 (0 : BitVec 5).toNat ((3 : BitVec 24).toNat - 1) = true)
    ∧ (recs.coresRun = true ∧ (recs.topks.filter fun r => r.bgrp == 1 && r.ctx == 0) = ⟨1, 0, 1, 1, 0, [], 0, 0, 0⟩ :: []
      ∧ recs.rowComplete (1 : BitVec 8).toNat (0 : BitVec 18).toNat = true
      ∧ (⟨1, 0, 1, 1, 0, [], 0, 0, 1⟩ : TopkRec).past ≠ 0 ∧ recs.writes = []) :=
  have cores : run0.coresRun = true := by decide +kernel
  ⟨⟨cores, rfl⟩, fun n => ⟨cores, rfl, (by decide : (0 : W32).toNat < (1 : W32).toNat), nofun, List.length_replicate⟩,
    fun _ => ⟨cores, rfl, node 2, List.mem_singleton.mpr rfl, rfl⟩, by decide +kernel⟩

theorem witness_DroopCounters :
    let s (d : BitVec 38) (w : Nat) : State := powered (fun p => { p with domains := d }) |>.mapBay 0 fun b => { b with window := w }
    ((s 0 0).bays.length = 32 ∧ (s 0 0).bayOn 0 = false) ∧ ((s 1 1024).bays.length = 32 ∧ (s 1 1024).bayOn 0 = true ∧ ((s 1 1024).bay 0).window ≤ 1024)
    ∧ ((s 1 4).ctl.allow.toNat = 4 ∧ ((s 1 4).bay 0).window = 4)
    ∧ (run0.pwr.phase ≠ .committed ∧ (powered fun p => { p with phase := .committed, stopped := true }).pwr.phase = .committed) := by
  decide +kernel

theorem witness_InterruptSources :
    let at_ (a : W32) (r : Reg) : Prop := Writes (wr a 0) r ∧ (own (wr a 0)).Serves .a (wr a 0)
    (at_ 0x3000 .nanStatus ∧ at_ 0x1000 .semOwner ∧ at_ 0x4000 .imgStatus ∧ at_ 0x8028 .wakeStatus ∧ at_ 0xC040 .routeStatus)
    ∧ (at_ 0xC060 .stxStatus ∧ at_ 0xC098 .gnStatus ∧ at_ 0xC0E8 .xpFoldStatus ∧ at_ 0x80018 .spareStatus ∧ at_ 0xE1F8 (.hodDroop 31))
    ∧ (WritesAt (wr 0x2010 0x101) 0x2010 ∧ (wr 0x2010 0x101).data.toNat % 256 = (pop 0x101).log.ring.length)
    ∧ run0.route.busy = false ∧ run0.stx.busy = false := by
  have mk (a : W32) (r : Reg) (h0 : a.toNat % 8 = 0) (h : regOf a.toNat = some r) :
      Writes (wr a 0) r ∧ (own (wr a 0)).Serves .a (wr a 0) := ⟨⟨rfl, h0, h⟩, serves_own _⟩
  exact ⟨⟨mk _ _ (by decide) (by decide), mk _ _ (by decide) (by decide), mk _ _ (by decide) (by decide), mk _ _ (by decide) (by decide),
    mk _ _ (by decide) (by decide)⟩, ⟨mk _ _ (by decide) (by decide), mk _ _ (by decide) (by decide), mk _ _ (by decide) (by decide),
    mk _ _ (by decide) (by decide), mk _ _ (by decide) (by decide)⟩, ⟨⟨rfl, rfl⟩, by decide⟩, rfl, rfl⟩

theorem witness_ColumnTermsCommute :
    let x : Total := { Total.zero with mode := 1, t := 0x7FC00000, nan := true }
    (x.mode ≠ 3 ∧ x.mode ≠ 0 ∧ Total.zero.mode ≠ 3) ∧ [0x3F800000#32, 0x40000000#32].Perm [0x40000000#32, 0x3F800000#32]
    ∧ [0x3F800000#32, 0x40000000#32].length ≤ 2 ^ 40 :=
  ⟨by decide, List.Perm.swap _ _ _, by decide⟩

theorem witness_BondEntryRoundTrip :
    (Memory.wf run0.mem = true ∧ (0x3F800000 : Nat) < 2 ^ fmtWidth 0 ∧ (decode 0 0x3F800000).isNan = false
      ∧ (decode 0 0x3F800000).isInf = false ∧ (decode 0 0x7F800001).isNan = true)
    ∧ (2 ^ 27 + 2 ^ 28 < 2 ^ fmtWidth 0xC ∧ (2 ^ 27 + 2 ^ 28) / 2 ^ 27 % 2 = 1 ∧ (decode 0xC (2 ^ 27 + 2 ^ 28)).isNan = false) := by
  decide +kernel

end Sys2Proof.Tests
end

/-! ### The invariant along a step (R5, R13, R25, R28, R256, R257, R268, R272, R357)

Each command's meaning is read once: what it answers, and that the next state has the invariant. The statements on
well-formed commands and on the invariant both follow from that one reading. -/

namespace Sys2Proof.Machine

variable {s t : State} {ok : Prop}

/-- An outcome from `s`: the next state has the invariant when `s` has it; a fault comes only where `ok` fails; nothing is
refused. -/
def Answers (ok : Prop) (s : State) : Host.Outcome State Fault Refusal → Prop
  | .next t => s.Inv → t.Inv
  | .fault _ => ¬ ok
  | .refused _ => False

theorem Answers.refl : Answers ok s (.next s) := id

/-- A command that first moves from `s` to `u`. -/
theorem Answers.after {o : Host.Outcome State Fault Refusal} (j : s.Inv → t.Inv) (h : Answers ok t o) : Answers ok s o := by
  cases o with
  | next u => exact h ∘ j
  | fault _ => exact h
  | refused _ => exact h

theorem Answers.keeps (h : Keeps True s t) : Answers ok s (.next t) := h.inv

theorem Keeps.inv_awake (h : Keeps False s t) (a : s.Awake) (i : s.Inv) : t.Inv :=
  ⟨h.bays i.bays, h.ports i.ports, h.cores i.cores, ⟨h.reqA.trans i.lathA.1, h.rspA.trans i.lathA.2⟩,
    ⟨h.reqB.trans i.lathB.1, h.rspB.trans i.lathB.2⟩, h.queue i.queue, h.ring i.ring, h.canonical i.canonical,
    h.level i.level, (h.awake a).1.trans (h.awake a).2.symm⟩

theorem State.Inv.awake (i : s.Inv) (h : s.pwr.stopped = false) : s.Awake := ⟨h, i.stopped.symm.trans h⟩

theorem State.Inv.awake_of_phase (i : s.Inv) (h : s.pwr.phase.isStopped = false) : s.Awake := ⟨i.stopped.trans h, h⟩

theorem State.Inv.awake_of_run (i : s.Inv) (h : s.pwr.phase = .run) : s.Awake := i.awake_of_phase (by rw [h]; rfl)

/-- In Run, where STOPPED is 0, an operation may also move to a drain or into a Stop entry. -/
theorem Answers.run (h : s.pwr.phase = .run) (k : Keeps False s t) : Answers ok s (.next t) :=
  fun i => k.inv_awake (i.awake_of_run h) i

/-- The same wherever STOPPED is 0. -/
theorem Answers.awake (h : s.pwr.stopped = false) (k : Keeps False s t) : Answers ok s (.next t) :=
  fun i => k.inv_awake (i.awake h) i

theorem State.Inv.setPwr (i : s.Inv) (x : Pwr) (h : x.stopped = x.phase.isStopped) : ({ s with pwr := x } : State).Inv :=
  ⟨i.bays, i.ports, i.cores, i.lathA, i.lathB, i.queue, i.ring,
    ⟨i.canonical.mem, i.canonical.nvm, i.canonical.ctxs, i.canonical.tags, i.canonical.totals, i.canonical.groups⟩, i.level, h⟩

theorem State.Inv.setLath (i : s.Inv) (p : Port) {x : LathPort} (h : x.fits) : (s.setLath p x).Inv := by
  have c : ∀ y z, State.Canonical { s with lathA := y, lathB := z } := fun _ _ =>
    ⟨i.canonical.mem, i.canonical.nvm, i.canonical.ctxs, i.canonical.tags, i.canonical.totals, i.canonical.groups⟩
  cases p
  · exact ⟨i.bays, i.ports, i.cores, h, i.lathB, i.queue, i.ring, c _ _, i.level, i.stopped⟩
  · exact ⟨i.bays, i.ports, i.cores, i.lathA, h, i.queue, i.ring, c _ _, i.level, i.stopped⟩

theorem State.Inv.lath (i : s.Inv) (p : Port) : (s.lath p).fits := by
  cases p
  · exact i.lathA
  · exact i.lathB

theorem Keeps.rsps {pw : Prop} (h : Keeps pw s t) (p : Port) : (t.lath p).rsps.length ≤ (s.lath p).rsps.length := by
  cases p
  · exact h.rspA
  · exact h.rspB

theorem Keeps.setMem {pw : Prop} (m : List Host.Cell) (h : Memory.wf s.mem = true → Memory.wf m = true) :
    Keeps pw s { s with mem := m } :=
  ⟨id, id, id, le_rfl, le_rfl, le_rfl, le_rfl, id, id, fun c => ⟨h c.1, c.2, c.3, c.4, c.5, c.6⟩, id, fun _ => id, id⟩

/-! ### The ports and the TAP -/

/-- Register accesses execute only where STOPPED is 0 (R313, R315, R323). -/
theorem Phase.isStopped_of_lathOpen {x : Phase} (h : x.lathOpen = true) : x.isStopped = false := by
  revert h
  cases x <;> simp [Phase.lathOpen, Phase.isStopped]

theorem State.tapTurn_inv (i : s.Inv) : s.tapTurn.Inv := by
  unfold State.tapTurn
  split
  · exact i
  · refine List.foldlRecOn (motive := State.Inv) _ _ ((Keeps.same : Keeps True s _).inv i) fun u j x _ => ?_
    split
    · rename_i opened
      exact (State.tapAccess_keeps u x).inv_awake (j.awake_of_phase (Phase.isStopped_of_lathOpen opened)) j
    · exact j

theorem State.popped_keeps {pw : Prop} (s : State) (p : Port) : Keeps pw s (s.popped p) := by
  unfold State.popped
  refine Keeps.trans (t := { s with tieB := if s.tie then p == .a else s.tieB }) Keeps.same
    (State.setLath_keeps _ _ _ ?_ ?_)
  · cases p <;> simp [State.lath]
  · cases p <;> exact le_rfl

theorem State.respond_inv (i : s.Inv) (p : Port) (q : LathReq) (code data : Nat) (room : (s.lath p).rsps.length < 8) :
    (s.respond p q code data).Inv :=
  i.setLath p ⟨(i.lath p).1, by simpa using room⟩

/-- A request that is ready executes, and its response has room (R257). -/
theorem State.runRequest_inv (i : s.Inv) (p : Port) (q : LathReq) (env : StartEnv) (h : s.ready p = true) :
    (s.runRequest p q env).Inv := by
  simp only [State.ready, Bool.and_eq_true, Bool.not_eq_true', decide_eq_true_eq] at h
  obtain ⟨⟨⟨-, awake⟩, -⟩, room⟩ := h
  have k : Keeps False s ((s.popped p).access (.port p) q.write q.addr q.gen q.data env).s :=
    (State.popped_keeps s p).trans (State.access_keeps ..)
  exact State.respond_inv (k.inv_awake (i.awake awake) i) _ _ _ _ ((k.rsps p).trans_lt room)

theorem State.ready_of_headFor {p : Port} {row : LathReq → Bool} {q : LathReq} (h : s.headFor p row = some q) :
    s.ready p = true := by
  unfold State.headFor at h
  split at h
  · exact absurd h (by simp)
  · split at h
    · rename_i hr
      simp only [Bool.and_eq_true] at hr
      exact hr.1.1
    · exact absurd h (by simp)

/-- Every row that executes a Lath request. -/
theorem State.lathRow_answers (p : Port) (row : LathReq → Bool) (env : StartEnv) : Answers ok s (s.lathRow p row env) := by
  unfold State.lathRow
  split
  · rename_i q h
    exact fun i => State.tapTurn_inv (State.runRequest_inv i p q env (State.ready_of_headFor h))
  · exact .refl

theorem execLathRequestTransfer_answers (p : Port) (q : LathReq) : Answers ok s (execLathRequestTransfer p q s) := by
  unfold execLathRequestTransfer
  extract_lets u x
  split
  · rename_i h
    simp only [Bool.and_eq_true, decide_eq_true_eq] at h
    intro i
    have j : u.Inv := State.tapTurn_inv i
    exact j.setLath p ⟨by simpa using h.2, (j.lath p).2⟩
  · exact State.tapTurn_inv

theorem execLathResponseTransfer_answers (p : Port) : Answers ok s (execLathResponseTransfer p s) := by
  unfold execLathResponseTransfer
  extract_lets u x
  split
  · exact State.tapTurn_inv
  · intro i
    have j : u.Inv := State.tapTurn_inv i
    exact j.setLath p ⟨(j.lath p).1, (by simp : x.rsps.tail.length ≤ x.rsps.length).trans (j.lath p).2⟩

theorem State.portReset_keeps {pw : Prop} (s : State) (p : Port) : Keeps pw s (s.portReset p) := by
  unfold State.portReset
  split
  · exact State.setLath_keeps _ _ _ le_rfl le_rfl
  · refine Keeps.trans ?_ (State.resetScaffold_keeps _)
    refine Keeps.trans ?_ (State.cancelFor_keeps ..)
    refine Keeps.trans ?_ (State.semReset_keeps ..)
    exact Keeps.foldl _ (fun u n => State.loseTiles_keeps u n) _
      (State.setLath_keeps _ _ _ (Nat.zero_le _) (Nat.zero_le _))

theorem execLathPortReset_answers (p : Port) : Answers ok s (execLathPortReset p s) :=
  fun i => State.tapTurn_inv ((State.portReset_keeps s p).inv i)

theorem execLathPortResetRelease_answers (p : Port) : Answers ok s (execLathPortResetRelease p s) :=
  .keeps (State.setLath_keeps _ _ _ le_rfl le_rfl)

theorem execRegacc_answers (a : W32) (w : Bool) (d : W64) (env : StartEnv) : Answers ok s (execRegacc a w d env s) := by
  unfold execRegacc
  split
  · exact fun i => State.tapTurn_inv ((Keeps.same : Keeps True s _).inv i)
  · exact .refl

theorem execErrorLogEntryTransfer_answers : Answers ok s (execErrorLogEntryTransfer s) := by
  unfold execErrorLogEntryTransfer
  split
  · exact .refl
  · rename_i e rest h
    split
    · exact .refl
    · refine .keeps (Keeps.trans (t := { s with log := { s.log with queue := rest } }) ?_ (State.logRing_keeps ..))
      refine ⟨id, id, id, le_rfl, le_rfl, le_rfl, le_rfl, fun x => ?_, id, fun c => ⟨c.1, c.2, c.3, c.4, c.5, c.6⟩, id,
        fun _ => id, id⟩
      rw [h] at x
      exact (Nat.le_succ _).trans x

end Sys2Proof.Machine

/-! ### Tiles, the bond tree, the passes, the round and XP -/

namespace Sys2Proof.Machine

variable {s t : State} {ok pw : Prop}

theorem execMortarRunAdd_answers (u : Fin 16) : Answers ok s (execMortarRunAdd u s) := by
  unfold execMortarRunAdd
  split
  · exact .refl
  · exact .keeps (Keeps.trans Keeps.same (State.setTotal_keeps ..))

theorem State.letIn_keeps (s : State) : Keeps pw s s.letIn := Keeps.same

theorem execBondTreeMerge_answers (g : BitVec 8) (ctx : BitVec 18) (level : BitVec 5) (node : BitVec 24) :
    Answers ok s (execBondTreeMerge g ctx level node s) := by
  unfold execBondTreeMerge
  split
  · exact .refl
  · extract_lets +onlyGivenNames l
    split
    · exact .keeps (Keeps.trans (Keeps.trans Keeps.same (State.letIn_keeps _)) (State.addNode_keeps ..))
    · exact .refl

theorem execBondStoreSpill_answers (row : TreeRow) (level : BitVec 5) (node : BitVec 24) (slot : W32) :
    Answers ok s (execBondStoreSpill row level node slot s) := by
  unfold execBondStoreSpill
  split
  · exact .refl
  · split
    · exact .refl
    · exact .keeps (Keeps.trans Keeps.same (State.memWrite_keeps ..))

theorem execSpillReturn_answers (row : TreeRow) (level : BitVec 5) (node : BitVec 24) :
    Answers ok s (execSpillReturn row level node s) := by
  unfold execSpillReturn
  extract_lets +onlyGivenNames sib
  split
  · exact .refl
  · split
    · exact .keeps Keeps.same
    · exact .refl

theorem execTopkMerge_answers (g : BitVec 8) (ctx : BitVec 18) : Answers ok s (execTopkMerge g ctx s) := by
  unfold execTopkMerge
  dsimp only
  split
  · exact .refl
  · split
    · split
      · exact .refl
      · exact .keeps (Keeps.trans Keeps.same (State.memWrite_keeps ..))
    · exact .refl

theorem execSiHeader_answers (n : Fin 32) (hdr : Beat) : Answers ok s (execSiHeader n hdr s) := by
  unfold execSiHeader
  extract_lets +onlyGivenNames x b
  split
  · exact .refl
  · split
    · exact .keeps ((State.logE_keeps ..).trans (State.mapBay_keeps ..))
    · split
      · exact .keeps (State.logE_keeps ..)
      · exact .keeps (State.mapBay_keeps ..)

theorem execSiReservedKind_answers (n : Fin 32) (tag : BitVec 6) : Answers ok s (execSiReservedKind n tag s) := by
  unfold execSiReservedKind
  split
  · exact .refl
  · exact .keeps (State.logSiproto_keeps ..)

theorem execBeatCreditGrant_answers (n : Fin 32) (tag k : BitVec 6) : Answers ok s (execBeatCreditGrant n tag k s) := by
  unfold execBeatCreditGrant
  split
  · exact .refl
  · split
    · exact .keeps (State.mapBay_keeps ..)
    · exact .refl

theorem execTileAcceptance_answers (n : Fin 32) (slot : BitVec 6) : Answers ok s (execTileAcceptance n slot s) := by
  unfold execTileAcceptance
  split
  · exact .refl
  · split
    · exact .refl
    · split
      · exact .keeps (State.refuse_keeps ..)
      · split
        · exact .refl
        · split
          · exact .keeps ((State.refuse_keeps ..).trans (State.prefetch_keeps ..))
          · extract_lets +onlyGivenNames words
            split
            · exact .refl
            · exact .keeps (State.accept_keeps ..)

theorem execArgumentRead_answers (n : Fin 32) (slot : BitVec 6) : Answers ok s (execArgumentRead n slot s) := by
  unfold execArgumentRead
  split
  · exact .refl
  · split
    · exact .refl
    · extract_lets +onlyGivenNames c
      split
      · exact .keeps ((State.refuse_keeps ..).trans (State.prefetch_keeps ..))
      · extract_lets +onlyGivenNames g u
        refine .keeps (Keeps.trans ?_ (State.mapBay_keeps u ..))
        unfold u
        split
        · exact State.setGroup_keeps ..
        · exact .refl _

theorem execTileAdmission_answers (n : Fin 32) : Answers ok s (execTileAdmission n s) := by
  have skip : Keeps True s (s.skipGated n.val) := State.skipGated_keeps ..
  unfold execTileAdmission
  extract_lets +onlyGivenNames u b
  split
  · exact .keeps skip
  · extract_lets +onlyGivenNames c ready prepared
    split
    · split
      · exact .keeps (skip.trans ((State.eccRefuse_keeps ..).trans (State.prefetch_keeps ..)))
      · split
        · split
          · exact .keeps (skip.trans (State.replayDiscard_keeps ..))
          · exact .keeps (skip.trans ((State.logE_keeps ..).trans (State.admit_keeps ..)))
        · exact .keeps (skip.trans (State.admit_keeps ..))
    · exact .keeps skip

theorem execIssueGroup_answers (n : Fin 32) : Answers ok s (execIssueGroup n s) := by
  unfold execIssueGroup
  split
  · exact .refl
  · extract_lets +onlyGivenNames c hi
    split
    · exact .refl
    · extract_lets +onlyGivenNames u a v
      have h : Keeps True s v :=
        ((State.sample_keeps ..).trans (State.issueGroup_keeps ..)).trans (State.mapBay_keeps ..)
      split
      · exact .keeps (h.trans (State.finishTile_keeps ..))
      · exact .keeps h

theorem execTileRetirement_answers (n : Fin 32) : Answers ok s (execTileRetirement n s) := by
  unfold execTileRetirement
  extract_lets +onlyGivenNames u b
  have skip : Keeps True s u := by
    unfold u
    split
    · exact State.skipGated_keeps ..
    · exact .refl _
  clear_value u
  split
  · exact .keeps skip
  · rename_i x _
    by_cases run : u.pwr.phase ≠ .run
    · rw [if_pos run]
      exact .keeps skip
    · rw [if_neg run]
      cases x.status with
      | waiting => exact .keeps skip
      | accepted => exact .keeps skip
      | admitted =>
        dsimp -zeta only
        split
        · exact .keeps skip
        · split
          · extract_lets +onlyGivenNames v w
            have freed : Keeps True u v := State.mapBay_keeps ..
            refine .keeps (skip.trans (freed.trans (Keeps.trans ?_ (State.advance_keeps w ..))))
            unfold w
            split
            · exact State.pushSo_keeps ..
            · exact .refl _
          · exact .keeps skip
      | refused cause entry =>
        dsimp only
        split
        · exact .keeps (skip.trans (State.retireRefused_keeps ..))
        · exact .keeps skip
      | skipped =>
        dsimp only
        split
        · exact .keeps (skip.trans (State.advance_keeps ..))
        · exact .keeps skip

theorem execContextWriteBack_answers (n : Fin 32) : Answers ok s (execContextWriteBack n s) := by
  unfold execContextWriteBack
  extract_lets +onlyGivenNames b
  split
  · exact .refl
  · extract_lets +onlyGivenNames carried
    split
    · exact .refl
    · exact .keeps (State.endOp_keeps ..)

theorem execSoTransfer_answers (n : Fin 32) : Answers ok s (execSoTransfer n s) := by
  unfold execSoTransfer
  split
  · exact .refl
  · exact .keeps (State.mapBay_keeps ..)

/-- Queues of which one loses its oldest write still fit. -/
theorem portsFit_set {q : List (List MemWrite)} {p : Nat} {w : MemWrite} {rest : List MemWrite}
    (e : q.getD p [] = w :: rest) (h : portsFit q) : portsFit (q.set p rest) := by
  refine ⟨by simpa using h.1, fun x hx => ?_⟩
  rcases List.mem_or_eq_of_mem_set hx with old | rfl
  · exact h.2 x old
  · rw [List.getD_eq_getElem?_getD] at e
    cases g : q[p]? with
    | none => simp [g] at e
    | some y =>
      have fits := h.2 y (List.mem_of_getElem? g)
      rw [g] at e
      rw [show y = w :: x from e] at fits
      exact (Nat.le_succ _).trans fits

theorem execMemoryWriteAck_answers (port : Fin 4) : Answers ok s (execMemoryWriteAck port s) := by
  unfold execMemoryWriteAck
  split
  · exact .refl
  · rename_i w rest e
    split
    · exact .refl
    · refine .keeps (Keeps.trans ?_ (State.admitWrites_keeps _))
      exact ⟨id, portsFit_set e, id, le_rfl, le_rfl, le_rfl, le_rfl, id, id,
        fun c => ⟨memSetMasked_wf _ _ c.1, c.2, c.3, c.4, c.5, c.6⟩, id, fun _ => id, id⟩

theorem execMemoryReadResponse_answers (port : Fin 4) (target : ReadTarget) (data : List (Nat × Byte)) :
    Answers ok s (execMemoryReadResponse port target data s) := by
  have read : Keeps True s { s with mem := memSetMany s.mem data } := Keeps.setMem _ (memSetMany_wf _ _)
  unfold execMemoryReadResponse
  split
  · exact .refl
  · extract_lets +onlyGivenNames m
    cases target with
    | argSet _ _ =>
      dsimp only
      split
      · exact .refl
      · split
        · exact .keeps (read.trans (State.mapBay_keeps ..))
        · exact .refl
    | inputBeat _ _ =>
      dsimp only
      split
      · exact .refl
      · split
        · exact .keeps (read.trans (State.mapBay_keeps ..))
        · exact .refl
    | second _ _ =>
      dsimp only
      split
      · exact .refl
      · split
        · exact .keeps (read.trans (State.mapBay_keeps ..))
        · exact .refl
    | spill _ _ _ _ =>
      dsimp only
      split
      · exact .refl
      · split
        · exact .keeps (read.trans Keeps.same)
        · exact .refl

theorem execDroopStretch_answers (n : Fin 32) : Answers ok s (execDroopStretch n s) := by
  unfold execDroopStretch
  split
  · exact .keeps (State.mapBay_keeps ..)
  · exact .refl

theorem execLateriskWindow_answers (n : Fin 32) : Answers ok s (execLateriskWindow n s) := by
  unfold execLateriskWindow
  split
  · extract_lets +onlyGivenNames w late u
    refine .keeps (Keeps.trans ?_ (State.mapBay_keeps u ..))
    unfold u
    split
    · exact State.logE_keeps ..
    · exact .refl _
  · exact .refl

theorem landAll_wf (ws : List MemWrite) : ∀ {m : List Host.Cell}, Memory.wf m = true → Memory.wf (landAll m ws) = true := by
  induction ws with
  | nil => exact id
  | cons w ws ih => exact fun h => ih (memSetMasked_wf _ _ h)

theorem execRoutingPassDone_answers : Answers ok s (execRoutingPassDone s) := by
  unfold execRoutingPassDone
  split
  · extract_lets +onlyGivenNames x r bad u v
    have logged : Keeps True s u := by
      unfold u
      cases bad
      · exact .refl _
      · exact State.logE_keeps ..
    have landed : Keeps True u v := by
      unfold v
      split
      · exact State.landWrites_keeps ..
      · exact Keeps.setMem _ (landAll_wf _)
    exact .keeps ((logged.trans landed).trans Keeps.same)
  · exact .refl

theorem execStxPassDone_answers : Answers ok s (execStxPassDone s) := by
  unfold execStxPassDone
  split
  · extract_lets +onlyGivenNames w dst items ends
    split
    · exact .keeps (Keeps.foldl _ (fun u i => State.setCtx_keeps u _ _) _ Keeps.same)
    · split
      · exact .keeps ((State.landWrites_keeps s (.pass true) fun _ => true).trans Keeps.same)
      · exact .keeps ((Keeps.setMem _ (landAll_wf s.stxWrites)).trans Keeps.same)
  · exact .refl

theorem State.dropFrame_keeps (s : State) (f : XpFrame) (cause : Nat) : Keeps pw s (s.dropFrame f cause) :=
  (State.logE_keeps ..).trans Keeps.same

theorem State.xpTraps_keeps (s : State) (ws : List W32) : Keeps pw s (s.xpTraps ws) := by
  unfold State.xpTraps
  dsimp only
  split
  · exact .refl _
  · exact Keeps.same

theorem execXpStoreFrame_answers (f : XpFrame) : Answers ok s (execXpStoreFrame f s) := by
  unfold execXpStoreFrame
  split
  · exact .refl
  · split
    · exact .keeps (State.dropFrame_keeps ..)
    · exact .keeps ((State.xpTraps_keeps ..).trans (State.memWrite_keeps ..))

theorem execXpFoldFrame_answers (f : XpFrame) : Answers ok s (execXpFoldFrame f s) := by
  unfold execXpFoldFrame
  extract_lets +onlyGivenNames first
  split
  · exact .refl
  · split
    · exact .keeps (State.dropFrame_keeps ..)
    · split
      · exact .keeps (State.dropFrame_keeps ..)
      · exact .keeps ((State.xpTraps_keeps ..).trans Keeps.same)

theorem State.takeLeaf_keeps (s : State) (e : BondEntry) : Keeps pw s (s.takeLeaf e) := by
  unfold State.takeLeaf
  extract_lets +onlyGivenNames gi g l lo hi row
  split
  · exact .refl _
  · split
    · exact (State.logE_keeps ..).trans Keeps.same
    · exact (State.setGroup_keeps ..).trans (State.addNode_keeps ..)

theorem execXpLeafFrame_answers (f : XpFrame) : Answers ok s (execXpLeafFrame f s) := by
  unfold execXpLeafFrame
  split
  · exact .refl
  · split
    · exact .keeps (State.dropFrame_keeps ..)
    · extract_lets +onlyGivenNames es
      split
      · exact .keeps (State.dropFrame_keeps ..)
      · exact .keeps (Keeps.foldl _ State.takeLeaf_keeps _ (.refl s))

theorem execXpFrameInvalid_answers (f : XpFrame) (complete : Bool) : Answers ok s (execXpFrameInvalid f complete s) := by
  unfold execXpFrameInvalid
  split
  · exact .refl
  · exact .keeps (State.dropFrame_keeps ..)

theorem State.gnDecide_keeps (s : State) (words : List W32) : Keeps pw s (s.gnDecide words) := by
  unfold State.gnDecide
  extract_lets +onlyGivenNames v x votes shards clip dst s1 s2 gn s3
  have h1 : Keeps pw s s1 := by
    unfold s1
    split
    · exact State.logE_keeps ..
    · exact .refl _
  have h2 : Keeps pw s1 s2 := by
    unfold s2
    split
    · exact State.logE_keeps ..
    · exact .refl _
  have h3 : Keeps pw s2 s3 := by
    refine Keeps.trans (Keeps.setMem (if dst = 0 then s2.mem else memSetMany s2.mem (leBytes dst clip.toNat 8))
      fun h => ?_) Keeps.same
    split
    · exact h
    · exact memSetMany_wf _ _ h
  refine (h1.trans (h2.trans h3)).trans ?_
  split
  · exact Keeps.same
  · exact State.gnSkip_keeps _

theorem execGnSummedFrame_answers (f : XpFrame) : Answers ok s (execGnSummedFrame f s) := by
  unfold execGnSummedFrame
  split
  · exact .refl
  · split
    · exact .keeps (State.dropFrame_keeps ..)
    · split
      · exact .keeps (State.dropFrame_keeps ..)
      · split
        · exact .keeps ((State.logE_keeps ..).trans (State.gnSkip_keeps _))
        · exact .keeps (State.gnDecide_keeps ..)

end Sys2Proof.Machine

/-! ### Spares, starts, power, reset and debug -/

namespace Sys2Proof.Machine

variable {s t : State} {ok pw : Prop}

theorem execSpareMapping_answers (n : Fin 32) : Answers ok s (execSpareMapping n s) := by
  unfold execSpareMapping
  split
  · exact .refl
  · exact .keeps Keeps.same

theorem execBankCopyDone_answers : Answers ok s (execBankCopyDone s) := .keeps Keeps.same

theorem execSpareBayPrepared_answers (west passed : Bool) : Answers ok s (execSpareBayPrepared west passed s) := by
  unfold execSpareBayPrepared
  split
  · exact .refl
  · split
    · exact .refl
    · rename_i running
      have run : s.pwr.phase = .run := not_not.mp fun x => running (.inl x)
      split
      · exact .run run (State.findingRun_keeps ..)
      · split
        · exact .refl
        · exact .keeps (Keeps.trans Keeps.same (State.mapBay_keeps ..))

/-- Patrol runs in Run only (R335). -/
theorem State.patrolOn_run (h : s.patrolOn = true) : s.pwr.phase = .run := by
  simp only [State.patrolOn, Bool.and_eq_true, beq_iff_eq] at h
  exact h.1.1.2

theorem State.patrolsBay_run {p : Nat} (h : s.patrolsBay p = true) : s.pwr.phase = .run :=
  State.patrolOn_run (Bool.and_eq_true .. ▸ h).1

theorem State.patrolsUnit_run {a u : Nat} (h : s.patrolsUnit a u = true) : s.pwr.phase = .run := by
  have on := (Bool.and_eq_true .. ▸ h).2
  split at on
  · exact State.patrolsBay_run on
  · exact State.patrolOn_run on

theorem execPatrolVector_answers (e : PatrolEvt) : Answers (e.wf = true) s (execPatrolVector e s) := by
  unfold execPatrolVector
  cases e with
  | clean a u => exact .keeps (State.coverUnit_keeps ..)
  | bankCorrected h b =>
    dsimp only
    split
    · rename_i outside
      simp only [Answers, PatrolEvt.wf, Bool.and_eq_true, decide_eq_true_eq]
      omega
    · split
      · exact .refl
      · rename_i reads
        refine .run (State.patrolsUnit_run (by simpa using reads)) ?_
        split
        · exact (Keeps.trans Keeps.same (State.findingRun_keeps ..)).trans (State.settleSweep_keeps _)
        · exact Keeps.same
  | finding u source =>
    dsimp only
    split
    · rename_i outside
      intro h
      simp only [PatrolEvt.wf, Bool.and_eq_true] at h
      simp [unitOk, h.1] at outside
    · split
      · exact .refl
      · rename_i running
        exact .run (not_not.mp running) (State.patrolFinding_keeps ..)

theorem execPatrolConfirm_answers (n : Fin 32) (lane : BitVec 9) (row : BitVec 8) (stage : BitVec 4) (element : W32)
    (m : Confirm) :
    Answers ((Instr.patrolConfirm n lane row stage element m).wf = true) s (execPatrolConfirm n lane row stage element m s) := by
  unfold execPatrolConfirm
  extract_lets +onlyGivenNames p
  split
  · rename_i outside
    simp only [Answers, Instr.wf, Bool.and_eq_true, decide_eq_true_eq]
    omega
  · split
    · exact .refl
    · rename_i patrols
      simp only [Bool.or_eq_true, Bool.not_eq_true', not_or, Bool.not_eq_false] at patrols
      have run : s.pwr.phase = .run := State.patrolsBay_run patrols.1.1
      split
      · exact .refl
      · dsimp only
        split
        · exact .keeps Keeps.same
        · have logged : ∀ u : State, Keeps False s u → ∀ a b c d e f g h, Keeps False s (u.logE a b c d e f g h) :=
            fun u k a b c d e f g h => k.trans (State.logE_keeps ..)
          split
          · exact .run run ((logged _ (logged _ Keeps.same ..) ..).trans (State.findingRun_keeps ..))
          · exact .run run ((logged _ Keeps.same ..).trans (State.findingRun_keeps ..))
          · refine .run run ?_
            split
            · exact (logged _ Keeps.same ..).trans (State.setSpare_keeps ..)
            · exact ((logged _ Keeps.same ..).trans (State.setSpare_keeps ..)).trans (State.findingRun_keeps ..)

theorem execSpareMapNvmWrite_answers (written : Bool) : Answers ok s (execSpareMapNvmWrite written s) := by
  unfold execSpareMapNvmWrite
  split
  · exact .keeps (State.writeFinding_keeps ..)
  · exact .refl

theorem execReady_answers : Answers ok s (execReady s) := by
  unfold execReady
  split
  · exact .refl
  · split
    · rename_i due
      exact .run due.2.2.1 (State.step16_keeps s)
    · exact .refl

/-- An exit from Stop begins while STOPPED is 1 (R317, R320). -/
theorem State.Inv.beginExit (i : s.Inv) (k : ExitKind) (h : s.pwr.stopped = true) : (s.beginExit k).Inv :=
  (State.beginExit_keeps s k h).inv i

theorem State.Inv.stopped_of_phase (i : s.Inv) (h : s.pwr.phase.isStopped = true) : s.pwr.stopped = true := i.stopped.trans h

theorem State.Inv.toStop (i : s.Inv) (h : s.pwr.phase = .trim) : s.toStop.Inv := by
  have stopped : s.pwr.stopped = true := i.stopped_of_phase (by rw [h]; rfl)
  have j : ({ s with pwr := { s.pwr with phase := .stop } } : State).Inv := i.setPwr _ stopped
  unfold State.toStop
  dsimp only
  split
  · exact j.beginExit .warm stopped
  · exact j

theorem State.logAO_toStop_inv (i : s.Inv) (h : s.pwr.phase = .trim) (cause seq w aux : Nat) :
    (s.logAO cause seq w aux).toStop.Inv :=
  State.Inv.toStop ((State.logAO_keeps ..).inv i) (by rw [State.logAO_pwr, h])

theorem execStartStepTimeout_answers (k : Fin 17) : Answers ok s (execStartStepTimeout k s) := by
  unfold execStartStepTimeout
  split
  · split
    · rename_i trim
      exact fun i => State.logAO_toStop_inv i trim ..
    · exact .refl
  · split
    · exact .refl
    · split
      · rename_i due
        refine .run due.2.2 ?_
        split
        · exact (State.failReady_keeps ..).trans (State.runStart_keeps _)
        · exact (State.timeout_keeps ..).trans (State.runStart_keeps _)
      · exact .refl

theorem execEccloss_answers (site : EccSite) : Answers (site.wf = true) s (execEccloss site s) := by
  unfold execEccloss
  split
  · exact .refl
  · rename_i running
    have run : s.pwr.phase = .run := not_not.mp running
    cases site with
    | scaffold ctx prefetch =>
      dsimp -zeta only
      extract_lets +onlyGivenNames q u v
      refine .run run (Keeps.trans ?_ (State.findingGoesOn_keeps v ..))
      unfold v
      split
      · exact Keeps.same
      · exact .refl _
    | bondEntry g ctx level node =>
      dsimp only
      split
      · exact .refl
      · exact .run run (Keeps.trans (Keeps.trans Keeps.same (State.letIn_keeps _)) (State.findingGoesOn_keeps ..))
    | total i => exact .keeps ((State.setTotal_keeps ..).trans (State.logEcc_keeps ..))
    | tableRow p row =>
      dsimp only
      split
      · rename_i outside
        simpa [Answers, EccSite.wf] using outside
      · exact .run run (State.findingGoesOn_keeps ..)
    | coreSram core => exact .run run (State.findingGoesOn_keeps ..)

theorem execProgramDone_answers (verdict : BitVec 8) (flash : FlashEnd) : Answers ok s (execProgramDone verdict flash s) := by
  unfold execProgramDone
  split
  · exact .refl
  · extract_lets +onlyGivenNames rd c
    split
    · exact .refl
    · split
      · exact .keeps (State.failProgram_keeps ..)
      · extract_lets +onlyGivenNames u
        have programmed : Keeps True s u := State.setNvm_keeps s _ (State.programNvm_wf s _ _ _ _)
        clear_value u
        split
        · exact .keeps (programmed.trans (State.failProgram_keeps ..))
        · split
          · exact .keeps (programmed.trans (State.failProgram_keeps ..))
          · split
            · exact .keeps (programmed.trans (State.failProgram_keeps ..))
            · refine .keeps (programmed.trans ((State.writeSelection_keeps u flash.selected 3 (2 ^ c) false false).trans ?_))
              split
              · exact State.endProgram_keeps ..
              · exact State.failProgram_keeps ..

theorem execBayGate_answers (n : Fin 32) : Answers ok s (execBayGate n s) := by
  unfold execBayGate
  dsimp only
  split
  · exact .keeps ((State.domainOff_keeps ..).trans (State.mapBay_keeps ..))
  · exact .refl

theorem execBayPowerRestored_answers (n : Fin 32) : Answers ok s (execBayPowerRestored n s) := by
  unfold execBayPowerRestored
  split
  · exact .keeps ((State.domainOn_keeps ..).trans (State.mapBay_keeps ..))
  · exact .refl

theorem execStopEntrySave_answers : Answers ok s (execStopEntrySave s) := by
  unfold execStopEntrySave
  split
  · rename_i entering
    split
    · intro i
      have awake := (i.awake_of_phase (by rw [entering]; rfl)).1
      exact (Keeps.same : Keeps True _ _).inv (i.setPwr { s.pwr with phase := .saved } awake)
    · exact .refl
  · exact .refl

theorem execStopCommitWindow_answers : Answers ok s (execStopCommitWindow s) := by
  unfold execStopCommitWindow
  split
  · intro i
    have j : (s.loseUnlock s.dbg.lc).Inv := (State.loseUnlock_keeps ..).inv i
    have k := ((j.setPwr { s.pwr with phase := .committed, stopped := true } rfl).setLath .a
      (x := { s.lathA with reqs := [], rsps := [] }) ⟨Nat.zero_le _, Nat.zero_le _⟩).setLath .b
      (x := { s.lathB with reqs := [], rsps := [] }) ⟨Nat.zero_le _, Nat.zero_le _⟩
    exact k
  · exact .refl

theorem execStopDomainsOff_answers : Answers ok s (execStopDomainsOff s) := by
  unfold execStopDomainsOff
  split
  · rename_i committed
    extract_lets +onlyGivenNames lost u reset v x y w
    intro i
    have stopped : s.pwr.stopped = true := i.stopped_of_phase (by rw [committed]; rfl)
    have logged : Keeps True s u ∧ u.pwr = s.pwr := by
      unfold u
      split
      · exact ⟨State.logAO_keeps .., State.logAO_pwr ..⟩
      · exact ⟨.refl _, rfl⟩
    obtain ⟨keeps, pwr⟩ := logged
    have stays : w.pwr.stopped = true := by
      rw [show w.pwr.stopped = u.pwr.stopped from rfl, pwr, stopped]
    have emptied : Keeps True v { v with log := { v.log with queue := [] } } :=
      ⟨id, id, id, le_rfl, le_rfl, le_rfl, le_rfl, fun _ => Nat.zero_le _, id, fun c => ⟨c.1, c.2, c.3, c.4, c.5, c.6⟩, id,
        fun _ => id, id⟩
    have j : w.Inv := ((keeps.trans (State.resetControl_keeps u)).trans emptied).inv i |>.setPwr w.pwr stays
    clear_value w
    split
    · exact j.beginExit .warm stays
    · split
      · exact j.beginExit .wake stays
      · exact j
  · exact .refl

theorem execStopLowPower_answers : Answers ok s (execStopLowPower s) := by
  unfold execStopLowPower
  split
  · rename_i off
    intro i
    have stopped : s.pwr.stopped = true := i.stopped_of_phase (by rw [off]; rfl)
    have j : ∀ n, ({ s with pwr := { s.pwr with phase := .stop, lowPower := true, stopCount := n } } : State).Inv :=
      fun n => i.setPwr _ stopped
    dsimp only
    split
    · exact (j _).beginExit _ stopped
    · exact j _
  · exact .refl

theorem execWakeEvent_answers (mv : Nat) : Answers ok s (execWakeEvent mv s) := fun i =>
  have j := i.setPwr { s.pwr with wakeMv := mv, level := s.pwr.wakeLevel mv } i.stopped
  (State.takeLevel_keeps _ j.stopped).inv j

theorem execRstNAssert_answers : Answers ok s (execRstNAssert s) := by
  unfold execRstNAssert
  extract_lets +onlyGivenNames x u
  refine .after (t := u) (fun i => i.setPwr { s.pwr with rstLow := true } i.stopped) ?_
  clear_value u
  split
  · rename_i run
    exact .run run (State.beginWarm_keeps ..)
  · rename_i stop
    exact fun j => j.beginExit .warm (j.stopped_of_phase (by rw [stop]; rfl))
  · exact fun j => j.setPwr _ j.stopped
  · rename_i up
    exact fun j => (State.logWarm_keeps _).inv (j.setPwr _ (j.stopped_of_phase (by rw [up]; rfl)))
  · rename_i released
    exact fun j => (State.logWarm_keeps _).inv
      (((State.resetControl_keeps u).inv j).setPwr _ (j.stopped_of_phase (by rw [released]; rfl)))
  · exact fun j => j.setPwr _ j.stopped
  · intro j
    split
    · exact j.setPwr _ j.stopped
    · exact j

theorem execRstNRelease_answers : Answers ok s (execRstNRelease s) := by
  unfold execRstNRelease
  extract_lets +onlyGivenNames x u
  refine .after (t := u) (fun i => i.setPwr { s.pwr with rstLow := false } i.stopped) ?_
  split
  · rename_i hold
    exact fun j => j.setPwr _ (j.stopped_of_phase (by rw [hold]; rfl))
  · exact .refl

theorem lcDefault_le (lc : BitVec 2) : lcDefault lc ≤ 2 := by
  unfold lcDefault
  split <;> decide

theorem State.Inv.resetCold (i : s.Inv) {phase : Phase} (h : phase.isStopped = true) (lastCause : BitVec 4) :
    (s.resetCold phase lastCause).Inv :=
  ⟨rfl, portsFit_reset, rfl, ⟨Nat.zero_le _, Nat.zero_le _⟩, ⟨Nat.zero_le _, Nat.zero_le _⟩, Nat.zero_le _, Nat.zero_le _,
    ⟨i.canonical.mem, i.canonical.nvm, rfl, rfl, rfl, rfl⟩,
    (BitVec.toNat_ofNat _ _).trans_le ((Nat.mod_le _ _).trans (lcDefault_le _)), h.symm⟩

theorem execVauxPowerOnTrip_answers : Answers ok s (execVauxPowerOnTrip s) := fun i =>
  State.Inv.resetCold (((State.cutProgram_keeps s).trans (State.cutPasses_keeps _)).inv i) rfl _

theorem execVauxPowerOnRelease_answers : Answers ok s (execVauxPowerOnRelease s) := by
  unfold execVauxPowerOnRelease
  split
  · rename_i off
    exact fun i => i.setPwr _ (i.stopped_of_phase (by rw [off]; rfl))
  · exact .refl

theorem State.Inv.brownout (i : s.Inv) (lastCause : BitVec 4) : (s.brownout lastCause).Inv := by
  have drains : s.pwr.phase.isStopped = false → (s.beginDrain (.cold lastCause) cBROWNOUT).Inv := fun h =>
    (State.beginDrain_keeps ..).inv_awake (i.awake_of_phase h) i
  unfold State.brownout
  split
  case h_1 e => exact drains (by rw [e]; rfl)
  case h_2 e => exact drains (by rw [e]; rfl)
  case h_3 e => exact drains (by rw [e]; rfl)
  case h_4 => exact i
  case h_5 e => exact i.setPwr _ (i.awake_of_phase (by rw [e]; rfl)).1
  case h_6 => exact i.resetCold rfl _

theorem execAoBrownout_answers : Answers ok s (execAoBrownout s) := by
  unfold execAoBrownout
  split
  · exact .refl
  · exact fun i => i.brownout 1

theorem execCoreBrownout_answers : Answers ok s (execCoreBrownout s) := by
  unfold execCoreBrownout
  extract_lets +onlyGivenNames x u
  refine .after (t := u) (fun i => i.setPwr { s.pwr with vddGood := false } i.stopped) ?_
  clear_value u
  split
  · exact .refl
  · exact .refl
  · exact .refl
  · exact fun j => j.brownout 2

theorem execCoreBrownoutRelease_answers : Answers ok s (execCoreBrownoutRelease s) := by
  unfold execCoreBrownoutRelease
  extract_lets +onlyGivenNames x u
  refine .after (t := u) (fun i => i.setPwr { s.pwr with vddGood := true } i.stopped) ?_
  clear_value u
  split
  · rename_i stop _
    exact fun j => j.beginExit _ (j.stopped_of_phase (by rw [stop]; rfl))
  · exact .refl

theorem State.Inv.endDrain (i : s.Inv) : s.endDrain.Inv := by
  unfold State.endDrain
  split
  · exact i.resetCold rfl _
  · have j : (s.resetControl.dropGrant.loseUnlock s.dbg.fuse).Inv :=
      (((State.resetControl_keeps s).trans (State.dropGrant_keeps _)).trans (State.loseUnlock_keeps ..)).inv i
    refine j.setPwr _ ?_
    dsimp only
    split <;> rfl
  · rename_i draining
    refine (State.enterStop_keeps _ _).inv_awake (i.awake_of_phase (by rw [draining]; rfl)) ?_
    exact Keeps.inv ⟨fun h => (List.length_map _).trans h, id, id, le_rfl, le_rfl, le_rfl, le_rfl, id, id,
      fun c => ⟨c.1, c.2, c.3, c.4, c.5, c.6⟩, id, fun _ => id, id⟩ i
  · exact i

theorem execDrainEnd_answers : Answers ok s (execDrainEnd s) := fun i => (State.tapTurn_inv i).endDrain

theorem execColdStart_answers (trimOk : Bool) (lifecycle : BitVec 2) : Answers ok s (execColdStart trimOk lifecycle s) := by
  unfold execColdStart
  split
  · exact .refl
  · rename_i waits
    have trim : s.pwr.phase = .trim := not_not.mp waits
    split
    · exact fun i => State.logAO_toStop_inv i trim ..
    · split
      · exact .refl
      · intro i
        have read := (State.setDbg_keeps s (s.dbg.readFuses lifecycle) rfl).inv i
        exact (State.setLevel_keeps _ _ fun _ => lcDefault_le _).inv
          (read.setPwr { s.pwr with phase := .powerUp .cold, droopCal := droopTrims }
            (i.stopped_of_phase (by rw [trim]; rfl)))

theorem execPowerupDomainOn_answers (d : Fin 38) : Answers ok s (execPowerupDomainOn d s) := by
  unfold execPowerupDomainOn
  split
  · split
    · dsimp only
      split
      · exact .keeps ((State.domainOn_keeps ..).trans (State.logAO_keeps ..))
      · exact .keeps (State.domainOn_keeps ..)
    · exact .refl
  · exact .refl

theorem execIsolationRelease_answers : Answers ok s (execIsolationRelease s) := by
  unfold execIsolationRelease
  split
  · rename_i k up
    split
    · intro i
      have j : ({ s with pwr := { s.pwr with phase := .released k } } : State).Inv :=
        i.setPwr _ (i.stopped_of_phase (by rw [up]; rfl))
      dsimp only
      split
      · exact j
      · exact (State.dropGrant_keeps _).inv j
    · exact .refl
  · exact .refl

theorem execCellarRestore_answers : Answers ok s (execCellarRestore s) := by
  unfold execCellarRestore
  split
  · exact .keeps ((State.restored_keeps s).trans Keeps.same)
  · exact .refl

theorem execStoppedFall_answers (env : StartEnv) : Answers ok s (execStoppedFall env s) := by
  unfold execStoppedFall
  split
  · split
    · exact .refl
    · extract_lets +onlyGivenNames w x u d v
      intro i
      have j : u.Inv := ((State.setDbg_keeps s (s.dbg.readFuses env.lifecycle) rfl).inv i).setPwr u.pwr rfl
      have k : Keeps False u v := State.setLevel_keeps _ _ fun h => by
        have := lcDefault_le u.dbg.lc
        split <;> omega
      exact (k.trans (State.beginStart_keeps ..)).inv_awake (j.awake rfl) j
  · exact .refl

theorem execGatehouseChallenge_answers (nonce : BitVec 256) : Answers ok s (execGatehouseChallenge nonce s) := by
  unfold execGatehouseChallenge
  split
  · exact .keeps Keeps.same
  · exact .refl

theorem execGatehouseAnswer_answers (grant : Bool) (reason : BitVec 8) (fuseOk : Bool) :
    Answers ok s (execGatehouseAnswer grant reason fuseOk s) := by
  unfold execGatehouseAnswer
  split
  · exact .refl
  · rename_i open_
    have awake : s.pwr.stopped = false := by simpa using fun h => open_ (.inl h)
    have fused : ∀ dest, Answers ok s (.next (if fuseOk then s.lcAdvance dest else s.refuseDbg 6)) := fun dest => by
      split
      · exact .awake awake (State.lcAdvance_keeps ..)
      · exact .keeps (State.refuseDbg_keeps ..)
    split
    · exact .keeps (State.refuseDbg_keeps ..)
    · split
      · exact .keeps ((State.changeLevel_keeps _ _ _ le_rfl).trans (State.endDbg_keeps ..))
      · exact fused _
      · exact fused _
      · exact .refl

theorem execGatehouseTimeout_answers : Answers ok s (execGatehouseTimeout s) := by
  unfold execGatehouseTimeout
  split
  · exact .refl
  · exact .keeps (State.refuseDbg_keeps ..)

/-- Leaving EXTEST or INTEST is a Warm reset in Run, and nothing elsewhere (R354). -/
theorem State.Inv.leaveTest (i : s.Inv) (was : Bool) : (s.leaveTest was).Inv := by
  unfold State.leaveTest
  split
  · rename_i leaves
    simp only [Bool.and_eq_true, beq_iff_eq] at leaves
    exact (State.beginWarm_keeps ..).inv_awake (i.awake_of_run leaves.2) i
  · exact i

theorem execTapTestLogicReset_answers : Answers ok s (execTapTestLogicReset s) := by
  unfold execTapTestLogicReset
  split
  · exact .refl
  · exact fun i => ((Keeps.same : Keeps True s _).inv i).leaveTest _

theorem State.sampleBoundary_keeps (s : State) (op : Nat) : Keeps pw s (s.sampleBoundary op) := by
  unfold State.sampleBoundary
  split
  · exact Keeps.same
  · exact .refl _

theorem execTapUpdateIr_answers (opcode : BitVec 8) : Answers ok s (execTapUpdateIr opcode s) := by
  unfold execTapUpdateIr
  split
  · exact .refl
  · split
    · exact fun i => (Keeps.inv (Keeps.trans Keeps.same (State.sampleBoundary_keeps ..)) i).leaveTest _
    · exact fun i => (Keeps.inv (Keeps.trans Keeps.same (State.logTapDeny_keeps ..)) i).leaveTest _
    · exact fun i => ((Keeps.same : Keeps True s _).inv i).leaveTest _

theorem execLogread_answers (index : BitVec 8) : Answers ok s (execLogread index s) := by
  unfold execLogread
  split
  · exact .keeps (Keeps.trans Keeps.same (State.setDr_keeps ..))
  · exact .refl

theorem execCoretrace_answers (core : BitVec 4) : Answers ok s (execCoretrace core s) := by
  unfold execCoretrace
  split
  · exact .keeps (Keeps.trans Keeps.same (State.setDr_keeps ..))
  · exact .refl

theorem execCoredbgStatus_answers (core : BitVec 4) : Answers ok s (execCoredbgStatus core s) := by
  unfold execCoredbgStatus
  split
  · exact .keeps (State.coreDr_keeps ..)
  · exact .refl

theorem execCoredbgHalt_answers (core : BitVec 4) : Answers ok s (execCoredbgHalt core s) := by
  unfold execCoredbgHalt
  split
  · exact .keeps (((State.setHalt_keeps ..).trans (State.logCore_keeps ..)).trans (State.coreDr_keeps ..))
  · exact .refl

theorem execCoredbgStep_answers (core : BitVec 4) : Answers ok s (execCoredbgStep core s) := by
  unfold execCoredbgStep
  split
  · refine .keeps (Keeps.trans ?_ (State.coreDr_keeps ..))
    split
    · exact State.logCore_keeps ..
    · exact .refl _
  · exact .refl

/-- COREDBG acts only while STOPPED is 0 (R354). -/
theorem State.awake_of_coreOpen {c : Nat} (h : s.coreOpen c = true) : s.pwr.stopped = false := by
  simp only [State.coreOpen, State.tapHolds, State.tapAvailable, Bool.and_eq_true, beq_iff_eq, Option.some.injEq,
    Bool.not_eq_true'] at h
  exact h.1.2.2

theorem execCoredbgResume_answers (core : BitVec 4) : Answers ok s (execCoredbgResume core s) := by
  unfold execCoredbgResume
  split
  · rename_i opened
    exact .awake (State.awake_of_coreOpen opened) ((((State.setHalt_keeps ..).trans (State.logCore_keeps ..)).trans
      (State.tasksGoOn_keeps ..)).trans (State.coreDr_keeps ..))
  · exact .refl

theorem execCoredbgRead_answers (core : BitVec 4) (word : BitVec 14) : Answers ok s (execCoredbgRead core word s) := by
  unfold execCoredbgRead
  split
  · exact .keeps (Keeps.trans Keeps.same (State.coreDr_keeps ..))
  · exact .refl

theorem execCoredbgWrite_answers (core : BitVec 4) (word : BitVec 14) (data : W32) :
    Answers ok s (execCoredbgWrite core word data s) := by
  unfold execCoredbgWrite
  split
  · refine .keeps (Keeps.trans ?_ (State.coreDr_keeps ..))
    exact ⟨id, id, fun h => (List.length_modify ..).trans h, le_rfl, le_rfl, le_rfl, le_rfl, id, id,
      fun c => ⟨c.1, c.2, c.3, c.4, c.5, c.6⟩, id, fun _ => id, id⟩
  · exact .refl

end Sys2Proof.Machine

/-! ### Every command -/

namespace Sys2Proof.Machine

/-- Every command answers a next state, with the invariant when its state has it; only operands out of their ranges fault. -/
theorem exec_answers (c : Instr) (s : State) : Answers (c.wf = true) s (exec c s) := by
  cases c with
  | registerWrite | semQuery | semAcquire | semRelease | semTake | errLogPop | errLogClrovf | etClear | etLoad
  | etCmdNop | ctxAlloc | ctxFree | scaffoldWindowWrite | bgrpArm | bgrpDisarm | routeGo | stxGo | gnStart | gnAbort
  | xpFoldArm | xpFoldDisarm | restartWing | commit | program | retest | respeed | imgCmdNone | pwrStop | pwrWarmreset
  | pwrCmdNone | pwrBayoff | spareCmdRetire | spareCmdNone | dbgNone | setlevel | challenge | respond | advance | cancel
  | lathRead =>
    exact State.lathRow_answers ..
  | siBeat | siLast => exact .keeps (State.siTransfer_keeps ..)
  | siHeader => exact execSiHeader_answers ..
  | siReservedKind => exact execSiReservedKind_answers ..
  | beatCreditGrant => exact execBeatCreditGrant_answers ..
  | tileAcceptance => exact execTileAcceptance_answers ..
  | argumentRead => exact execArgumentRead_answers ..
  | tileAdmission => exact execTileAdmission_answers ..
  | issueGroup => exact execIssueGroup_answers ..
  | mortarRunAdd => exact execMortarRunAdd_answers ..
  | tileRetirement => exact execTileRetirement_answers ..
  | contextWriteBack => exact execContextWriteBack_answers ..
  | soTransfer => exact execSoTransfer_answers ..
  | memoryWriteAck => exact execMemoryWriteAck_answers ..
  | memoryReadResponse port target data => exact execMemoryReadResponse_answers port target data
  | bondTreeMerge => exact execBondTreeMerge_answers ..
  | bondStoreSpill => exact execBondStoreSpill_answers ..
  | spillReturn => exact execSpillReturn_answers ..
  | topkMerge => exact execTopkMerge_answers ..
  | droopStretch => exact execDroopStretch_answers ..
  | lateriskWindow => exact execLateriskWindow_answers ..
  | lathRequestTransfer => exact execLathRequestTransfer_answers ..
  | lathResponseTransfer => exact execLathResponseTransfer_answers ..
  | lathPortReset port => exact execLathPortReset_answers port
  | errorLogEntryTransfer => exact execErrorLogEntryTransfer_answers ..
  | routingPassDone => exact execRoutingPassDone_answers ..
  | stxPassDone => exact execStxPassDone_answers ..
  | gnSummedFrame => exact execGnSummedFrame_answers ..
  | xpLeafFrame => exact execXpLeafFrame_answers ..
  | xpFoldFrame => exact execXpFoldFrame_answers ..
  | xpStoreFrame => exact execXpStoreFrame_answers ..
  | xpFrameInvalid => exact execXpFrameInvalid_answers ..
  | programDone => exact execProgramDone_answers ..
  | coldStart => exact execColdStart_answers ..
  | startStepTimeout => exact execStartStepTimeout_answers ..
  | ready => exact execReady_answers ..
  | bayGate => exact execBayGate_answers ..
  | stopEntrySave => exact execStopEntrySave_answers ..
  | stopCommitWindow => exact execStopCommitWindow_answers ..
  | stopDomainsOff => exact execStopDomainsOff_answers ..
  | stopLowPower => exact execStopLowPower_answers ..
  | wakeEvent millivolts => exact execWakeEvent_answers millivolts
  | rstNAssert => exact execRstNAssert_answers ..
  | vauxPowerOnTrip => exact execVauxPowerOnTrip_answers
  | vauxPowerOnRelease => exact execVauxPowerOnRelease_answers ..
  | aoBrownout => exact execAoBrownout_answers ..
  | coreBrownout => exact execCoreBrownout_answers ..
  | drainEnd => exact execDrainEnd_answers
  | powerupDomainOn => exact execPowerupDomainOn_answers ..
  | isolationRelease => exact execIsolationRelease_answers ..
  | cellarRestore => exact execCellarRestore_answers ..
  | stoppedFall => exact execStoppedFall_answers ..
  | patrolVector => exact execPatrolVector_answers ..
  | patrolConfirm => exact execPatrolConfirm_answers ..
  | spareMapping => exact execSpareMapping_answers ..
  | bankCopyDone => exact execBankCopyDone_answers
  | spareBayPrepared => exact execSpareBayPrepared_answers ..
  | spareMapNvmWrite => exact execSpareMapNvmWrite_answers ..
  | eccloss => exact execEccloss_answers ..
  | gatehouseChallenge => exact execGatehouseChallenge_answers ..
  | gatehouseAnswer => exact execGatehouseAnswer_answers ..
  | gatehouseTimeout => exact execGatehouseTimeout_answers ..
  | tapTestLogicReset => exact execTapTestLogicReset_answers ..
  | tapUpdateIr => exact execTapUpdateIr_answers ..
  | regacc => exact execRegacc_answers ..
  | logread => exact execLogread_answers ..
  | coretrace => exact execCoretrace_answers ..
  | coredbgStatus => exact execCoredbgStatus_answers ..
  | coredbgHalt => exact execCoredbgHalt_answers ..
  | coredbgStep => exact execCoredbgStep_answers ..
  | coredbgResume => exact execCoredbgResume_answers ..
  | coredbgRead => exact execCoredbgRead_answers ..
  | coredbgWrite => exact execCoredbgWrite_answers ..
  | lathPortResetRelease port => exact execLathPortResetRelease_answers port
  | rstNRelease => exact execRstNRelease_answers ..
  | coreBrownoutRelease => exact execCoreBrownoutRelease_answers ..
  | bayPowerRestored => exact execBayPowerRestored_answers ..

theorem exec_inv {c : Instr} {s t : State} (i : s.Inv) (h : exec c s = .next t) : t.Inv := by
  have a := exec_answers c s
  rw [h] at a
  exact a i

theorem step_inv {s t : State} (i : s.Inv) (h : step s = .next t) : t.Inv := by
  unfold step at h
  split at h
  · rw [← Host.Outcome.next.inj h]
    exact State.tapTurn_inv i
  · exact exec_inv ((Keeps.same : Keeps True s _).inv i) h

theorem exec_next_of_wf {c : Instr} {s : State} (h : c.wf = true) : ∃ t, exec c s = .next t := by
  have a := exec_answers c s
  cases e : exec c s with
  | next t => exact ⟨t, rfl⟩
  | fault _ =>
    rw [e] at a
    exact absurd h a
  | refused _ =>
    rw [e] at a
    exact a.elim

/-- Settles O4: the step runs the front command or the TAP's turn, and each keeps the invariant. -/
theorem everyStepKeepsInvariant : Obligations.EveryStepKeepsInvariant := fun _ _ i h => step_inv i h

/-- Settles O2: only three commands can fault, on operands out of their ranges. -/
theorem wellFormedCommandsComplete : Obligations.WellFormedCommandsComplete := fun _ _ h => exec_next_of_wf h

/-- Settles O3: after reset the queues and the stores are empty, LEVEL is legal, and AO is without supply. -/
theorem resetMeetsInvariant : Obligations.ResetMeetsInvariant :=
  ⟨rfl, portsFit_reset, rfl, ⟨Nat.zero_le _, Nat.zero_le _⟩, ⟨Nat.zero_le _, Nat.zero_le _⟩, Nat.zero_le _, Nat.zero_le _,
    ⟨rfl, rfl, rfl, rfl, rfl, rfl⟩, by decide, rfl⟩

end Sys2Proof.Machine

/-! ### The checks of R261 on a request, and the rows that fail one -/

namespace Sys2Proof.Machine

set_option Elab.async false

variable {s t : State} {p : Port} {q : LathReq} {row : LathReq → Bool} {env : StartEnv} {r : Reg}

@[simp] theorem State.popped_forbids (who : Req) (w : Bool) (a : Nat) : (s.popped p).forbids who w a r = s.forbids who w a r := by
  cases p <;> rfl

@[simp] theorem State.popped_fullStart : (s.popped p).fullStart = s.fullStart := by cases p <;> rfl

/-- The reply to an access by the checks 1 to 6 of R261, before its entry is made. -/
def State.judged (s : State) (who : Req) (write : Bool) (addr gen : W32) (data : W64) (env : StartEnv) : Reply :=
  match regOf addr.toNat with
  | none => s.fail codeADDR
  | some r =>
    if addr.toNat % 8 ≠ 0 then s.fail codePROT
    else if s.forbids who write addr.toNat r then s.fail codePROT
    else if write then s.writeAccess who gen addr.toNat data.toNat env r
    else s.readAccess who r

theorem State.access_eq_judged (who : Req) (w : Bool) (a g : W32) (d : W64) :
    s.access who w a g d env =
      let x := s.judged who w a g d env
      let aux := if x.code = codeSTALE then g.toNat else if w then d.toNat else 0
      ⟨x.s.logAccess who x.code a.toNat aux s.sem.copy.toNat (w && regOf a.toNat == some .semCmd), x.code, x.data⟩ := rfl

theorem State.judged_of_none {who : Req} {w : Bool} {a g : W32} {d : W64} (h : regOf a.toNat = none) :
    s.judged who w a g d env = s.fail codeADDR := by
  simp [State.judged, h]

theorem State.judged_of_misaligned {who : Req} {w : Bool} {a g : W32} {d : W64} (h : (regOf a.toNat).isSome = true)
    (odd : a.toNat % 8 ≠ 0) : s.judged who w a g d env = s.fail codePROT := by
  obtain ⟨r, hr⟩ := Option.isSome_iff_exists.mp h
  simp [State.judged, hr, odd]

theorem State.judged_of_forbidden {who : Req} {w : Bool} {a g : W32} {d : W64} (h : regOf a.toNat = some r)
    (aligned : a.toNat % 8 = 0) (f : s.forbids who w a.toNat r = true) : s.judged who w a g d env = s.fail codePROT := by
  simp [State.judged, h, aligned, f]

theorem State.judged_of_write {who : Req} (w : Writes q r) (f : s.forbids who true q.addr.toNat r = false) :
    s.judged who q.write q.addr q.gen q.data env = s.writeAccess who q.gen q.addr.toNat q.data.toNat env r := by
  simp [State.judged, w.write, w.reg, w.aligned, f]

/-- A write to any register but SEM_CMD, by its checks 4 and 5 (R261, R294, R313). -/
theorem State.writeAccess_port {g : W32} {a d : Nat} (hne : r ≠ .semCmd) :
    s.writeAccess (.port p) g a d env r =
      if s.pwr.phase.writesBusy || (s.fullStart && (guarded a r || r == .imgCmd)) then s.fail codeBUSY
      else if guarded a r && g != s.sem.copy then s.fail codeSTALE
      else if guarded a r && !s.owns (.port p) g then s.fail codeDENY
      else s.writeHome (.port p) g d env r := by
  unfold State.writeAccess
  split
  · exact absurd rfl hne
  · exact absurd rfl hne
  · simp

/-- The owner's write meets the rules of the register's own chapter. -/
theorem State.judged_home (h : s.Serves p q) (w : Writes q r) (hne : r ≠ .semCmd)
    (f : s.forbids (.port p) true q.addr.toNat r = false) (own : guarded q.addr.toNat r = true → s.Holds p q)
    (idle : r = .imgCmd → s.fullStart = false) :
    (s.popped p).judged (.port p) q.write q.addr q.gen q.data env
      = (s.popped p).writeHome (.port p) q.gen q.data.toNat env r := by
  have run : s.pwr.phase.writesBusy = false := by simp [h.run, Phase.writesBusy]
  rw [State.judged_of_write w (by simpa using f), State.writeAccess_port hne]
  cases e : guarded q.addr.toNat r
  · by_cases i : r = .imgCmd
    · simp [run, idle i]
    · simp [run, i]
  · simp [run, (own e).started, (own e).gen, (own e).owner, State.owns]

/-- The row of a request that a check refuses: its one entry and its response (R262). -/
theorem State.lathRow_denied {code : Nat} (h : s.Serves p q) (hr : row q = true)
    (hj : (s.popped p).judged (.port p) q.write q.addr q.gen q.data env = (s.popped p).fail code)
    (ok : code ≠ codeOK) (busy : code ≠ codeBUSY) (sem : q.write = true → regOf q.addr.toNat ≠ some .semCmd) :
    s.lathRow p row env =
      .next (s.denied p q code (if code = codeSTALE then q.gen.toNat else if q.write then q.data.toNat else 0)) := by
  have other : (q.write && regOf q.addr.toNat == some .semCmd) = false := by
    cases e : q.write
    · rfl
    · simpa using sem e
  have refused : s.runRequest p q env =
      s.denied p q code (if code = codeSTALE then q.gen.toNat else if q.write then q.data.toNat else 0) := by
    simp only [State.runRequest, State.access_eq_judged, hj, State.denied, State.fail, State.logAccess, other, ok, busy]
    simp [Req.kind]
  rw [State.lathRow_serves h hr, refused, State.tapTurn_of_held_nil]
  simpa [State.denied] using h.alone

/-- The row of a request that completes with BUSY: no effect and no entry (R260, R262). -/
theorem State.lathRow_busied (h : s.Serves p q) (hr : row q = true)
    (hj : (s.popped p).judged (.port p) q.write q.addr q.gen q.data env = (s.popped p).fail codeBUSY) :
    s.lathRow p row env = .next (s.busied p q) := by
  have refused : s.runRequest p q env = s.busied p q := by
    simp [State.runRequest, State.access_eq_judged, hj, State.busied, State.fail, State.logAccess]
  rw [State.lathRow_serves h hr, refused, State.tapTurn_of_held_nil]
  simpa [State.busied] using h.alone

/-- The row of a write that is made: the effect of the register's own chapter, and OK. -/
theorem State.lathRow_executed {f : State → State} (h : s.Serves p q) (hr : row q = true)
    (hj : (s.popped p).judged (.port p) q.write q.addr q.gen q.data env = State.ok (f (s.popped p)))
    (alone : (f (s.popped p)).tap = s.tap) : s.lathRow p row env = .next (s.executed p q f) := by
  have made : s.runRequest p q env = s.executed p q f := by
    simp [State.runRequest, State.access_eq_judged, hj, State.executed, State.ok, State.logAccess]
  rw [State.lathRow_serves h hr, made, State.tapTurn_of_held_nil]
  simpa [State.executed, alone] using h.alone

/-! ### Which requests REGISTER_WRITE takes -/

/-- Does no other row of the table name a write to the register, whatever its data? -/
def Reg.unnamed : Reg → Bool
  | .semCmd | .errPop | .etCmd | .ctxAlloc | .ctxFree | .window _ | .bgrpDef _ | .routeCmd | .stxCmd | .gnCmd | .xpFold
  | .imgCmd | .pwrCmd | .pwrBayoff | .spareCmd | .dbgCmd => false
  | _ => true

/-- A row takes writes to registers that are named only. -/
def TakesNamed (f : LathReq → Bool) : Prop := ∀ q, f q = true → ∃ r, regOf q.addr.toNat = some r ∧ r.unnamed = false

theorem takesNamed_writesTo {g : Reg → Nat → Bool} (h : ∀ r d, g r d = true → r.unnamed = false) : TakesNamed (writesTo g) := by
  intro q hq
  simp only [writesTo, Bool.and_eq_true] at hq
  cases e : regOf q.addr.toNat with
  | none => simp [e] at hq
  | some r =>
    rw [e] at hq
    exact ⟨r, rfl, h r _ hq.2⟩

theorem takesNamed_rowBits {x : Reg} (hi lo v : Nat) (h : x.unnamed = false) : TakesNamed (rowBits x hi lo v) :=
  takesNamed_writesTo fun r d e => by
    simp only [Bool.and_eq_true, beq_iff_eq] at e
    rw [e.1, h]

theorem takesNamed_rowReg {x : Reg} (h : x.unnamed = false) : TakesNamed (rowReg x) :=
  takesNamed_writesTo fun r d e => by rw [beq_iff_eq.mp e, h]

theorem takesNamed_rowSem (op : Nat) : TakesNamed (rowSem op) := takesNamed_rowBits 1 0 op rfl

theorem takesNamed_rowWindow : TakesNamed rowWindow :=
  takesNamed_writesTo fun r d e => by
    split at e
    · rfl
    · exact absurd e (by simp)

theorem takesNamed_rowDef (arm : Bool) : TakesNamed (rowDef arm) :=
  takesNamed_writesTo fun r d e => by
    split at e
    · rfl
    · exact absurd e (by simp)

/-- A row that asks for one register, and for more. -/
theorem takesNamed_and {x : Reg} {g : Nat → Bool} (h : x.unnamed = false) : TakesNamed (writesTo fun r d => r == x && g d) :=
  takesNamed_writesTo fun r d e => by
    simp only [Bool.and_eq_true, beq_iff_eq] at e
    rw [e.1, h]

theorem namedRows_takesNamed : ∀ f ∈ namedRows, TakesNamed f := by
  simp only [namedRows, List.forall_mem_append, List.forall_mem_cons, List.forall_mem_map, List.not_mem_nil, false_imp_iff,
    implies_true, and_true]
  exact ⟨⟨⟨⟨takesNamed_rowSem _, takesNamed_rowSem _, takesNamed_rowSem _, takesNamed_rowSem _, takesNamed_and rfl,
    takesNamed_and rfl, takesNamed_and rfl, takesNamed_rowReg rfl, takesNamed_rowReg rfl, takesNamed_rowWindow,
    takesNamed_rowDef _, takesNamed_rowDef _, takesNamed_rowBits _ _ _ rfl, takesNamed_rowBits _ _ _ rfl,
    takesNamed_rowBits _ _ _ rfl, takesNamed_rowBits _ _ _ rfl, takesNamed_rowReg rfl⟩,
    fun _ _ => takesNamed_rowBits _ _ _ rfl⟩, takesNamed_rowBits _ _ _ rfl, takesNamed_rowBits _ _ _ rfl,
    takesNamed_rowBits _ _ _ rfl, takesNamed_rowReg rfl, takesNamed_rowBits _ _ _ rfl, takesNamed_rowBits _ _ _ rfl⟩,
    fun _ _ => takesNamed_rowBits _ _ _ rfl⟩

theorem rowOther_of_not_named (hw : q.write = true) (h : ∀ r, regOf q.addr.toNat = some r → r.unnamed = true) :
    rowOther q = true := by
  have none : (namedRows.any fun f => f q) = false := by
    rw [List.any_eq_false]
    intro f hf taken
    obtain ⟨r, reg, named⟩ := namedRows_takesNamed f hf q taken
    exact absurd (h r reg) (by simp [named])
  simp [rowOther, hw, none]

theorem rowOther_of_unnamed (w : Writes q r) (h : r.unnamed = true) : rowOther q = true :=
  rowOther_of_not_named w.write fun x hx => by
    rw [w.reg] at hx
    exact Option.some.inj hx ▸ h

theorem rowOther_of_none (hw : q.write = true) (h : regOf q.addr.toNat = none) : rowOther q = true :=
  rowOther_of_not_named hw fun x hx => by simp [h] at hx

/-- SEM_CMD has a row for each of its four OPs (R265). -/
theorem reg_ne_semCmd_of_rowOther (h : rowOther q = true) : regOf q.addr.toNat ≠ some .semCmd := by
  intro e
  simp only [rowOther, namedRows, List.cons_append, List.any_cons, Bool.and_eq_true, Bool.not_eq_true', Bool.or_eq_false_iff] at h
  obtain ⟨w, h0, h1, h2, h3, -⟩ := h
  simp only [rowSem, writesTo, w, e, Bool.true_and, beq_self_eq_true, beq_eq_false_iff_ne] at h0 h1 h2 h3
  have op : bits q.data.toNat 1 0 < 4 := Nat.mod_lt _ (by decide)
  omega

/-! ### The debug registers lie above the guarded addresses (R263, R275) -/

/-- Does the level guard the register (R356)? -/
def Reg.levelled : Reg → Bool
  | .dbgViewsel | .tableView _ | .coreView _ => true
  | _ => false

theorem State.forbids_of_not_levelled (w : Bool) (a : Nat) (h : r.levelled = false) : s.forbids (.port p) w a r = false := by
  unfold State.forbids
  dsimp only
  split
  case h_4 => rfl
  all_goals exact absurd h (by simp [Reg.levelled])

theorem RegRow.find_eq_some {x : RegRow} {a : Nat} (h : x.find a = some r) :
    ∃ i, i < x.count ∧ a / 8 * 8 = x.base + x.step * i ∧ r = x.reg i := by
  unfold RegRow.find at h
  dsimp only at h
  split at h
  · rename_i c
    obtain ⟨base, on, count⟩ := c
    refine ⟨_, count, ?_, (Option.some.inj h).symm⟩
    rw [Nat.mul_div_cancel' (Nat.dvd_of_mod_eq_zero on), Nat.add_sub_cancel' base]
  · exact absurd h (by simp)

/-- What holds of every register of the map and its address holds of the register at an address. -/
theorem regOf_of_rows {P : Reg → Nat → Prop}
    (all : ∀ x ∈ regRows1 ++ regRows2 ++ regRows3, ∀ i, i < x.count → P (x.reg i) (x.base + x.step * i))
    {a : Nat} (h : regOf a = some r) : P r (a / 8 * 8) := by
  obtain ⟨x, hx, e⟩ := List.exists_of_findSome?_eq_some h
  obtain ⟨i, count, at_, rfl⟩ := RegRow.find_eq_some e
  rw [at_]
  exact all x hx i count

/-- Some registers that no semaphore guards: below the guarded addresses, and above them. -/
def Reg.Placed : Reg → Nat → Prop
  | .nanCount, a => a < 0x8000
  | .dbgResp k, a => 0xC0000 ≤ a ∧ k < 8
  | .dbgViewsel, a => 0xC0000 ≤ a
  | .tableView _, a => 0xC0000 ≤ a
  | .coreView _, a => 0xC0000 ≤ a
  | _, _ => True

theorem placed_of_regOf {a : Nat} (h : regOf a = some r) : r.Placed (a / 8 * 8) := by
  refine regOf_of_rows ?_ h
  simp only [regRows1, regRows2, regRows3, List.cons_append, List.nil_append, List.forall_mem_cons, List.not_mem_nil,
    false_imp_iff, implies_true, and_true, Reg.Placed, true_and]
  refine ⟨?_, ?_, ?_, ?_, ?_⟩
  all_goals
    intro i hi
    omega

theorem not_levelled_of_guarded {a : Nat} (h : regOf a = some r) (g : guarded a r = true) : r.levelled = false := by
  have at_ := placed_of_regOf h
  simp only [guarded, Bool.and_eq_true, decide_eq_true_eq] at g
  cases r <;> simp only [Reg.levelled, Reg.Placed] at at_ ⊢ <;> omega

end Sys2Proof.Machine

/-! ### Requests that fail a check of R261 -/

namespace Sys2Proof.Machine

set_option Elab.async false

variable {s : State} {p : Port} {q : LathReq} {r : Reg}

/-- A write at an address that no register has. -/
theorem registerWrite_addr (h : s.Serves p q) (w : q.write = true) (e : regOf q.addr.toNat = none) :
    exec (.registerWrite p) s = .next (s.denied p q codeADDR q.data.toNat) := by
  have d := State.lathRow_denied (env := noEnv) h (rowOther_of_none w e) (State.judged_of_none e) (by decide) (by decide)
    fun _ => by simp [e]
  rw [if_neg (by decide), if_pos w] at d
  exact d

theorem lathRead_addr (h : s.Serves p q) (w : q.write = false) (e : regOf q.addr.toNat = none) :
    exec (.lathRead p) s = .next (s.denied p q codeADDR 0) := by
  have d := State.lathRow_denied (row := fun x => !x.write) (env := noEnv) h (by simp [w]) (State.judged_of_none e)
    (by decide) (by decide) fun x => by simp [w] at x
  rw [if_neg (by decide), if_neg (by simp [w])] at d
  exact d

theorem lathRead_misaligned (h : s.Serves p q) (w : q.write = false) (e : (regOf q.addr.toNat).isSome = true)
    (odd : q.addr.toNat % 8 ≠ 0) : exec (.lathRead p) s = .next (s.denied p q codePROT 0) := by
  have d := State.lathRow_denied (row := fun x => !x.write) (env := noEnv) h (by simp [w]) (State.judged_of_misaligned e odd)
    (by decide) (by decide) fun x => by simp [w] at x
  rw [if_neg (by decide), if_neg (by simp [w])] at d
  exact d

/-- A request of REGISTER_WRITE that completes with a code other than OK and BUSY. -/
theorem registerWrite_denied {code : Nat} (h : s.Serves p q) (other : rowOther q = true)
    (hj : (s.popped p).judged (.port p) q.write q.addr q.gen q.data noEnv = (s.popped p).fail code)
    (ok : code ≠ codeOK) (busy : code ≠ codeBUSY) (stale : code ≠ codeSTALE) :
    exec (.registerWrite p) s = .next (s.denied p q code q.data.toNat) := by
  have w : q.write = true := by
    simp only [rowOther, Bool.and_eq_true] at other
    exact other.1
  have d := State.lathRow_denied h other hj ok busy fun _ => reg_ne_semCmd_of_rowOther other
  rw [if_neg stale, if_pos w] at d
  exact d

theorem registerWrite_misaligned (h : s.Serves p q) (other : rowOther q = true) (e : (regOf q.addr.toNat).isSome = true)
    (odd : q.addr.toNat % 8 ≠ 0) : exec (.registerWrite p) s = .next (s.denied p q codePROT q.data.toNat) :=
  registerWrite_denied h other (State.judged_of_misaligned e odd) (by decide) (by decide) (by decide)

/-- A write that the level forbids (R356). -/
theorem registerWrite_forbidden (h : s.Serves p q) (w : Writes q r) (other : r.unnamed = true)
    (f : s.forbids (.port p) true q.addr.toNat r = true) :
    exec (.registerWrite p) s = .next (s.denied p q codePROT q.data.toNat) := by
  refine registerWrite_denied h (rowOther_of_unnamed w other) (State.judged_of_forbidden w.reg w.aligned ?_) (by decide)
    (by decide) (by decide)
  rw [State.popped_forbids, w.write]
  exact f

section guarded

variable (h : s.Serves p q) (other : rowOther q = true) (w : Writes q r) (g : guarded q.addr.toNat r = true)

include h other w g

/-- A guarded write comes to its checks 4 and 5. -/
theorem judged_of_guarded : (s.popped p).judged (.port p) q.write q.addr q.gen q.data noEnv =
    if s.fullStart then (s.popped p).fail codeBUSY
    else if q.gen != s.sem.copy then (s.popped p).fail codeSTALE
    else if !s.owns (.port p) q.gen then (s.popped p).fail codeDENY
    else (s.popped p).writeHome (.port p) q.gen q.data.toNat noEnv r := by
  have run : s.pwr.phase.writesBusy = false := by simp [h.run, Phase.writesBusy]
  have hne : r ≠ .semCmd := fun e => reg_ne_semCmd_of_rowOther other (e ▸ w.reg)
  rw [State.judged_of_write w (State.forbids_of_not_levelled _ _ (not_levelled_of_guarded w.reg g)),
    State.writeAccess_port hne]
  simp [run, g, State.owns]

theorem registerWrite_started (started : s.fullStart = true) : exec (.registerWrite p) s = .next (s.busied p q) :=
  State.lathRow_busied h other (by rw [judged_of_guarded h other w g, if_pos started])

theorem registerWrite_stale (started : s.fullStart = false) (old : q.gen ≠ s.sem.copy) :
    exec (.registerWrite p) s = .next (s.denied p q codeSTALE q.gen.toNat) := by
  have hj : (s.popped p).judged (.port p) q.write q.addr q.gen q.data noEnv = (s.popped p).fail codeSTALE := by
    rw [judged_of_guarded h other w g, if_neg (by simp [started]), if_pos (by simpa using old)]
  exact State.lathRow_denied h other hj (by decide) (by decide) fun _ => reg_ne_semCmd_of_rowOther other

theorem registerWrite_notOwner (started : s.fullStart = false) (gen : q.gen = s.sem.copy) (owner : s.sem.owner ≠ some p) :
    exec (.registerWrite p) s = .next (s.denied p q codeDENY q.data.toNat) := by
  refine registerWrite_denied h other ?_ (by decide) (by decide) (by decide)
  rw [judged_of_guarded h other w g, if_neg (by simp [started]), if_neg (by simp [gen]), if_pos (by simp [State.owns, owner])]

end guarded

/-- Settles O6: each check of R261 that fails decides the reply, and the reply its entry. -/
theorem refusedLathRequests : Obligations.RefusedLathRequests := by
  intro p q s h
  refine ⟨registerWrite_addr h, lathRead_addr h, lathRead_misaligned h, registerWrite_misaligned h, fun r w low => ?_,
    fun r other w g => ⟨registerWrite_started h other w g, registerWrite_stale h other w g, registerWrite_notOwner h other w g⟩⟩
  rcases low with ⟨rfl, low⟩ | ⟨k, rfl, low⟩ | ⟨k, rfl, low⟩
  · exact registerWrite_forbidden h w rfl (by simp [State.forbids, low])
  · exact registerWrite_forbidden h w rfl (by simp [State.forbids, low])
  · exact registerWrite_forbidden h w rfl (by simpa [State.forbids] using low)

end Sys2Proof.Machine

/-! ### The registers with RW fields, as they read (R52, R125, R156, R157, R195, R199, R213, R214, R327, R345) -/

namespace Sys2Proof.Machine

set_option Elab.async false

variable {s t : State} {p : Port} {q : LathReq} {r : Reg} (b : Bool)

@[simp] theorem readReg_wakeCtl :
    s.readReg b .wakeCtl = s.pwr.thresh.toNat + 16 * b2n s.pwr.pol + 32 * b2n s.pwr.en := rfl
@[simp] theorem readReg_srSeed : s.readReg b .srSeed = s.ctl.srSeed.toNat := rfl
@[simp] theorem readReg_srStep : s.readReg b .srStep = s.ctl.srStep.toNat := rfl
@[simp] theorem readReg_argsetBase : s.readReg b .argsetBase = s.ctl.argsetBase.toNat := rfl
@[simp] theorem readReg_droopCtl : s.readReg b .droopCtl = s.ctl.allow.toNat := rfl
@[simp] theorem readReg_chvSel : s.readReg b .chvSel = s.ctl.chvChain.toNat + 2 ^ 12 * b2n s.ctl.chvWest := rfl
@[simp] theorem readReg_ctxBase : s.readReg b .ctxBase = s.ctl.ctxBase.toNat := rfl
@[simp] theorem readReg_bsSpillBase : s.readReg b .bsSpillBase = s.ctl.spillBase.toNat := rfl
@[simp] theorem readReg_bsSpillSize : s.readReg b .bsSpillSize = s.ctl.spillSize.toNat := rfl
@[simp] theorem readReg_etSel : s.readReg b .etSel = s.ctl.etSel.toNat := rfl
@[simp] theorem readReg_etLoad : s.readReg b .etLoad = s.ctl.etLoad.toNat := rfl
@[simp] theorem readReg_routeSrc : s.readReg b .routeSrc = s.route.src.toNat := rfl
@[simp] theorem readReg_routeDst : s.readReg b .routeDst = s.route.dst.toNat := rfl
@[simp] theorem readReg_routeCnt : s.readReg b .routeCnt = s.route.cnt.toNat := rfl
@[simp] theorem readReg_routeCtl : s.readReg b .routeCtl = s.route.ctl.toNat := rfl
@[simp] theorem readReg_stxSrc : s.readReg b .stxSrc = s.stx.src.toNat := rfl
@[simp] theorem readReg_stxDst : s.readReg b .stxDst = s.stx.dst.toNat := rfl
@[simp] theorem readReg_gnCtl : s.readReg b .gnCtl = s.gn.ctl.toNat := rfl
@[simp] theorem readReg_gnTags : s.readReg b .gnTags = s.gn.tags.toNat := rfl
@[simp] theorem readReg_gnArgdst : s.readReg b .gnArgdst = s.gn.argDst.toNat := rfl
@[simp] theorem readReg_optStep : s.readReg b .optStep = s.gn.optStep.toNat := rfl
@[simp] theorem readReg_xpCfg : s.readReg b .xpCfg = s.xp.shard.toNat := rfl
@[simp] theorem readReg_xpAper_zero : s.readReg b (.xpAper 0) = s.xp.aper0.toNat := rfl
@[simp] theorem readReg_xpAper_one : s.readReg b (.xpAper 1) = s.xp.aper1.toNat := rfl
@[simp] theorem readReg_xpRemote_zero : s.readReg b (.xpRemote 0) = s.xp.remote0.toNat := rfl
@[simp] theorem readReg_xpRemote_one : s.readReg b (.xpRemote 1) = s.xp.remote1.toNat := rfl
@[simp] theorem readReg_patrolCtl :
    s.readReg b .patrolCtl = b2n s.spare.patrolEn + 2 * s.spare.rate.toNat + 32 * b2n s.spare.spareTest := rfl

/-! The registers by the part that holds them, each with what it reads as after a write of `d`. -/

@[simp] def runTable : List (Reg × (Nat → Nat)) := [
  (.srSeed, fun d => d), (.srStep, fun d => d % 2 ^ 32), (.argsetBase, fun d => d / 2 ^ 6 * 2 ^ 6)]

@[simp] def routeTable : List (Reg × (Nat → Nat)) := [
  (.routeSrc, fun d => d), (.routeDst, fun d => d / 2 ^ 4 % 2 ^ 44 * 2 ^ 4), (.routeCnt, fun d => d / 2 ^ 3 % 2 ^ 45 * 2 ^ 3),
  (.routeCtl, fun d => d % 2 ^ 39 + d / 2 ^ 40 * 2 ^ 40)]

@[simp] def stxTable : List (Reg × (Nat → Nat)) := [
  (.stxSrc, fun d => d % 2 ^ 27 + d / 2 ^ 32 % 2 ^ 19 * 2 ^ 32), (.stxDst, fun d => d / 2 ^ 2 % 2 ^ 46 * 2 ^ 2)]

@[simp] def gnTable : List (Reg × (Nat → Nat)) := [
  (.gnCtl, fun d => d), (.gnTags, fun d => d % 2 ^ 45), (.gnArgdst, fun d => d / 2 ^ 3 % 2 ^ 45 * 2 ^ 3),
  (.optStep, fun d => d % 2 ^ 32)]

@[simp] def xpTable : List (Reg × (Nat → Nat)) := [
  (.xpCfg, fun d => d % 2 ^ 20), (.xpAper 0, fun d => d / 2 ^ 16 * 2 ^ 16), (.xpAper 1, fun d => d / 2 ^ 16 * 2 ^ 16),
  (.xpRemote 0, fun d => d % 2 ^ 48), (.xpRemote 1, fun d => d % 2 ^ 48)]

@[simp] def selectorTable : List (Reg × (Nat → Nat)) := [
  (.droopCtl, fun d => d % 2 ^ 4), (.chvSel, fun d => d % 2 ^ 13), (.ctxBase, fun d => d / 2 ^ 11 % 2 ^ 7 * 2 ^ 11),
  (.bsSpillBase, fun d => d / 2 ^ 12 * 2 ^ 12), (.bsSpillSize, fun d => d % 2 ^ 32), (.etSel, fun d => d % 2 ^ 14),
  (.etLoad, fun d => d % 2 ^ 32)]

/-- The registers with RW fields whose writes have no check but BUSY. -/
def rwTable : List (Reg × (Nat → Nat)) :=
  (.wakeCtl, fun d => d % 2 ^ 6) :: (runTable ++ routeTable ++ stxTable ++ gnTable ++ xpTable ++ selectorTable ++
    [(.patrolCtl, fun d => d % 2 ^ 6)])

def rwRegs : List Reg := rwTable.map Prod.fst

@[simp] theorem forall_mem_rwRegs {P : Reg → Prop} : (∀ y ∈ rwRegs, P y) ↔
    P .wakeCtl ∧ P .srSeed ∧ P .srStep ∧ P .argsetBase ∧ P .routeSrc ∧ P .routeDst ∧ P .routeCnt ∧ P .routeCtl ∧ P .stxSrc
      ∧ P .stxDst ∧ P .gnCtl ∧ P .gnTags ∧ P .gnArgdst ∧ P .optStep ∧ P .xpCfg ∧ P (.xpAper 0) ∧ P (.xpAper 1)
      ∧ P (.xpRemote 0) ∧ P (.xpRemote 1) ∧ P .droopCtl ∧ P .chvSel ∧ P .ctxBase ∧ P .bsSpillBase ∧ P .bsSpillSize
      ∧ P .etSel ∧ P .etLoad ∧ P .patrolCtl := by
  simp [rwRegs, rwTable]

theorem fst_mem_rwRegs {x : Reg × (Nat → Nat)} (h : x ∈ rwTable) : x.1 ∈ rwRegs := List.mem_map_of_mem h

/-- They read alike where the parts that hold them are alike. -/
theorem readReg_congr_of_rwRegs (pwr : t.pwr = s.pwr) (ctl : t.ctl = s.ctl) (route : t.route = s.route) (stx : t.stx = s.stx)
    (gn : t.gn = s.gn) (xp : t.xp = s.xp) (spare : t.spare = s.spare) : ∀ y ∈ rwRegs, t.readReg b y = s.readReg b y := by
  simp [pwr, ctl, route, stx, gn, xp, spare]

/-! ### What a write to one of them makes -/

/-- `s` with the RW fields of `t`, and its level on WAKE_SENSE. -/
def State.withRw (s t : State) : State :=
  { s with
    pwr := { s.pwr with thresh := t.pwr.thresh, pol := t.pwr.pol, en := t.pwr.en, level := t.pwr.level }
    ctl := t.ctl
    route := { s.route with src := t.route.src, dst := t.route.dst, cnt := t.route.cnt, ctl := t.route.ctl }
    stx := { s.stx with src := t.stx.src, dst := t.stx.dst }
    gn := { s.gn with ctl := t.gn.ctl, tags := t.gn.tags, argDst := t.gn.argDst, optStep := t.gn.optStep }
    xp := { s.xp with
      shard := t.xp.shard, aper0 := t.xp.aper0, aper1 := t.xp.aper1, remote0 := t.xp.remote0, remote1 := t.xp.remote1 }
    spare := { s.spare with patrolEn := t.spare.patrolEn, rate := t.spare.rate, spareTest := t.spare.spareTest } }

/-- `t` is `s` after a write that made register `r` read as `v`. -/
structure Lands (s t : State) (r : Reg) (v : Nat) : Prop where
  reads : ∀ b, t.readReg b r = v
  others : ∀ b, ∀ y ∈ rwRegs, y ≠ r → t.readReg b y = s.readReg b y
  level : t.pwr.level = if r = .wakeCtl then
    ({ s.pwr with thresh := t.pwr.thresh, pol := t.pwr.pol } : Pwr).wakeLevel s.pwr.wakeMv else s.pwr.level
  frame : t = s.withRw t

theorem Lands.cast {v w : Nat} (h : Lands s t r v) (e : v = w) : Lands s t r w := e ▸ h

/-! A write that puts `v` in the field of a register lands there. -/

theorem lands_srSeed (v : W64) : Lands s { s with ctl := { s.ctl with srSeed := v } } .srSeed v.toNat :=
  ⟨fun _ => rfl, fun b => by simp, rfl, rfl⟩

theorem lands_srStep (v : W32) : Lands s { s with ctl := { s.ctl with srStep := v } } .srStep v.toNat :=
  ⟨fun _ => rfl, fun b => by simp, rfl, rfl⟩

theorem lands_argsetBase (v : W64) : Lands s { s with ctl := { s.ctl with argsetBase := v } } .argsetBase v.toNat :=
  ⟨fun _ => rfl, fun b => by simp, rfl, rfl⟩

theorem lands_routeSrc (v : W64) : Lands s { s with route := { s.route with src := v } } .routeSrc v.toNat :=
  ⟨fun _ => rfl, fun b => by simp, rfl, rfl⟩

theorem lands_routeDst (v : W64) : Lands s { s with route := { s.route with dst := v } } .routeDst v.toNat :=
  ⟨fun _ => rfl, fun b => by simp, rfl, rfl⟩

theorem lands_routeCnt (v : W64) : Lands s { s with route := { s.route with cnt := v } } .routeCnt v.toNat :=
  ⟨fun _ => rfl, fun b => by simp, rfl, rfl⟩

theorem lands_routeCtl (v : W64) : Lands s { s with route := { s.route with ctl := v } } .routeCtl v.toNat :=
  ⟨fun _ => rfl, fun b => by simp, rfl, rfl⟩

theorem lands_stxSrc (v : W64) : Lands s { s with stx := { s.stx with src := v } } .stxSrc v.toNat :=
  ⟨fun _ => rfl, fun b => by simp, rfl, rfl⟩

theorem lands_stxDst (v : W64) : Lands s { s with stx := { s.stx with dst := v } } .stxDst v.toNat :=
  ⟨fun _ => rfl, fun b => by simp, rfl, rfl⟩

theorem lands_gnCtl (v : W64) : Lands s { s with gn := { s.gn with ctl := v } } .gnCtl v.toNat :=
  ⟨fun _ => rfl, fun b => by simp, rfl, rfl⟩

theorem lands_gnTags (v : W64) : Lands s { s with gn := { s.gn with tags := v } } .gnTags v.toNat :=
  ⟨fun _ => rfl, fun b => by simp, rfl, rfl⟩

theorem lands_gnArgdst (v : W64) : Lands s { s with gn := { s.gn with argDst := v } } .gnArgdst v.toNat :=
  ⟨fun _ => rfl, fun b => by simp, rfl, rfl⟩

theorem lands_optStep (v : W32) : Lands s { s with gn := { s.gn with optStep := v } } .optStep v.toNat :=
  ⟨fun _ => rfl, fun b => by simp, rfl, rfl⟩

theorem lands_xpCfg (v : BitVec 20) : Lands s { s with xp := { s.xp with shard := v } } .xpCfg v.toNat :=
  ⟨fun _ => rfl, fun b => by simp, rfl, rfl⟩

theorem lands_xpAper_zero (v : W64) : Lands s { s with xp := { s.xp with aper0 := v } } (.xpAper 0) v.toNat :=
  ⟨fun _ => rfl, fun b => by simp, rfl, rfl⟩

theorem lands_xpAper_one (v : W64) : Lands s { s with xp := { s.xp with aper1 := v } } (.xpAper 1) v.toNat :=
  ⟨fun _ => rfl, fun b => by simp, rfl, rfl⟩

theorem lands_xpRemote_zero (v : W64) : Lands s { s with xp := { s.xp with remote0 := v } } (.xpRemote 0) v.toNat :=
  ⟨fun _ => rfl, fun b => by simp, rfl, rfl⟩

theorem lands_xpRemote_one (v : W64) : Lands s { s with xp := { s.xp with remote1 := v } } (.xpRemote 1) v.toNat :=
  ⟨fun _ => rfl, fun b => by simp, rfl, rfl⟩

theorem lands_droopCtl (v : BitVec 4) : Lands s { s with ctl := { s.ctl with allow := v } } .droopCtl v.toNat :=
  ⟨fun _ => rfl, fun b => by simp, rfl, rfl⟩

theorem lands_ctxBase (v : BitVec 18) : Lands s { s with ctl := { s.ctl with ctxBase := v } } .ctxBase v.toNat :=
  ⟨fun _ => rfl, fun b => by simp, rfl, rfl⟩

theorem lands_bsSpillBase (v : W64) : Lands s { s with ctl := { s.ctl with spillBase := v } } .bsSpillBase v.toNat :=
  ⟨fun _ => rfl, fun b => by simp, rfl, rfl⟩

theorem lands_bsSpillSize (v : W32) : Lands s { s with ctl := { s.ctl with spillSize := v } } .bsSpillSize v.toNat :=
  ⟨fun _ => rfl, fun b => by simp, rfl, rfl⟩

theorem lands_etSel (v : BitVec 14) : Lands s { s with ctl := { s.ctl with etSel := v } } .etSel v.toNat :=
  ⟨fun _ => rfl, fun b => by simp, rfl, rfl⟩

theorem lands_etLoad (v : W32) : Lands s { s with ctl := { s.ctl with etLoad := v } } .etLoad v.toNat :=
  ⟨fun _ => rfl, fun b => by simp, rfl, rfl⟩

theorem lands_chvSel (v : BitVec 12) (w : Bool) :
    Lands s { s with ctl := { s.ctl with chvChain := v, chvWest := w } } .chvSel (v.toNat + 2 ^ 12 * b2n w) :=
  ⟨fun _ => rfl, fun b => by simp, rfl, rfl⟩

theorem lands_patrolCtl (en : Bool) (v : BitVec 4) (x : Bool) :
    Lands s { s with spare := { s.spare with patrolEn := en, rate := v, spareTest := x } } .patrolCtl
      (b2n en + 2 * v.toNat + 32 * b2n x) :=
  ⟨fun _ => rfl, fun b => by simp, rfl, rfl⟩

/-- WAKE_CTL's write also takes the comparator's output anew (R318). -/
theorem lands_wakeCtl (v : BitVec 4) (pol en : Bool) :
    Lands s { s with pwr := { s.pwr with
        thresh := v, pol := pol, en := en
        level := ({ s.pwr with thresh := v, pol := pol } : Pwr).wakeLevel s.pwr.wakeMv } } .wakeCtl
      (v.toNat + 16 * b2n pol + 32 * b2n en) :=
  ⟨fun _ => rfl, fun b => by simp, rfl, rfl⟩

/-- Nothing keeps the registers with RW fields busy (R125, R195, R199, R214). -/
structure State.Quiet (s : State) : Prop where
  route : s.route.busy = false
  stx : s.stx.busy = false
  gn : s.gn.state ≠ 1
  groups : s.anyArmed = false

/-- A write of `d` to register `r` is made, and makes it read as `f d`. -/
def State.WriteLands (s : State) (who : Req) (g : W32) (env : StartEnv) (d : Nat) (r : Reg) (f : Nat → Nat) : Prop :=
  ∃ t, s.writeHome who g d env r = State.ok t ∧ Lands s t r (f d)

@[simp] theorem bits_eq_div_mod (x hi lo : Nat) : bits x hi lo = x / 2 ^ lo % 2 ^ (hi + 1 - lo) := by
  rw [bits, Nat.shiftRight_eq_div_pow]

@[simp] theorem b2n_bit (x i : Nat) : b2n (bit x i) = x / 2 ^ i % 2 := by
  rw [bit, Nat.testBit_eq_decide_div_mod_eq, b2n]
  rcases Nat.mod_two_eq_zero_or_one (x / 2 ^ i) with h | h <;> simp [h]

@[simp] theorem keep_eq_div_mod (x hi lo : Nat) : keep x hi lo = x / 2 ^ lo % 2 ^ (hi + 1 - lo) * 2 ^ lo := by
  rw [keep, bits_eq_div_mod]

variable {who : Req} {g : W32} {d : Nat} {env : StartEnv}

section quiet

variable (c : s.Quiet)
include c

theorem State.Quiet.routeLands {f : Route → Route} {F : Nat → Nat} (home : s.writeHome who g d env r = s.routeWrite f)
    (l : Lands s { s with route := f s.route } r (F d)) : s.WriteLands who g env d r F :=
  ⟨_, home.trans (if_neg (by simp [c.route])), l⟩

theorem State.Quiet.stxLands {f : Stx → Stx} {F : Nat → Nat} (home : s.writeHome who g d env r = s.stxWrite f)
    (l : Lands s { s with stx := f s.stx } r (F d)) : s.WriteLands who g env d r F :=
  ⟨_, home.trans (if_neg (by simp [c.stx])), l⟩

theorem State.Quiet.gnLands {f : Gn → Gn} {F : Nat → Nat} (home : s.writeHome who g d env r = s.gnWrite f)
    (l : Lands s { s with gn := f s.gn } r (F d)) : s.WriteLands who g env d r F :=
  ⟨_, home.trans (if_neg c.gn), l⟩

theorem State.Quiet.spillLands {f : Ctl → Ctl} {F : Nat → Nat} (home : s.writeHome who g d env r = s.spillWrite f)
    (l : Lands s { s with ctl := f s.ctl } r (F d)) : s.WriteLands who g env d r F :=
  ⟨_, home.trans (if_neg (by simp [c.groups])), l⟩

end quiet

theorem State.wakeCtl_lands : s.WriteLands who g env d .wakeCtl fun d => d % 2 ^ 6 := by
  refine ⟨_, rfl, (lands_wakeCtl _ _ _).cast ?_⟩
  simp
  omega

theorem State.patrolCtl_lands : s.WriteLands who g env d .patrolCtl fun d => d % 2 ^ 6 := by
  refine ⟨_, rfl, (lands_patrolCtl _ _ _).cast ?_⟩
  simp
  omega

theorem State.runTable_lands (hd : d < 2 ^ 64) : ∀ x ∈ runTable, s.WriteLands who g env d x.1 x.2 := by
  simp only [runTable, List.forall_mem_cons, List.not_mem_nil, false_imp_iff, implies_true, and_true]
  refine ⟨⟨_, rfl, (lands_srSeed _).cast ?_⟩, ⟨_, rfl, (lands_srStep _).cast ?_⟩, ⟨_, rfl, (lands_argsetBase _).cast ?_⟩⟩
  all_goals simp <;> omega

theorem State.routeTable_lands (c : s.Quiet) (hd : d < 2 ^ 64) : ∀ x ∈ routeTable, s.WriteLands who g env d x.1 x.2 := by
  simp only [routeTable, List.forall_mem_cons, List.not_mem_nil, false_imp_iff, implies_true, and_true]
  refine ⟨c.routeLands (by unfold State.writeHome; rfl) ((lands_routeSrc _).cast ?_),
    c.routeLands (by unfold State.writeHome; rfl) ((lands_routeDst _).cast ?_),
    c.routeLands (by unfold State.writeHome; rfl) ((lands_routeCnt _).cast ?_),
    c.routeLands (by unfold State.writeHome; rfl) ((lands_routeCtl _).cast ?_)⟩
  all_goals
    simp
    omega

theorem State.stxTable_lands (c : s.Quiet) : ∀ x ∈ stxTable, s.WriteLands who g env d x.1 x.2 := by
  simp only [stxTable, List.forall_mem_cons, List.not_mem_nil, false_imp_iff, implies_true, and_true]
  refine ⟨c.stxLands (by unfold State.writeHome; rfl) ((lands_stxSrc _).cast ?_),
    c.stxLands (by unfold State.writeHome; rfl) ((lands_stxDst _).cast ?_)⟩
  all_goals
    simp
    omega

theorem State.gnTable_lands (c : s.Quiet) (hd : d < 2 ^ 64) : ∀ x ∈ gnTable, s.WriteLands who g env d x.1 x.2 := by
  simp only [gnTable, List.forall_mem_cons, List.not_mem_nil, false_imp_iff, implies_true, and_true]
  refine ⟨c.gnLands (by unfold State.writeHome; rfl) ((lands_gnCtl _).cast ?_),
    c.gnLands (by unfold State.writeHome; rfl) ((lands_gnTags _).cast ?_),
    c.gnLands (by unfold State.writeHome; rfl) ((lands_gnArgdst _).cast ?_),
    c.gnLands (by unfold State.writeHome; rfl) ((lands_optStep _).cast ?_)⟩
  all_goals simp <;> omega

theorem State.xpTable_lands (hd : d < 2 ^ 64) : ∀ x ∈ xpTable, s.WriteLands who g env d x.1 x.2 := by
  simp only [xpTable, List.forall_mem_cons, List.not_mem_nil, false_imp_iff, implies_true, and_true]
  refine ⟨⟨_, rfl, (lands_xpCfg _).cast ?_⟩,
    ⟨_, rfl, (lands_xpAper_zero _).cast ?_⟩,
    ⟨_, rfl, (lands_xpAper_one _).cast ?_⟩,
    ⟨_, rfl, (lands_xpRemote_zero _).cast ?_⟩,
    ⟨_, rfl, (lands_xpRemote_one _).cast ?_⟩⟩
  all_goals simp <;> omega

theorem State.selectorTable_lands (c : s.Quiet) (hd : d < 2 ^ 64) : ∀ x ∈ selectorTable, s.WriteLands who g env d x.1 x.2 := by
  simp only [selectorTable, List.forall_mem_cons, List.not_mem_nil, false_imp_iff, implies_true, and_true]
  refine ⟨⟨_, rfl, (lands_droopCtl _).cast ?_⟩,
    ⟨_, rfl, (lands_chvSel _ _).cast ?_⟩,
    ⟨_, rfl, (lands_ctxBase _).cast ?_⟩,
    c.spillLands (by unfold State.writeHome; rfl) ((lands_bsSpillBase _).cast ?_),
    c.spillLands (by unfold State.writeHome; rfl) ((lands_bsSpillSize _).cast ?_),
    ⟨_, rfl, (lands_etSel _).cast ?_⟩,
    ⟨_, rfl, (lands_etLoad _).cast ?_⟩⟩
  all_goals simp <;> omega

/-- Every write to a register with RW fields lands. -/
theorem State.rwTable_lands (c : s.Quiet) (hd : d < 2 ^ 64) : ∀ x ∈ rwTable, s.WriteLands who g env d x.1 x.2 := by
  simp only [rwTable, List.forall_mem_cons, List.forall_mem_append, List.not_mem_nil, false_imp_iff, implies_true, and_true]
  exact ⟨s.wakeCtl_lands, ⟨⟨⟨⟨⟨s.runTable_lands hd, s.routeTable_lands c hd⟩, s.stxTable_lands c⟩, s.gnTable_lands c hd⟩,
    s.xpTable_lands hd⟩, s.selectorTable_lands c hd⟩, s.patrolCtl_lands⟩

end Sys2Proof.Machine

/-! ### Writes of REGISTER_WRITE that come to the rules of their own chapter -/

namespace Sys2Proof.Machine

set_option Elab.async false

variable {s u : State} {p : Port} {q : LathReq} {r : Reg} {f : State → State} {v : Nat}

section home

variable (h : s.Serves p q) (w : Writes q r) (named : r.unnamed = true) (level : s.forbids (.port p) true q.addr.toNat r = false)
  (own : guarded q.addr.toNat r = true → s.Holds p q)
include h w named level own

theorem registerWrite_judged : (s.popped p).judged (.port p) q.write q.addr q.gen q.data noEnv
    = (s.popped p).writeHome (.port p) q.gen q.data.toNat noEnv r :=
  State.judged_home h w (fun e => absurd named (by simp [e, Reg.unnamed])) level own fun e => absurd named (by simp [e, Reg.unnamed])

theorem registerWrite_executed
    (home : (s.popped p).writeHome (.port p) q.gen q.data.toNat noEnv r = State.ok (f (s.popped p)))
    (alone : (f (s.popped p)).tap = s.tap) : exec (.registerWrite p) s = .next (s.executed p q f) :=
  State.lathRow_executed h (rowOther_of_unnamed w named) ((registerWrite_judged h w named level own).trans home) alone

theorem registerWrite_busied
    (home : (s.popped p).writeHome (.port p) q.gen q.data.toNat noEnv r = (s.popped p).fail codeBUSY) :
    exec (.registerWrite p) s = .next (s.busied p q) :=
  State.lathRow_busied h (rowOther_of_unnamed w named) ((registerWrite_judged h w named level own).trans home)

theorem registerWrite_refused {code : Nat}
    (home : (s.popped p).writeHome (.port p) q.gen q.data.toNat noEnv r = (s.popped p).fail code)
    (ok : code ≠ codeOK) (busy : code ≠ codeBUSY) (stale : code ≠ codeSTALE) :
    exec (.registerWrite p) s = .next (s.denied p q code q.data.toNat) :=
  registerWrite_denied h (rowOther_of_unnamed w named) ((registerWrite_judged h w named level own).trans home) ok busy stale

end home

/-! ### The registers with RW fields -/

theorem rwRegs_unnamed : ∀ y ∈ rwRegs, y.unnamed = true := by
  simp [Reg.unnamed]

theorem rwRegs_not_levelled : ∀ y ∈ rwRegs, y.levelled = false := by
  simp [Reg.levelled]

theorem State.Quiet.popped (c : s.Quiet) : (s.popped p).Quiet :=
  ⟨by simpa using c.route, by simpa using c.stx, by simpa using c.gn, by simpa [State.anyArmed] using c.groups⟩

theorem readReg_respond {b : Bool} (code d : Nat) : ∀ y ∈ rwRegs, (s.respond p q code d).readReg b y = s.readReg b y :=
  readReg_congr_of_rwRegs b (by simp) (by simp) (by simp) (by simp) (by simp) (by simp) (by simp)

theorem readReg_popped {b : Bool} : ∀ y ∈ rwRegs, (s.popped p).readReg b y = s.readReg b y :=
  readReg_congr_of_rwRegs b (by simp) (by simp) (by simp) (by simp) (by simp) (by simp) (by simp)

theorem Lands.tap (l : Lands s u r v) : u.tap = s.tap := by
  rw [l.frame]
  rfl

theorem State.withRw_respond (code d : Nat) : s.withRw (u.respond p q code d) = s.withRw u := by
  simp [State.withRw]

/-- What lands on the state without its request lands on the state. -/
theorem Lands.executed (l : Lands (s.popped p) (f (s.popped p)) r v) (hr : r ∈ rwRegs) :
    let t := s.executed p q f
    (∀ b, t.readReg b r = v)
      ∧ (∀ b, ∀ y ∈ rwRegs, y ≠ r → t.readReg b y = s.readReg b y)
      ∧ t.pwr.level = (if r = .wakeCtl then
          ({ s.pwr with thresh := t.pwr.thresh, pol := t.pwr.pol } : Pwr).wakeLevel s.pwr.wakeMv else s.pwr.level)
      ∧ t = s.executed p q fun z => z.withRw t := by
  refine ⟨fun b => ?_, fun b y hy ne => ?_, ?_, ?_⟩
  · exact (readReg_respond _ _ _ hr).trans (l.reads b)
  · exact (readReg_respond _ _ y hy).trans ((l.others b y hy ne).trans (readReg_popped y hy))
  · simpa [State.executed] using l.level
  · simp only [State.executed, State.withRw_respond]
    exact congrArg (fun x => State.respond x p q codeOK 0) l.frame

/-- A write by the owner to a register with RW fields. -/
theorem registerWrite_lands (h : s.Serves p q) (own : s.Holds p q) (c : s.Quiet) :
    ∀ x ∈ rwTable, Writes q x.1 → ∃ f, exec (.registerWrite p) s = .next (s.executed p q f)
      ∧ Lands (s.popped p) (f (s.popped p)) x.1 (x.2 q.data.toNat) := by
  intro x hx w
  obtain ⟨u, home, l⟩ := State.rwTable_lands (who := .port p) (g := q.gen) (env := noEnv) (c.popped (p := p)) q.data.isLt x hx
  refine ⟨fun _ => u, registerWrite_executed h w (rwRegs_unnamed _ (fst_mem_rwRegs hx)) ?_ (fun _ => own) home ?_, l⟩
  · exact State.forbids_of_not_levelled _ _ (rwRegs_not_levelled _ (fst_mem_rwRegs hx))
  · simpa using l.tap

end Sys2Proof.Machine

/-! ### The words of a wide value (R359) -/

namespace Sys2Proof.Machine

set_option Elab.async false

/-- `x` with its word `k` of 64 bits replaced by `d`. -/
def putWord (x k d : Nat) : Nat := x - word64 x k * 2 ^ (64 * k) + d % 2 ^ 64 * 2 ^ (64 * k)

theorem testBit_word64 (x k i : Nat) : (word64 x k).testBit i = (decide (i < 64) && x.testBit (64 * k + i)) := by
  rw [word64, Nat.testBit_mod_two_pow, Nat.testBit_shiftRight]

/-- Three parts of a number: below word `k`, the word, and above it. -/
theorem eq_parts_word64 (x k : Nat) :
    x = 2 ^ (64 * k) * (2 ^ 64 * (x / 2 ^ (64 * k) / 2 ^ 64) + word64 x k) + x % 2 ^ (64 * k) := by
  rw [word64, Nat.shiftRight_eq_div_pow, Nat.div_add_mod, Nat.div_add_mod]

theorem putWord_eq_parts (x k d : Nat) :
    putWord x k d = 2 ^ (64 * k) * (2 ^ 64 * (x / 2 ^ (64 * k) / 2 ^ 64) + d % 2 ^ 64) + x % 2 ^ (64 * k) := by
  have parts := eq_parts_word64 x k
  rw [Nat.mul_add] at parts ⊢
  rw [putWord, Nat.mul_comm (word64 x k), Nat.mul_comm (d % 2 ^ 64)]
  omega

theorem testBit_parts {k h y l : Nat} (hy : y < 2 ^ 64) (hl : l < 2 ^ (64 * k)) (i : Nat) :
    (2 ^ (64 * k) * (2 ^ 64 * h + y) + l).testBit i =
      if i < 64 * k then l.testBit i else if i - 64 * k < 64 then y.testBit (i - 64 * k) else h.testBit (i - 64 * k - 64) := by
  rw [Nat.testBit_two_pow_mul_add _ hl, Nat.testBit_two_pow_mul_add _ hy]

theorem testBit_putWord (x k d i : Nat) :
    (putWord x k d).testBit i = if i / 64 = k then d.testBit (i % 64) else x.testBit i := by
  have low : x % 2 ^ (64 * k) < 2 ^ (64 * k) := Nat.mod_lt _ (by positivity)
  have word : word64 x k < 2 ^ 64 := Nat.mod_lt _ (by decide)
  have old := testBit_parts (h := x / 2 ^ (64 * k) / 2 ^ 64) word low i
  rw [← eq_parts_word64] at old
  rw [putWord_eq_parts, testBit_parts (Nat.mod_lt _ (by decide)) low, old]
  by_cases below : i < 64 * k
  · rw [if_pos below, if_pos below, if_neg (by omega)]
  · by_cases inside : i - 64 * k < 64
    · have at_ : i % 64 = i - 64 * k := by omega
      rw [if_neg below, if_pos inside, if_pos (by omega), at_, Nat.testBit_mod_two_pow]
      simp [inside]
    · rw [if_neg below, if_neg below, if_neg inside, if_neg inside, if_neg (by omega)]

theorem putWord_lt {x k d n : Nat} (hx : x < 2 ^ n) (hk : 64 * k + 64 ≤ n) : putWord x k d < 2 ^ n := by
  refine Nat.lt_pow_two_of_testBit _ fun i hi => ?_
  rw [testBit_putWord, if_neg (by omega)]
  exact Nat.testBit_lt_two_pow (hx.trans_le (Nat.pow_le_pow_right (by decide) hi))

theorem word64_putWord_self {x k d : Nat} (hd : d < 2 ^ 64) : word64 (putWord x k d) k = d := by
  refine Nat.eq_of_testBit_eq fun i => ?_
  rw [testBit_word64, testBit_putWord]
  by_cases hi : i < 64
  · rw [if_pos (by omega), show (64 * k + i) % 64 = i by omega]
    simp [hi]
  · simp [hi, Nat.testBit_lt_two_pow (hd.trans_le (Nat.pow_le_pow_right (by decide) (not_lt.mp hi)))]

theorem word64_putWord_of_ne {x k d j : Nat} (hj : j ≠ k) : word64 (putWord x k d) j = word64 x j := by
  refine Nat.eq_of_testBit_eq fun i => ?_
  rw [testBit_word64, testBit_word64, testBit_putWord]
  by_cases hi : i < 64
  · rw [if_neg (by omega)]
  · simp [hi]

end Sys2Proof.Machine

/-! ### The registers whose writes have checks of their own (R132, R213, R214, R222, R359, R363) -/

namespace Sys2Proof.Machine

set_option Elab.async false

variable {s : State} {p : Port} {q : LathReq} {r : Reg} {g : Nat}

@[simp] theorem State.popped_spansWings (lo hi : Nat) : (s.popped p).spansWings lo hi = s.spansWings lo hi := by
  cases p <;> rfl

@[simp] theorem State.popped_group : (s.popped p).group g = s.group g := by cases p <;> rfl

@[simp] theorem State.popped_anyArmed : (s.popped p).anyArmed = s.anyArmed := by cases p <;> rfl

/-! Registers that need no semaphore. -/

theorem not_guarded_nanCount {a : Nat} (h : regOf a = some .nanCount) : guarded a .nanCount = false := by
  have low : a / 8 * 8 < 0x8000 := placed_of_regOf h
  simp [guarded, show a < 0x8000 by omega]

theorem not_guarded_dbgViewsel {a : Nat} (h : regOf a = some .dbgViewsel) : guarded a .dbgViewsel = false := by
  have high : 0xC0000 ≤ a / 8 * 8 := placed_of_regOf h
  simp [guarded, show 0xBFFFF < a by omega]

theorem not_guarded_dbgResp {a k : Nat} (h : regOf a = some (.dbgResp k)) : guarded a (.dbgResp k) = false := by
  have high : 0xC0000 ≤ a / 8 * 8 := (placed_of_regOf h).1
  simp [guarded, show 0xBFFFF < a by omega]

theorem not_guarded_of_isW1c {a : Nat} (h : r.isW1c = true) : guarded a r = false := by
  simp [guarded, h]

end Sys2Proof.Machine

/-! ### Their rows, and the statement -/

namespace Sys2Proof.Machine

set_option Elab.async false

variable {s : State} {p : Port} {q : LathReq} {r : Reg} {g k : Nat}

theorem mixes_iff {d : Nat} : (bit d 24 && s.img.genDiff && s.spansWings (bits d 11 0) (bits d 23 12)) = true
    ↔ d.testBit 24 = true ∧ s.img.genDiff = true ∧ s.spansWings (d % 2 ^ 12) (d / 2 ^ 12 % 2 ^ 12) = true := by
  simp [bit, and_assoc]

section owner

variable (h : s.Serves p q) (own : s.Holds p q)
include h own

/-- GN_GATE (R214, R260). -/
theorem registerWrite_gnGate (w : Writes q .gnGate) :
    let d := q.data.toNat
    let mixes := d.testBit 24 = true ∧ s.img.genDiff = true ∧ s.spansWings (d % 2 ^ 12) (d / 2 ^ 12 % 2 ^ 12) = true
    (s.gn.state = 1 → exec (.registerWrite p) s = .next (s.busied p q))
      ∧ (s.gn.state ≠ 1 → mixes → exec (.registerWrite p) s = .next (s.denied p q codeGENMIX d))
      ∧ (s.gn.state ≠ 1 → ¬ mixes → exec (.registerWrite p) s = .next (s.executed p q fun x =>
          { x with gn := { x.gn with gate := BitVec.ofNat 64 (d % 2 ^ 25) } })) := by
  refine ⟨fun open_ => ?_, fun shut mixes => ?_, fun shut mixes => ?_⟩
  · exact registerWrite_busied h w rfl rfl (fun _ => own) (if_pos (by simpa using open_))
  · refine registerWrite_refused h w rfl rfl (fun _ => own) ?_ (by decide) (by decide) (by decide)
    refine (if_neg (by simpa using shut)).trans (if_pos ?_)
    rw [State.popped_img, State.popped_spansWings]
    exact mixes_iff.mpr mixes
  · refine registerWrite_executed h w rfl rfl (fun _ => own) ?_ (by simp)
    exact (if_neg (by simpa using shut)).trans (if_neg fun m => mixes (mixes_iff.mp (by simpa using m)))

/-- Entry 0 has no group (R132, R222). -/
theorem registerWrite_group_zero (w : Writes q (.bgrpRange g) ∨ Writes q (.bgrpXp g)) (hg : g = 0) :
    exec (.registerWrite p) s = .next (s.denied p q codePROT q.data.toNat) := by
  rcases w with w | w
  all_goals exact registerWrite_refused h w rfl rfl (fun _ => own) (if_pos hg) (by decide) (by decide) (by decide)

theorem registerWrite_group_open (w : Writes q (.bgrpRange g) ∨ Writes q (.bgrpXp g)) (hg : g ≠ 0)
    (armed : (s.group g).open = true) : exec (.registerWrite p) s = .next (s.busied p q) := by
  rcases w with w | w
  all_goals exact registerWrite_busied h w rfl rfl (fun _ => own) ((if_neg hg).trans (if_pos (by simpa using armed)))

theorem registerWrite_bgrpRange (w : Writes q (.bgrpRange g)) (hg : g ≠ 0) (idle : (s.group g).open = false) :
    exec (.registerWrite p) s = .next (s.executed p q fun x => x.setGroup g { s.group g with
      c0 := BitVec.ofNat 24 (q.data.toNat % 2 ^ 24), n := BitVec.ofNat 25 (q.data.toNat / 2 ^ 24 % 2 ^ 25) }) := by
  refine registerWrite_executed h w rfl rfl (fun _ => own) ?_ (by simp [State.setGroup])
  refine (if_neg hg).trans ((if_neg (by simp [idle])).trans ?_)
  simp only [State.popped_group, bits_eq_div_mod, pow_zero, Nat.div_one]

theorem registerWrite_bgrpXp (w : Writes q (.bgrpXp g)) (hg : g ≠ 0) (idle : (s.group g).open = false) :
    exec (.registerWrite p) s = .next (s.executed p q fun x => x.setGroup g { s.group g with
      send := q.data.toNat.testBit 0, ownerC0 := BitVec.ofNat 24 (q.data.toNat / 2 ^ 8 % 2 ^ 24)
      ownerN := BitVec.ofNat 25 (q.data.toNat / 2 ^ 32 % 2 ^ 25) }) := by
  refine registerWrite_executed h w rfl rfl (fun _ => own) ?_ (by simp [State.setGroup])
  refine (if_neg hg).trans ((if_neg (by simp [idle])).trans ?_)
  simp only [State.popped_group, bits_eq_div_mod, bit]

/-- The registers of a pass or round that runs, or of an armed group, answer BUSY (R125, R195, R199, R214). -/
theorem registerWrite_held (w : Writes q r)
    (held : (r ∈ [Reg.routeSrc, .routeDst, .routeCnt, .routeCtl] ∧ s.route.busy = true)
      ∨ (r ∈ [Reg.stxSrc, .stxDst] ∧ s.stx.busy = true) ∨ (r ∈ [Reg.gnCtl, .gnTags, .gnArgdst, .optStep] ∧ s.gn.state = 1)
      ∨ (r ∈ [Reg.bsSpillBase, .bsSpillSize] ∧ ∃ g ∈ s.groups, g.2.open = true)) :
    exec (.registerWrite p) s = .next (s.busied p q) := by
  simp only [List.mem_cons, List.not_mem_nil, or_false] at held
  rcases held with ⟨rfl | rfl | rfl | rfl, busy⟩ | ⟨rfl | rfl, busy⟩ | ⟨rfl | rfl | rfl | rfl, busy⟩ | ⟨rfl | rfl, busy⟩
  all_goals
    refine registerWrite_busied h w rfl rfl (fun _ => own) (if_pos ?_)
    simpa [State.anyArmed] using busy

end owner

section anyone

variable (h : s.Serves p q)
include h

theorem registerWrite_nanCount (w : Writes q .nanCount) :
    exec (.registerWrite p) s = .next (s.executed p q fun x =>
      { x with nan := { x.nan with count := x.nan.count &&& ~~~(BitVec.ofNat 32 q.data.toNat) } }) :=
  registerWrite_executed h w rfl rfl (fun e => absurd e (by simp [not_guarded_nanCount w.reg])) rfl (by simp)

theorem registerWrite_xpDrops (w : Writes q .xpDrops) :
    exec (.registerWrite p) s = .next (s.executed p q fun x =>
      { x with xp := { x.xp with drops := x.xp.drops &&& ~~~(BitVec.ofNat 32 q.data.toNat) } }) :=
  registerWrite_executed h w rfl rfl (fun e => absurd e (by simp [not_guarded_of_isW1c (r := .xpDrops) rfl])) rfl (by simp)

/-- DBG_VIEWSEL (R363). -/
theorem registerWrite_dbgViewsel (w : Writes q .dbgViewsel) (level : s.dbg.level ≠ 0) :
    let d := q.data.toNat
    let bad := 33 < d % 2 ^ 6 ∨ 9 < d / 2 ^ 32 % 2 ^ 4
    (bad → exec (.registerWrite p) s = .next (s.denied p q codePROT d))
      ∧ (¬ bad → exec (.registerWrite p) s = .next (s.executed p q fun x => { x with dbg := { x.dbg with
          viewBay := BitVec.ofNat 6 (d % 2 ^ 6), rowBase := BitVec.ofNat 11 (d / 2 ^ 16 % 2 ^ 11)
          viewCore := BitVec.ofNat 4 (d / 2 ^ 32 % 2 ^ 4) } })) := by
  have allowed : s.forbids (.port p) true q.addr.toNat .dbgViewsel = false := by
    simpa [State.forbids, ← BitVec.toNat_inj] using level
  have own : guarded q.addr.toNat .dbgViewsel = true → s.Holds p q := fun e => absurd e (by simp [not_guarded_dbgViewsel w.reg])
  refine ⟨fun bad => ?_, fun bad => ?_⟩
  · refine registerWrite_refused h w rfl allowed own (if_pos ?_) (by decide) (by decide) (by decide)
    simpa using bad
  · refine registerWrite_executed h w rfl allowed own ((if_neg ?_).trans ?_) (by simp)
    · simpa using bad
    · simp only [bits_eq_div_mod, pow_zero, Nat.div_one]

section response

variable (w : Writes q (.dbgResp k))
include w

theorem registerWrite_dbgResp_denied (out : s.dbg.state ≠ 2 ∨ s.dbg.source ≠ portSource p) :
    exec (.registerWrite p) s = .next (s.denied p q codeDENY q.data.toNat) := by
  refine registerWrite_refused h w rfl rfl (fun e => absurd e ?_) (if_pos ?_) (by decide) (by decide) (by decide)
  · simp [not_guarded_dbgResp w.reg]
  · simpa [Req.source, eq_comm] using out

/-- DBG_RESP in CHALLENGED (R359). -/
theorem registerWrite_dbgResp (state : s.dbg.state = 2) (source : s.dbg.source = portSource p) :
    exec (.registerWrite p) s = .next (s.executed p q fun x => { x with dbg := { x.dbg with
      resp := BitVec.ofNat 512 (putWord x.dbg.resp.toNat k q.data.toNat) } }) := by
  refine registerWrite_executed h w rfl rfl (fun e => absurd e ?_) (if_neg ?_) (by simp)
  · simp [not_guarded_dbgResp w.reg]
  · simp [Req.source, state, source]

end response

theorem registerWrite_dbgResp_words (w : Writes q (.dbgResp k)) (state : s.dbg.state = 2) (source : s.dbg.source = portSource p) :
    ∃ t, exec (.registerWrite p) s = .next t
      ∧ word64 t.dbg.resp.toNat k = q.data.toNat
      ∧ (∀ j, j ≠ k → word64 t.dbg.resp.toNat j = word64 s.dbg.resp.toNat j)
      ∧ t = s.executed p q fun x => { x with dbg := { x.dbg with resp := t.dbg.resp } } := by
  have count : k < 8 := (placed_of_regOf w.reg).2
  have fits : putWord s.dbg.resp.toNat k q.data.toNat < 2 ^ 512 := putWord_lt s.dbg.resp.isLt (by omega)
  refine ⟨_, registerWrite_dbgResp h w state source, ?_, fun j hj => ?_, ?_⟩
  · simpa [State.executed, Nat.mod_eq_of_lt fits] using word64_putWord_self q.data.isLt
  · simpa [State.executed, Nat.mod_eq_of_lt fits] using word64_putWord_of_ne hj
  · simp [State.executed]

end anyone

/-- Settles O13: a write of REGISTER_WRITE comes to the rules of its register's own chapter. -/
theorem registerWritesReadBack : Obligations.RegisterWritesReadBack := by
  unfold Obligations.RegisterWritesReadBack
  refine ⟨?_, fun p q s h => ⟨fun w own => registerWrite_gnGate h own w, fun g w own => ⟨?_, ?_, ?_, ?_⟩,
    fun k w => ⟨?_, ?_⟩, fun w => registerWrite_dbgViewsel h w, fun r w own => registerWrite_held h own w,
    registerWrite_nanCount h, registerWrite_xpDrops h⟩⟩
  · show ∀ x ∈ rwTable, _
    intro x hx p q s h w own route stx gn groups
    obtain ⟨f, run, l⟩ := registerWrite_lands h own ⟨route, stx, gn, groups⟩ x hx w
    obtain ⟨reads, others, level, frame⟩ := l.executed (fst_mem_rwRegs hx)
    exact ⟨_, run, reads, fun b y hy ne => others b y.1 (fst_mem_rwRegs hy) ne, level, frame⟩
  · exact registerWrite_group_zero h own w
  · exact registerWrite_group_open h own w
  · exact fun hg idle w => registerWrite_bgrpRange h own w hg idle
  · exact fun hg idle w => registerWrite_bgrpXp h own w hg idle
  · exact fun out => registerWrite_dbgResp_denied h w (by cases p <;> exact out)
  · exact fun state source => registerWrite_dbgResp_words h w state (by cases p <;> exact source)

end Sys2Proof.Machine

/-! ### Transfers of the Lath ports and the order of a tie (R32, R256) -/

namespace Sys2Proof.Machine

variable {s t : State} {p o : Port} {q : LathReq} {env : StartEnv}

/-- In Run a port is ready when it has a request and its response has room (R257). -/
theorem State.ready_iff (run : s.pwr.phase = .run) (awake : s.pwr.stopped = false) :
    s.ready p = true ↔ (s.lath p).reqs ≠ [] ∧ (s.lath p).rsps.length < 8 := by
  simp [State.ready, run, awake, Phase.lathOpen]

/-- No access of the TAP executes where none waits or a request is ready (R355). -/
theorem State.tapTurn_of_waits (run : s.pwr.phase = .run) (awake : s.pwr.stopped = false)
    (waits : s.tap.held = [] ∨ ∃ o, (s.lath o).reqs ≠ [] ∧ (s.lath o).rsps.length < 8) : s.tapTurn = s := by
  rcases waits with none | ⟨o, some⟩
  · exact s.tapTurn_of_held_nil none
  · exact s.tapTurn_of_ready ⟨o, (State.ready_iff run awake).2 some⟩

theorem lathRequestTransfer_eq (run : s.pwr.phase = .run) (awake : s.pwr.stopped = false) (quiet : s.testing = false)
    (up : (s.lath p).up = true) (still : s.tapTurn = s) : exec (.lathRequestTransfer p q) s =
      if (s.lath p).reqs.length < 8 then .next (s.setLath p { s.lath p with reqs := (s.lath p).reqs ++ [q] }) else .next s := by
  show execLathRequestTransfer p q s = _
  unfold execLathRequestTransfer
  rw [still]
  exact ite_congr (by simp [Phase.lathOpen, run, awake, quiet, up]) (fun _ => rfl) fun _ => rfl

theorem lathResponseTransfer_eq (awake : s.pwr.stopped = false) (quiet : s.testing = false)
    (up : (s.lath p).up = true) (still : s.tapTurn = s) :
    exec (.lathResponseTransfer p) s = .next (s.setLath p { s.lath p with rsps := (s.lath p).rsps.tail }) := by
  show execLathResponseTransfer p s = _
  simp [execLathResponseTransfer, still, awake, quiet, up]

/-! The order of a tie. -/

/-- There is a tie when both ports are ready (R32). -/
theorem State.tie_eq (ne : p ≠ o) : s.tie = (s.ready p && s.ready o) := by
  cases p <;> cases o <;> simp_all [State.tie, Bool.and_comm]

theorem Port.first_other (ne : p ≠ o) : (if p == .a then Port.b else .a) = o := by
  induction p <;> induction o <;> first | rfl | exact absurd rfl ne

/-- The port that is served at a tie goes last at the next (R32). -/
theorem State.first_popped (ne : p ≠ o) : (s.popped p).first = if s.tie then o else s.first := by
  unfold State.first
  rw [State.popped_tieB]
  split
  · exact Port.first_other ne
  · rfl

theorem State.lath_setLath_of_ne (ne : o ≠ p) (x : LathPort) : (s.setLath p x).lath o = s.lath o := by
  induction p <;> induction o <;> first | exact absurd rfl ne | rfl

theorem State.lath_popped_of_ne (ne : o ≠ p) : (s.popped p).lath o = s.lath o := State.lath_setLath_of_ne ne _

/-- `t` is `s` but for the counter of free values and the error log. -/
def State.Reads (s t : State) : Prop := t = { s with free := t.free, log := t.log }

theorem State.Reads.refl : s.Reads s := rfl

theorem State.Reads.ite {c : Prop} [Decidable c] {x y : Reply} (h : s.Reads x.s) (k : s.Reads y.s) :
    s.Reads (if c then x else y).s := by
  split
  · exact h
  · exact k

theorem State.Reads.trans {u : State} (h : s.Reads t) (k : t.Reads u) : s.Reads u :=
  Eq.trans k ((congrArg (fun t : State => { t with free := u.free, log := u.log }) h).trans rfl)

theorem State.Reads.first (h : s.Reads t) : t.first = s.first := (congrArg State.first h).trans rfl
theorem State.Reads.lath (h : s.Reads t) : t.lath = s.lath := (congrArg State.lath h).trans rfl
theorem State.Reads.pwr (h : s.Reads t) : t.pwr = s.pwr := (congrArg State.pwr h).trans rfl
theorem State.Reads.tap (h : s.Reads t) : t.tap = s.tap := (congrArg State.tap h).trans rfl

theorem State.readAccess_reads (who : Req) (r : Reg) : s.Reads (s.readAccess who r).s := by
  induction r
  case window => exact .ite .refl .refl
  case coreView => exact rfl
  all_goals exact State.Reads.refl

/-- A read changes nothing but the counter of free values (R258). -/
theorem State.judged_reads (who : Req) (a g : W32) (d : W64) : s.Reads (s.judged who false a g d env).s := by
  unfold State.judged
  cases regOf a.toNat with
  | none => exact .refl
  | some r => exact .ite .refl (.ite .refl (State.readAccess_reads who r))

/-- An entry changes the error log only. -/
theorem State.logE_only (cause kind src chain code seq w aux : Nat) : s.logE cause kind src chain code seq w aux
    = { s with log := (s.logE cause kind src chain code seq w aux).log } := by
  refine Eq.trans (s.logE_frame cause kind src chain code seq w aux) ?_
  rw [State.logE_bays, State.logE_groups]

theorem State.logAccess_reads (who : Req) (code a aux gen : Nat) (sem : Bool) : s.Reads (s.logAccess who code a aux gen sem) := by
  unfold State.logAccess
  split
  · exact .refl
  · refine Eq.trans (State.logE_only ..) ?_
    rw [State.logE_free]

theorem State.access_reads (who : Req) (a g : W32) (d : W64) : s.Reads (s.access who false a g d env).s :=
  (s.judged_reads (env := env) who a g d).trans (State.logAccess_reads ..)

/-- The response of a read leaves the order of a tie, the other port, the phase and the TAP as they are. -/
theorem State.respond_keeps (code data : Nat) (ne : o ≠ p) :
    let t := s.respond p q code data
    t.first = s.first ∧ t.lath o = s.lath o ∧ t.pwr = s.pwr ∧ t.tap = s.tap :=
  ⟨congrArg (fun b : Bool => if b then Port.b else .a) (s.respond_tieB ..), State.lath_setLath_of_ne ne _, s.respond_pwr ..,
      s.respond_tap ..⟩

/-- What a read that executes leaves of the other port and of the order of a tie. -/
theorem State.runRequest_read_keeps (w : q.write = false) (ne : o ≠ p) :
    let t := s.runRequest p q env
    t.first = (s.popped p).first ∧ t.lath o = s.lath o ∧ t.pwr = s.pwr ∧ t.tap = s.tap := by
  have reads := (s.popped p).access_reads (env := env) (.port p) q.addr q.gen q.data
  rw [← w] at reads
  obtain ⟨first, lath, pwr, tap⟩ := State.respond_keeps (q := q) (s := ((s.popped p).access (.port p) q.write q.addr q.gen q.data
      env).s) _ _ ne
  exact ⟨first.trans reads.first, lath.trans ((congrFun reads.lath o).trans (s.lath_popped_of_ne ne)),
    pwr.trans (reads.pwr.trans (s.popped_pwr ..)), tap.trans (reads.tap.trans (s.popped_tap ..))⟩

theorem lathRead_eq : exec (.lathRead p) s = match s.headFor p fun q => !q.write with
    | some q => .next (s.runRequest p q noEnv).tapTurn
    | none => .next s := rfl

theorem State.headFor_eq {row : LathReq → Bool} (head : (s.lath p).reqs.head? = some q) :
    s.headFor p row = if s.ready p && (!s.tie || s.first == p) && row q then some q else none := by
  obtain ⟨rest, e⟩ := List.head?_eq_some_iff.1 head
  unfold State.headFor
  rw [e]

/-- A read at the head, when it may execute. -/
theorem lathRead_runs (ready : s.ready p = true) (head : (s.lath p).reqs.head? = some q) (w : q.write = false)
    (turn : s.tie = true → s.first = p) : exec (.lathRead p) s = .next (s.runRequest p q noEnv).tapTurn := by
  have turn : (!s.tie || s.first == p) = true := by
    cases tie : s.tie
    · rfl
    · exact beq_iff_eq.2 (turn tie)
  rw [lathRead_eq, State.headFor_eq head, ready, turn, w]
  rfl

/-- The row of the port that does not go first at a tie (R32). -/
theorem lathRead_waits (tie : s.tie = true) (head : (s.lath p).reqs.head? = some q) (last : s.first ≠ p) :
    exec (.lathRead p) s = .next s := by
  rw [lathRead_eq, State.headFor_eq head, tie, beq_false_of_ne last]
  cases s.ready p <;> rfl

/-- A read that executes hands the turn to the other port at a tie, and leaves the order alone elsewhere. -/
theorem State.read_first (w : q.write = false) (run : s.pwr.phase = .run) (awake : s.pwr.stopped = false) (ne : p ≠ o)
    (waits : s.tap.held = [] ∨ (s.lath o).reqs ≠ [] ∧ (s.lath o).rsps.length < 8) :
    (s.runRequest p q noEnv).tapTurn.first = if s.tie then o else s.first := by
  obtain ⟨order, other, pwr, tap⟩ := State.runRequest_read_keeps (s := s) (env := noEnv) w ne.symm
  rw [State.tapTurn_of_waits (by rw [pwr, run]) (by rw [pwr, awake]), order, State.first_popped ne]
  exact waits.imp (congrArg Tap.held tap).trans fun waits => ⟨o, by rwa [other]⟩

/-- At the head of a port whose response has room stands a read: there is a tie when the other port is ready too. -/
theorem State.tie_iff (run : s.pwr.phase = .run) (awake : s.pwr.stopped = false) (ne : p ≠ o) (ready : s.ready p = true) :
    s.tie = true ↔ (s.lath o).reqs ≠ [] ∧ (s.lath o).rsps.length < 8 := by
  rw [State.tie_eq ne, ready, Bool.true_and, State.ready_iff run awake]

theorem State.ready_of_head (run : s.pwr.phase = .run) (awake : s.pwr.stopped = false) (head : (s.lath p).reqs.head? = some q)
    (room : (s.lath p).rsps.length < 8) : s.ready p = true :=
  (State.ready_iff run awake).2 ⟨fun e => Option.some_ne_none q (head.symm.trans (congrArg List.head? e)), room⟩

/-- Settles O8: a transfer moves one request or response, and a read served at a tie hands the turn to the other port. -/
theorem lathTransfers : Obligations.LathTransfers := by
  refine ⟨fun p s run awake quiet up waits => ⟨fun q room => ?_, fun q full => ?_, fun r rest e => ?_⟩, rfl,
    fun p o q s run awake ne head w room => ?_⟩
  · exact (lathRequestTransfer_eq run awake quiet up (State.tapTurn_of_waits run awake waits)).trans (if_pos room)
  · exact (lathRequestTransfer_eq run awake quiet up (State.tapTurn_of_waits run awake waits)).trans (if_neg (not_lt.2 full))
  · exact (lathResponseTransfer_eq awake quiet up (State.tapTurn_of_waits run awake waits)).trans
      (congrArg (fun x : List LathRsp => (.next (s.setLath p { s.lath p with rsps := x.tail }) : Host.Outcome State Fault Refusal)) e)
  · have ready := State.ready_of_head run awake head room
    have tied := State.tie_iff run awake ne ready
    exact ⟨fun tie first => lathRead_waits (tied.2 tie) head (first ▸ ne.symm),
      fun tie first => ⟨_, lathRead_runs ready head w fun _ => first, (State.read_first w run awake ne (.inr tie)).trans (if_pos
          (tied.2 tie))⟩,
      fun free alone => ⟨_, lathRead_runs ready head w fun h => absurd (tied.1 h) free,
        (State.read_first w run awake ne (.inl alone)).trans (if_neg (mt tied.1 free))⟩⟩

end Sys2Proof.Machine

/-! ### Egress and acknowledged writes (R28, R29, R241, R244) -/

namespace Sys2Proof.Machine

variable {s : State}

theorem soTransfer_idle {n : Fin 32} (off : s.bayOn n.val = false) (kept : s.isLost n.val = false) :
    exec (.soTransfer n) s = .next s := by
  refine if_pos ?_
  rw [off, kept]
  exact Bool.or_true _

theorem soTransfer_eq {n : Fin 32} (awake : s.pwr.stopped = false) (quiet : s.testing = false)
    (serves : s.bayOn n.val = true ∨ s.isLost n.val = true) :
    exec (.soTransfer n) s = .next (s.mapBay n.val fun b => b.sends b.egress.tail) := by
  refine if_neg ?_
  rw [awake, quiet, Bool.or_eq_true_iff.2 serves]
  exact Bool.false_ne_true

/-- A byte of a masked write of distinct bytes takes the bits of its mask (R244). -/
theorem memByte_memSetMasked_of_mem {l : List (Nat × Byte × Byte)} (distinct : (l.map Prod.fst).Nodup) :
    ∀ {m : List Host.Cell}, Memory.wf m = true → ∀ c ∈ l,
      memByte (memSetMasked m l) c.1 = (memByte m c.1 &&& ~~~c.2.1) ||| (c.2.2 &&& c.2.1) := by
  induction l with
  | nil => exact fun _ _ h => absurd h List.not_mem_nil
  | cons d l ih =>
    intro m wf
    obtain ⟨fresh, rest⟩ := List.nodup_cons.1 distinct
    have apart (x : Nat × Byte × Byte) (hx : x ∈ l) : x.1 ≠ d.1 := fun e => fresh (List.mem_map.2 ⟨x, hx, e⟩)
    refine List.forall_mem_cons.2 ⟨?_, fun c hc => ?_⟩
    · exact (memByte_memSetMasked_other _ l _ apart).trans ((memByte_memSet m _ _ _ wf).trans (if_pos rfl))
    · exact (ih rest (memSet_wf m _ _ wf) c hc).trans (congrArg (fun x => (x &&& ~~~c.2.1) ||| (c.2.2 &&& c.2.1))
        ((memByte_memSet m _ _ _ wf).trans (if_neg (apart c hc))))

/-- A state with other queues of the memory ports. -/
noncomputable def State.withQueues (s : State) (mpq : List (List MemWrite)) (mpWait : List (Nat × MemWrite)) : State :=
  { s with mpq := mpq, mpWait := mpWait }

theorem State.switchWrite_of_portFor {home p : Nat} {w : MemWrite} (takes : s.portFor (home % 4) = some p) :
    s.switchWrite home w = s.queueWrite p w := by
  unfold State.switchWrite
  rw [takes]

/-- The only port with room takes every request (R28). -/
theorem State.portFor_eq {home p : Nat} (hp : p < 4) (room : (s.mpq.getD p []).length < 64)
    (full : ∀ o, o < 4 → o ≠ p → 64 ≤ (s.mpq.getD o []).length) : s.portFor home = some p := by
  cases e : s.portFor home with
  | none => exact absurd (State.portFor_none e p hp) (not_le.2 room)
  | some o =>
    obtain ⟨ho, free⟩ := State.portFor_some e
    exact congrArg some (by_contra fun other => absurd (full o ho other) (not_le.2 free))

/-- A write that finds every queue full waits with its agent (R28). -/
theorem State.switchWrite_of_full (full : ∀ p, p < 4 → 64 ≤ (s.mpq.getD p []).length) (home : Nat) (w : MemWrite) :
    s.switchWrite home w = s.withQueues s.mpq (s.mpWait ++ [(home % 4, w)]) := by
  unfold State.switchWrite
  cases e : s.portFor (home % 4) with
  | none => rfl
  | some p => exact absurd (full p (State.portFor_some e).1) (not_le.2 (State.portFor_some e).2)

/-- While every queue is full, writes wait with their agents (R28). -/
theorem State.foldl_switchWrite_of_full (l : List (Nat × MemWrite)) : ∀ {s : State}, (∀ p, p < 4 → 64 ≤ (s.mpq.getD p []).length) →
    l.foldl (fun (s : State) x => s.switchWrite x.1 x.2) s = s.withQueues s.mpq (s.mpWait ++ l.map fun x => (x.1 % 4, x.2)) := by
  induction l with
  | nil => exact fun {s} _ => congrArg (s.withQueues s.mpq) (List.append_nil _).symm
  | cons x l ih =>
    intro s full
    exact (congrArg (fun t => l.foldl _ t) (State.switchWrite_of_full full x.1 x.2)).trans
      ((ih (s := s.withQueues s.mpq (s.mpWait ++ [(x.1 % 4, x.2)])) full).trans
        (congrArg (s.withQueues s.mpq) (List.append_assoc s.mpWait [(x.1 % 4, x.2)] _)))

/-- What a queue holds once a write entered one of them. -/
theorem getD_modify_append (q : List (List MemWrite)) {p : Nat} (lt : p < q.length) (w : MemWrite) (o : Nat) :
    (q.modify p (· ++ [w])).getD o [] = if p = o then q.getD o [] ++ [w] else q.getD o [] := by
  rw [List.getD_eq_getElem?_getD, List.getD_eq_getElem?_getD]
  by_cases same : p = o
  · obtain rfl := same
    rw [if_pos rfl, List.getElem?_modify_eq, List.getElem?_eq_getElem lt]
    rfl
  · rw [if_neg same, List.getElem?_modify_ne _ _ same]

/-- A place in one queue takes in the oldest write that waits (R28). -/
theorem State.admitWrites_of_room {p home : Nat} {w : MemWrite} {more : List (Nat × MemWrite)} (hp : p < 4)
    (four : s.mpq.length = 4) (wait : s.mpWait = (home, w) :: more) (room : (s.mpq.getD p []).length = 63)
    (full : ∀ o, o < 4 → o ≠ p → 64 ≤ (s.mpq.getD o []).length) :
    s.admitWrites = s.withQueues (s.mpq.modify p (· ++ [w])) (more.map fun x => (x.1 % 4, x.2)) := by
  have enters : (s.withQueues s.mpq []).switchWrite home w = s.withQueues (s.mpq.modify p (· ++ [w])) [] :=
    State.switchWrite_of_portFor (State.portFor_eq hp (room.trans_lt (Nat.lt_succ_self 63)) full)
  have filled (o : Nat) (ho : o < 4) : 64 ≤ ((s.mpq.modify p (· ++ [w])).getD o []).length := by
    rw [getD_modify_append _ (four.symm ▸ hp)]
    by_cases same : p = o
    · rw [if_pos same, ← same, List.length_append, room]
      exact le_refl 64
    · rw [if_neg same]
      exact full o ho (Ne.symm same)
  unfold State.admitWrites
  rw [wait]
  exact (congrArg (fun t => more.foldl _ t) enters).trans (State.foldl_switchWrite_of_full more filled)

theorem State.admitWrites_of_none (none_ : s.mpWait = []) : s.admitWrites = s.withQueues s.mpq [] :=
  congrArg (List.foldl _ (s.withQueues s.mpq [])) none_

/-- A spilled node is acknowledged with its write (R138). -/
noncomputable def ackSpills (l : List Spilled) (x : Writer) : List Spilled :=
  match x with
  | .spill slot => l.map fun x => if x.slot = slot then { x with acked := true } else x
  | _ => l

theorem ackSpills_none {l : List Spilled} {x : Writer} (none_ : ∀ slot, x ≠ .spill slot) : ackSpills l x = l := by
  cases x with
  | spill slot => exact absurd rfl (none_ slot)
  | _ => rfl

/-- What an acknowledged write leaves before those that wait enter the queues. -/
noncomputable def State.acked (s : State) (port : Nat) (w : MemWrite) (rest : List MemWrite) : State :=
  { s with
    mem := memSetMasked s.mem w.cells
    mpq := s.mpq.set port rest
    spilled := ackSpills s.spilled w.writer }

theorem memoryWriteAck_none {port : Fin 4} (empty : s.mpq.getD port.val [] = []) : exec (.memoryWriteAck port) s = .next s := by
  show execMemoryWriteAck port s = _
  unfold execMemoryWriteAck
  rw [empty]

theorem memoryWriteAck_eq {port : Fin 4} {w : MemWrite} {rest : List MemWrite} (awake : s.pwr.stopped = false)
    (oldest : s.mpq.getD port.val [] = w :: rest) :
    exec (.memoryWriteAck port) s = .next (s.acked port.val w rest).admitWrites := by
  show (match s.mpq.getD port.val [] with
    | [] => Host.Outcome.next s
    | w :: rest => if s.pwr.stopped then .next s else .next (s.acked port.val w rest).admitWrites) = _
  rw [oldest]
  exact if_neg (Bool.eq_false_iff.1 awake)

section acked

variable {port : Nat} {w : MemWrite} {rest : List MemWrite}

/-- The oldest write of a queue stands in the queues. -/
theorem mpq_getElem? {q : List (List MemWrite)} (oldest : q.getD port [] = w :: rest) : q[port]? = some (w :: rest) := by
  rw [List.getD_eq_getElem?_getD] at oldest
  cases e : q[port]? with
  | none =>
    rw [e] at oldest
    exact absurd oldest.symm (List.cons_ne_nil _ _)
  | some l =>
    rw [e] at oldest
    exact congrArg some oldest

theorem State.acked_writes (oldest : s.mpq.getD port [] = w :: rest) : (w :: (s.acked port w rest).writes).Perm s.writes := by
  obtain ⟨lt, at_⟩ := List.getElem?_eq_some_iff.1 (mpq_getElem? oldest)
  have queues : (w :: (s.mpq.set port rest).flatten).Perm s.mpq.flatten := by
    rw [List.set_eq_take_append_cons_drop, if_pos lt, List.flatten_append]
    conv_rhs => rw [← List.take_append_drop port s.mpq, List.drop_eq_getElem_cons lt, at_, List.flatten_append]
    exact List.perm_middle.symm
  exact queues.append_right _

theorem State.acked_four (four : s.mpq.length = 4) : (s.acked port w rest).mpq.length = 4 := List.length_set.trans four

/-- The oldest write that waits takes the place of the acknowledged one, where all queues were full (R28). -/
theorem State.acked_admitWrites {home : Nat} {x : MemWrite} {more : List (Nat × MemWrite)}
    (lt : port < 4) (oldest : s.mpq.getD port [] = w :: rest) (wait : s.mpWait = (home, x) :: more) (four : s.mpq.length = 4)
    (full : ∀ p, p < 4 → (s.mpq.getD p []).length = 64) :
    (s.acked port w rest).admitWrites.mpq = s.mpq.set port (rest ++ [x])
      ∧ (s.acked port w rest).admitWrites.mpWait.map Prod.snd = more.map Prod.snd := by
  have here : (s.mpq.set port rest).getD port [] = rest := by
    rw [List.getD_eq_getElem?_getD, List.getElem?_set_self (four.symm ▸ lt)]
    rfl
  have other (o : Nat) (ne : o ≠ port) : (s.mpq.set port rest).getD o [] = s.mpq.getD o [] := by
    rw [List.getD_eq_getElem?_getD, List.getElem?_set_ne (Ne.symm ne), List.getD_eq_getElem?_getD]
  have length : rest.length = 63 := Nat.succ.inj ((congrArg List.length oldest).symm.trans (full port lt))
  have admitted := State.admitWrites_of_room (s := s.acked port w rest) lt (State.acked_four four) wait ((congrArg List.length
      here).trans length)
    fun o ho ne => ((congrArg List.length (other o ne)).trans (full o ho)).ge
  refine ⟨(congrArg State.mpq admitted).trans ?_, (congrArg (fun t : State => t.mpWait.map Prod.snd) admitted).trans List.map_map⟩
  refine (List.modify_eq_set _ port (s.mpq.set port rest)).trans ((List.set_set ..).trans ?_)
  exact congrArg (fun l => s.mpq.set port (l ++ [x])) ((List.getD_eq_getElem?_getD ..).symm.trans here)

end acked

/-- What an acknowledged write `w` leaves in `t` (R28, R244). -/
def State.Acks (s t : State) (port : Nat) (w : MemWrite) (rest : List MemWrite) : Prop :=
  (∀ a, (∀ c ∈ w.cells, c.1 ≠ a) → memByte t.mem a = memByte s.mem a)
  ∧ ((w.cells.map Prod.fst).Nodup → ∀ c ∈ w.cells, memByte t.mem c.1 = (memByte s.mem c.1 &&& ~~~c.2.1) ||| (c.2.2 &&& c.2.1))
  ∧ (s.mpWait = [] → t.mpq = s.mpq.set port rest ∧ t.mpWait = [])
  ∧ (s.mpq.length = 4 → (w :: t.writes).Perm s.writes)
  ∧ (∀ home x more, s.mpWait = (home, x) :: more → s.mpq.length = 4 → (∀ p, p < 4 → (s.mpq.getD p []).length = 64) →
    t.mpq = s.mpq.set port (rest ++ [x]) ∧ t.mpWait.map Prod.snd = more.map Prod.snd)
  ∧ (∀ slot, w.writer = .spill slot → t.spilled = s.spilled.map fun x => if x.slot = slot then { x with acked := true } else x)
  ∧ ((∀ slot, w.writer ≠ .spill slot) → t.spilled = s.spilled)
  ∧ t = { s with mem := t.mem, mpq := t.mpq, mpWait := t.mpWait, spilled := t.spilled }

theorem State.acks {port : Nat} {w : MemWrite} {rest : List MemWrite} (lt : port < 4) (oldest : s.mpq.getD port [] = w :: rest)
    (canon : s.Canonical) : s.Acks (s.acked port w rest).admitWrites port w rest := by
  have only : (s.acked port w rest).admitWrites = (s.acked port w rest).withQueues _ _ := State.admitWrites_only _
  have mem : (s.acked port w rest).admitWrites.mem = memSetMasked s.mem w.cells := (congrArg State.mem only).trans rfl
  have spilled : (s.acked port w rest).admitWrites.spilled = (s.acked port w rest).spilled := (congrArg State.spilled only).trans rfl
  refine ⟨fun a out => ?_, fun distinct c hc => ?_, fun none_ => ?_, fun four => ?_,
    fun home x more wait four full => State.acked_admitWrites lt oldest wait four full,
    fun slot e => spilled.trans (congrArg (ackSpills s.spilled) e), fun e => spilled.trans (ackSpills_none e), ?_⟩
  · exact (congrArg (memByte · a) mem).trans (memByte_memSetMasked_other _ _ _ out)
  · exact (congrArg (memByte · c.1) mem).trans (memByte_memSetMasked_of_mem distinct canon.mem c hc)
  · have admitted := State.admitWrites_of_none (s := s.acked port w rest) none_
    exact ⟨congrArg State.mpq admitted, congrArg State.mpWait admitted⟩
  · exact ((State.admitWrites_writes _ (State.acked_four four)).1.cons w).trans (State.acked_writes oldest)
  · rw [mem, spilled]
    exact only

/-- Settles O54: each part is what one transfer or one acknowledged write does. -/
theorem egressAndWrites : Obligations.EgressAndWrites := fun s awake =>
  have clauses : (∀ n : Fin 32, s.testing = false → s.bayOn n.val = true ∨ s.isLost n.val = true →
        exec (.soTransfer n) s = .next (s.mapBay n.val fun b => b.sends b.egress.tail))
      ∧ (∀ n : Fin 32, s.bayOn n.val = false → s.isLost n.val = false → exec (.soTransfer n) s = .next s)
      ∧ (∀ port : Fin 4, s.mpq.getD port.val [] = [] → exec (.memoryWriteAck port) s = .next s)
      ∧ ∀ (port : Fin 4) (w : MemWrite) (rest : List MemWrite), s.mpq.getD port.val [] = w :: rest → s.Canonical →
        ∃ t, exec (.memoryWriteAck port) s = .next t ∧ s.Acks t port.val w rest :=
    ⟨fun _ => soTransfer_eq awake, fun _ => soTransfer_idle, fun _ => memoryWriteAck_none,
      fun port _ _ oldest canon => ⟨_, memoryWriteAck_eq awake oldest, State.acks port.isLt oldest canon⟩⟩
  clauses

end Sys2Proof.Machine

/-! ### Gating of a bay (R248, R312) -/

namespace Sys2Proof.Machine

variable {s : State} {n : Fin 32} {p i : Nat}

theorem ite_lt_of_lt {q : Prop} [Decidable q] {a b k : Nat} (left : a < k) (right : b < k) : (if q then a else b) < k := by
  split
  · exact left
  · exact right

/-- There are 38 power domains, and each bay has its own (R13, R312). -/
theorem State.physBay_lt : s.physBay n.val < 38 :=
  have own : n.val < 38 := n.isLt.trans (by decide)
  ite_lt_of_lt own (ite_lt_of_lt (by decide) (ite_lt_of_lt (by decide) own))

theorem domainBit (p i : Nat) : (BitVec.ofNat 38 (2 ^ p)).getLsbD i = (decide (i < 38) && decide (p = i)) := by
  rw [BitVec.getLsbD_ofNat, Nat.testBit_two_pow]

theorem domainBit_ne (ne : i ≠ p) : (BitVec.ofNat 38 (2 ^ p)).getLsbD i = false := by
  rw [domainBit, decide_eq_false ne.symm, Bool.and_false]

/-- The power domains without domain `p`. -/
theorem getLsbD_domainOff (d : BitVec 38) (p i : Nat) :
    (d &&& ~~~(BitVec.ofNat 38 (2 ^ p))).getLsbD i = (d.getLsbD i && (decide (i < 38) && !(BitVec.ofNat 38 (2 ^ p)).getLsbD i)) := by
  rw [BitVec.getLsbD_and, BitVec.getLsbD_not]

theorem State.domainOff_self : (s.domainOff p).pwr.domains.toNat.testBit p = false := by
  refine (getLsbD_domainOff _ p p).trans ?_
  rw [domainBit, decide_eq_true (rfl : p = p), Bool.and_true, Bool.and_not_self, Bool.and_false]

theorem State.domainOff_ne (ne : i ≠ p) : (s.domainOff p).pwr.domains.toNat.testBit i = s.pwr.domains.toNat.testBit i := by
  refine (getLsbD_domainOff _ p i).trans ?_
  rw [domainBit_ne ne, Bool.not_false, Bool.and_true]
  exact Bool.and_eq_left_iff_imp.2 fun on => decide_eq_true (BitVec.lt_of_getLsbD on)

theorem State.domainOn_self (lt : p < 38) : (s.domainOn p).pwr.domains.toNat.testBit p = true := by
  refine BitVec.getLsbD_or.trans ?_
  rw [domainBit, decide_eq_true lt, decide_eq_true (rfl : p = p), Bool.and_true, Bool.or_true]

theorem State.domainOn_ne (ne : i ≠ p) : (s.domainOn p).pwr.domains.toNat.testBit i = s.pwr.domains.toNat.testBit i := by
  refine BitVec.getLsbD_or.trans ?_
  rw [domainBit_ne ne, Bool.or_false]
  rfl

/-- The window of bay `n` begins anew. -/
noncomputable def State.anew (s : State) (n : Nat) : State := s.mapBay n fun b => { b with window := 0 }

/-- The bay holds no header, no operation and no egress entry. -/
def Bay.Empty (b : Bay) : Prop := b.tiles = [] ∧ b.held = none ∧ b.egress = []

/-- Nothing but the domain of bay `n` has changed, and its window. -/
def State.OthersAnew (s t : State) (n : Fin 32) : Prop :=
  (∀ i, i ≠ s.physBay n.val → t.pwr.domains.toNat.testBit i = s.pwr.domains.toNat.testBit i)
  ∧ t = { s.anew n.val with pwr := { s.pwr with domains := t.pwr.domains } }

theorem bayGate_gates (run : s.pwr.phase = .run) (off : s.pwr.bayOff.toNat.testBit n.val = true) (idle : (s.bay n.val).Empty) :
    exec (.bayGate n) s = .next ((s.domainOff (s.physBay n.val)).anew n.val) := if_pos ⟨run, off, idle⟩

theorem bayGate_stays (kept : s.pwr.bayOff.toNat.testBit n.val = false ∨ ¬ (s.bay n.val).Empty) : exec (.bayGate n) s = .next s :=
  if_neg fun gates => kept.elim (fun on => Bool.false_ne_true (on.symm.trans gates.2.1)) fun busy => busy gates.2.2

theorem bayPowerRestored_restores (run : s.pwr.phase = .run) (wanted : s.wantsBay (s.physBay n.val) = true) (off : s.bayOn n.val = false) :
    exec (.bayPowerRestored n) s = .next ((s.domainOn (s.physBay n.val)).anew n.val) := if_pos ⟨run, wanted, off⟩

theorem bayPowerRestored_stays (kept : s.wantsBay (s.physBay n.val) = false ∨ s.bayOn n.val = true) :
    exec (.bayPowerRestored n) s = .next s :=
  if_neg fun back => kept.elim (fun no => Bool.false_ne_true (no.symm.trans back.2.1)) fun on => Bool.false_ne_true (back.2.2.symm.trans on)

/-- Settles O30: each row moves the one bit of the bay's domain, when its condition holds. -/
theorem bayGating : Obligations.BayGating :=
  have clauses : ∀ (n : Fin 32) (s : State), s.pwr.phase = .run →
      (s.pwr.bayOff.toNat.testBit n.val = true → (s.bay n.val).Empty → ∃ t, exec (.bayGate n) s = .next t ∧ t.bayOn n.val = false
          ∧ s.OthersAnew t n)
      ∧ (s.pwr.bayOff.toNat.testBit n.val = false ∨ ¬ (s.bay n.val).Empty → exec (.bayGate n) s = .next s)
      ∧ (s.wantsBay (s.physBay n.val) = true → s.bayOn n.val = false →
        ∃ t, exec (.bayPowerRestored n) s = .next t ∧ t.bayOn n.val = true ∧ s.OthersAnew t n)
      ∧ (s.wantsBay (s.physBay n.val) = false ∨ s.bayOn n.val = true → exec (.bayPowerRestored n) s = .next s) :=
    fun _ _ run => ⟨fun off idle => ⟨_, bayGate_gates run off idle, State.domainOff_self, fun _ => State.domainOff_ne, rfl⟩, bayGate_stays,
      fun wanted off => ⟨_, bayPowerRestored_restores run wanted off, State.domainOn_self State.physBay_lt, fun _ => State.domainOn_ne,
          rfl⟩,
      bayPowerRestored_stays⟩
  clauses

end Sys2Proof.Machine

/-! ### Guarded rows whose register has rules of its own (R120, R126, R195, R201) -/

namespace Sys2Proof.Machine

theorem refusal_code {code : Nat} (refuses : code = codePROT ∨ code = codeDENY) : code ≠ codeOK ∧ code ≠ codeBUSY ∧ code ≠ codeSTALE :=
  refuses.elim (fun e => e ▸ by decide) (fun e => e ▸ by decide)

section row

variable {s : State} {p : Port} {q : LathReq} {r : Reg} {row : LathReq → Bool} {env : StartEnv} {f : State → State}
  (h : s.Serves p q) (takes : row q = true) (w : Writes q r) (own : s.Holds p q)
  (plain : r ≠ .semCmd ∧ r ≠ .imgCmd ∧ r.levelled = false)
include h w own plain

theorem State.row_judged : (s.popped p).judged (.port p) q.write q.addr q.gen q.data env
    = (s.popped p).writeHome (.port p) q.gen q.data.toNat env r :=
  State.judged_home h w plain.1 (State.forbids_of_not_levelled _ _ plain.2.2) (fun _ => own) (absurd · plain.2.1)

include takes

/-- The register's own rule answers OK. -/
theorem State.row_executed (home : (s.popped p).writeHome (.port p) q.gen q.data.toNat env r = State.ok (f (s.popped p)))
    (alone : (f (s.popped p)).tap = s.tap) : s.lathRow p row env = .next (s.executed p q f) :=
  State.lathRow_executed h takes ((State.row_judged h w own plain).trans home) alone

/-- The register's own rule answers BUSY. -/
theorem State.row_busied (home : (s.popped p).writeHome (.port p) q.gen q.data.toNat env r = (s.popped p).fail codeBUSY) :
    s.lathRow p row env = .next (s.busied p q) :=
  State.lathRow_busied h takes ((State.row_judged h w own plain).trans home)

/-- The register's own rule refuses the write. -/
theorem State.row_denied {code : Nat}
    (home : (s.popped p).writeHome (.port p) q.gen q.data.toNat env r = (s.popped p).fail code)
    (refuses : code = codePROT ∨ code = codeDENY) : s.lathRow p row env = .next (s.denied p q code q.data.toNat) := by
  obtain ⟨ok, busy, stale⟩ := refusal_code refuses
  refine (State.lathRow_denied h takes ((State.row_judged h w own plain).trans home) ok busy
    (fun _ e => plain.1 (Option.some.inj (w.reg.symm.trans e)))).trans ?_
  rw [if_neg stale, if_pos w.write]

end row

/-! What an executed request leaves: the effect of its row on the rest of the state. -/

section executed

variable {s : State} {p : Port} {q : LathReq} (f : State → State)

theorem State.executed_ctx (o : Nat) : (s.executed p q f).ctx o = (f (s.popped p)).ctx o := by
  rw [State.executed, State.ctx, State.respond_ctxs]
  rfl

theorem State.executed_allocated (o : Nat) : (s.executed p q f).allocated o = (f (s.popped p)).allocated o := by
  rw [State.executed, State.allocated, State.respond_alloc]
  rfl

theorem State.executed_ctl : (s.executed p q f).ctl = (f (s.popped p)).ctl := State.respond_ctl ..

theorem State.executed_writes : (s.executed p q f).writes = (f (s.popped p)).writes := by
  rw [State.executed, State.writes, State.respond_mpq, State.respond_mpWait]
  rfl

theorem State.popped_writes : (s.popped p).writes = s.writes := by
  rw [State.writes, State.popped_mpq, State.popped_mpWait]
  rfl

theorem State.executed_puts {f : State → State} {ws : List MemWrite} (puts : (s.popped p).Puts (f (s.popped p)) ws) :
    s.Puts (s.executed p q f) ws := by
  rw [State.Puts, State.popped_writes] at puts
  rwa [State.Puts, State.executed_writes]

end executed


/-! ### The Scaffold window (R120, R126) -/

variable {s : State} {p : Port} {q : LathReq} {k : Nat}

theorem rowWindow_of_writes (w : Writes q (.window k)) : rowWindow q = true := by
  simp [rowWindow, writesTo, w.write, w.reg]

@[simp] theorem State.popped_ctxInFlight (c : Nat) : (s.popped p).ctxInFlight c = s.ctxInFlight c := by cases p <;> rfl
@[simp] theorem State.popped_allocated (c : Nat) : (s.popped p).allocated c = s.allocated c := by cases p <;> rfl
@[simp] theorem State.popped_ctx (c : Nat) : (s.popped p).ctx c = s.ctx c := by cases p <;> rfl

/-- A word of a context is set, and its poison is gone (R126, R338). -/
noncomputable def State.windowSet (s : State) (c i d : Nat) : State :=
  { s.setCtx c ((s.ctx c).setWord i d) with poison := s.poison.filter (· != c) }

/-- The context that window word `k` stands in. -/
noncomputable def State.windowCtx (s : State) (k : Nat) : Nat := s.ctl.ctxBase.toNat + k / 4

theorem State.popped_windowCtx : (s.popped p).windowCtx k = s.windowCtx k := congrArg (·.ctxBase.toNat + k / 4) (State.popped_ctl s p)

/-- The state after a window write that is executed. -/
noncomputable def State.windowWritten (s : State) (p : Port) (q : LathReq) (k : Nat) : State :=
  s.executed p q fun x => x.windowSet (s.windowCtx k) (k % 4) q.data.toNat

theorem window_plain (k : Nat) : Reg.window k ≠ .semCmd ∧ Reg.window k ≠ .imgCmd ∧ (Reg.window k).levelled = false :=
  ⟨by simp, by simp, rfl⟩

section rules

variable (h : s.Serves p q) (w : Writes q (.window k)) (own : s.Holds p q)
include h w own

theorem windowWrite_busied (held : s.ctxInFlight (s.windowCtx k) = true) : exec (.scaffoldWindowWrite p) s = .next (s.busied p q) := by
  refine State.row_busied h (rowWindow_of_writes w) w own (window_plain k) (if_pos ?_)
  show (s.popped p).ctxInFlight ((s.popped p).windowCtx k) = true
  rw [State.popped_windowCtx, State.popped_ctxInFlight, held]

theorem windowWrite_denied (free : s.ctxInFlight (s.windowCtx k) = false) (absent : s.allocated (s.windowCtx k) = false) :
    exec (.scaffoldWindowWrite p) s = .next (s.denied p q codeDENY q.data.toNat) := by
  rw [← State.popped_windowCtx (p := p), ← State.popped_ctxInFlight (p := p)] at free
  rw [← State.popped_windowCtx (p := p), ← State.popped_allocated (p := p)] at absent
  exact State.row_denied h (rowWindow_of_writes w) w own (window_plain k) ((if_neg (Bool.eq_false_iff.1 free)).trans (if_pos (congrArg
      not absent))) (.inr rfl)

theorem windowWrite_executed (free : s.ctxInFlight (s.windowCtx k) = false) (present : s.allocated (s.windowCtx k) = true) :
    exec (.scaffoldWindowWrite p) s = .next (s.windowWritten p q k) := by
  rw [← State.popped_windowCtx (p := p), ← State.popped_ctxInFlight (p := p)] at free
  rw [← State.popped_windowCtx (p := p), ← State.popped_allocated (p := p)] at present
  unfold State.windowWritten
  rw [← State.popped_windowCtx (p := p)]
  exact State.row_executed h (rowWindow_of_writes w) w own (window_plain k)
    ((if_neg (Bool.eq_false_iff.1 free)).trans (if_neg (Bool.eq_false_iff.1 (congrArg not present)))) (State.popped_tap s p)

end rules

/-! What a context reads as, word by word (R120). -/

section words

variable {c : RowCtx}

theorem b2n_lt (b : Bool) : b2n b < 2 ^ 1 := by cases b <;> decide

/-- Word `i` of a context as its window gives it (R120). -/
noncomputable def RowCtx.part (c : RowCtx) : Nat → Nat
  | 0 => c.pivot.toNat + 2 ^ 24 * b2n c.nanSeen + 2 ^ 25 * b2n c.infSeen + 2 ^ 32 * c.psum.toNat
  | 1 => c.sum.toNat + 2 ^ 32 * c.sumsq.toNat
  | 2 => c.maxv.toNat + 2 ^ 32 * c.minv.toNat
  | _ => c.blockloss.toNat + 2 ^ 16 * c.etx.toNat + 2 ^ 28 * b2n c.etv + 2 ^ 32 * c.count.toNat

/-- A field above bit `m` keeps a number within the field's bits. -/
theorem add_field_lt {a x m n : Nat} (ha : a < 2 ^ m) (hx : x < 2 ^ n) : a + 2 ^ m * x < 2 ^ (m + n) :=
  calc a + 2 ^ m * x < 2 ^ m + 2 ^ m * x := Nat.add_lt_add_right ha _
    _ = 2 ^ m * (x + 1) := (Nat.add_comm ..).trans (Nat.mul_succ ..).symm
    _ ≤ 2 ^ m * 2 ^ n := Nat.mul_le_mul_left _ hx
    _ = 2 ^ (m + n) := (Nat.pow_add ..).symm

theorem RowCtx.part_lt (c : RowCtx) : ∀ i, c.part i < 2 ^ 64
  | 0 => add_field_lt ((add_field_lt (add_field_lt c.pivot.isLt (b2n_lt _)) (b2n_lt _)).trans (by decide)) c.psum.isLt
  | 1 => add_field_lt c.sum.isLt c.sumsq.isLt
  | 2 => add_field_lt c.maxv.isLt c.minv.isLt
  | _ + 3 => add_field_lt ((add_field_lt (add_field_lt c.blockloss.isLt c.etx.isLt) (b2n_lt _)).trans (by decide)) c.count.isLt

/-- A field joins the part above bit 64. -/
theorem add_field {x p b : Nat} (n y : Nat) (h : x = p + 2 ^ 64 * b) : x + 2 ^ (64 + n) * y = p + 2 ^ 64 * (b + 2 ^ n * y) := by
  rw [h, Nat.pow_add, Nat.mul_assoc, Nat.add_assoc, Nat.mul_add]

theorem RowCtx.word_eq (c : RowCtx) : c.word = c.part 0 + 2 ^ 64 * (c.part 1 + 2 ^ 64 * (c.part 2 + 2 ^ 64 * c.part 3)) :=
  (add_field 160 _ (add_field 156 _ (add_field 144 _ (add_field 128 _ (add_field 96 _ (add_field 64 _ (add_field 32 _ rfl))))))).trans
    (congrArg (c.part 0 + 2 ^ 64 * ·)
      ((add_field 96 _ (add_field 92 _ (add_field 80 _ (add_field 64 _ (add_field 32 _ rfl))))).trans
        (congrArg (c.part 1 + 2 ^ 64 * ·) (add_field 32 _ (add_field 28 _ (add_field 16 _ rfl))))))

/-- The lowest of the words of 64 bits. -/
theorem word64_digit_zero {a b : Nat} (ha : a < 2 ^ 64) : word64 (a + 2 ^ 64 * b) 0 = a :=
  (Nat.add_mul_mod_self_left a (2 ^ 64) b).trans (Nat.mod_eq_of_lt ha)

theorem word64_digit_succ {a b : Nat} (i : Nat) (ha : a < 2 ^ 64) : word64 (a + 2 ^ 64 * b) (i + 1) = word64 b i := by
  have low : (a + 2 ^ 64 * b) >>> 64 = b := by
    rw [Nat.shiftRight_eq_div_pow, Nat.add_mul_div_left a b (by decide), Nat.div_eq_of_lt ha, Nat.zero_add]
  rw [word64, Nat.mul_succ, Nat.add_comm (64 * i), Nat.shiftRight_add, low]
  rfl

/-- The four words of a context. -/
theorem forall_lt_four {P : Nat → Prop} (h0 : P 0) (h1 : P 1) (h2 : P 2) (h3 : P 3) : ∀ {i : Nat}, i < 4 → P i
  | 0, _ => h0
  | 1, _ => h1
  | 2, _ => h2
  | 3, _ => h3
  | i + 4, lt => absurd lt (Nat.not_lt.2 (Nat.le_add_left 4 i))

theorem RowCtx.word64_word {i : Nat} (hi : i < 4) : word64 c.word i = c.part i := by
  rw [c.word_eq]
  exact forall_lt_four (P := fun i => word64 _ i = c.part i) (word64_digit_zero (c.part_lt 0))
    ((word64_digit_succ 0 (c.part_lt 0)).trans (word64_digit_zero (c.part_lt 1)))
    ((word64_digit_succ 1 (c.part_lt 0)).trans ((word64_digit_succ 0 (c.part_lt 1)).trans (word64_digit_zero (c.part_lt 2))))
    ((word64_digit_succ 2 (c.part_lt 0)).trans ((word64_digit_succ 1 (c.part_lt 1)).trans ((word64_digit_succ 0 (c.part_lt 2)).trans
      (word64_digit_zero (b := 0) (c.part_lt 3))))) hi

/-- The bits of word `i` that a context holds: the rest is reserved (R120, R126). -/
noncomputable def heldBits (i d : Nat) : Nat :=
  if i = 0 then d % 2 ^ 26 + d / 2 ^ 32 * 2 ^ 32 else if i = 3 then d % 2 ^ 29 + d / 2 ^ 32 * 2 ^ 32 else d

/-- Two neighbouring fields of a number are one field. -/
theorem mod_add_field (d a b : Nat) : d % 2 ^ a + 2 ^ a * (d / 2 ^ a % 2 ^ b) = d % 2 ^ (a + b) := by rw [Nat.pow_add, Nat.mod_mul]

theorem mod_add_bit (d a : Nat) : d % 2 ^ a + 2 ^ a * b2n (bit d a) = d % 2 ^ (a + 1) := by
  rw [b2n_bit, ← mod_add_field, Nat.pow_one]

theorem ofNat_bits_low (d w : Nat) : (BitVec.ofNat (w + 1) (bits d w 0)).toNat = d % 2 ^ (w + 1) := by
  rw [BitVec.toNat_ofNat, bits_eq_div_mod, Nat.pow_zero, Nat.div_one, Nat.sub_zero, Nat.mod_mod]

/-- The upper half of a word of 64 bits. -/
theorem ofNat_bits_high {d : Nat} (hd : d < 2 ^ 64) : (BitVec.ofNat 32 (bits d 63 32)).toNat = d / 2 ^ 32 := by
  have high : d / 2 ^ 32 < 2 ^ 32 := Nat.div_lt_of_lt_mul hd
  rw [BitVec.toNat_ofNat, bits_eq_div_mod, Nat.mod_mod]
  exact Nat.mod_eq_of_lt high

theorem word_halves {d : Nat} (hd : d < 2 ^ 64) : (BitVec.ofNat 32 (bits d 31 0)).toNat + 2 ^ 32 * (BitVec.ofNat 32 (bits d 63
    32)).toNat = d := by
  rw [ofNat_bits_high hd, ofNat_bits_low, Nat.mod_add_div]

/-- A field of a number with what stands in the upper half. -/
theorem add_high {a b d : Nat} (low : a = b) (hd : d < 2 ^ 64) :
    a + 2 ^ 32 * (BitVec.ofNat 32 (bits d 63 32)).toNat = b + d / 2 ^ 32 * 2 ^ 32 := by
  rw [low, ofNat_bits_high hd, Nat.mul_comm]

theorem RowCtx.part_setWord_self {i d : Nat} (hi : i < 4) (hd : d < 2 ^ 64) : (c.setWord i d).part i = heldBits i d := by
  have first : (BitVec.ofNat 24 (bits d 23 0)).toNat + 2 ^ 24 * b2n (bit d 24) + 2 ^ 25 * b2n (bit d 25) = d % 2 ^ 26 := by
    rw [ofNat_bits_low, mod_add_bit d 24, mod_add_bit d 25]
  have last : (BitVec.ofNat 16 (bits d 15 0)).toNat + 2 ^ 16 * (BitVec.ofNat 12 (bits d 27 16)).toNat + 2 ^ 28 * b2n (bit d 28) =
      d % 2 ^ 29 := by
    rw [ofNat_bits_low, BitVec.toNat_ofNat, bits_eq_div_mod, Nat.mod_mod, mod_add_field d 16 12, mod_add_bit d 28]
  exact forall_lt_four (P := fun i => (c.setWord i d).part i = heldBits i d) (add_high first hd) (word_halves hd) (word_halves hd)
      (add_high last hd) hi

theorem RowCtx.part_setWord_of_ne {i j d : Nat} (hi : i < 4) (hj : j < 4) (ne : j ≠ i) : (c.setWord i d).part j = c.part j := by
  exact forall_lt_four (P := fun i => j ≠ i → (c.setWord i d).part j = c.part j)
    (forall_lt_four (P := fun j => j ≠ 0 → (c.setWord 0 d).part j = c.part j) (absurd rfl) (fun _ => rfl) (fun _ => rfl) (fun _ => rfl) hj)
    (forall_lt_four (P := fun j => j ≠ 1 → (c.setWord 1 d).part j = c.part j) (fun _ => rfl) (absurd rfl) (fun _ => rfl) (fun _ => rfl) hj)
    (forall_lt_four (P := fun j => j ≠ 2 → (c.setWord 2 d).part j = c.part j) (fun _ => rfl) (fun _ => rfl) (absurd rfl) (fun _ => rfl) hj)
    (forall_lt_four (P := fun j => j ≠ 3 → (c.setWord 3 d).part j = c.part j) (fun _ => rfl) (fun _ => rfl) (fun _ => rfl) (absurd rfl)
        hj) hi ne

theorem RowCtx.word64_setWord_self {i d : Nat} (hi : i < 4) (hd : d < 2 ^ 64) : word64 (c.setWord i d).word i = heldBits i d :=
  (RowCtx.word64_word hi).trans (RowCtx.part_setWord_self hi hd)

theorem RowCtx.word64_setWord_of_ne {i j d : Nat} (hi : i < 4) (hj : j < 4) (ne : j ≠ i) :
    word64 (c.setWord i d).word j = word64 c.word j :=
  (RowCtx.word64_word hj).trans ((RowCtx.part_setWord_of_ne hi hj ne).trans (RowCtx.word64_word hj).symm)

end words

/-! The state after the write. -/

theorem State.windowWritten_ctl : (s.windowWritten p q k).ctl = s.ctl := (State.executed_ctl _).trans (State.popped_ctl s p)

theorem State.windowWritten_allocated (o : Nat) : (s.windowWritten p q k).allocated o = s.allocated o :=
  (State.executed_allocated _ o).trans (State.popped_allocated o)

theorem State.windowWritten_ctx (wf : swf RowCtx.zero s.ctxs = true) (o : Nat) : (s.windowWritten p q k).ctx o
    = if o = s.windowCtx k then (s.ctx (s.windowCtx k)).setWord (k % 4) q.data.toNat else s.ctx o := by
  refine ((State.executed_ctx _ o).trans ((s.popped p).ctx_setCtx (s.windowCtx k) o _ (State.popped_ctxs s p ▸ wf))).trans ?_
  rw [State.popped_ctx, State.popped_ctx]

theorem State.windowWritten_only : s.windowWritten p q k = s.executed p q fun x => { x with
    ctxs := (s.windowWritten p q k).ctxs, poison := x.poison.filter (· ≠ s.windowCtx k) } := by
  have ctxs : (s.windowWritten p q k).ctxs = ((s.popped p).windowSet (s.windowCtx k) (k % 4) q.data.toNat).ctxs := State.respond_ctxs ..
  have same : (fun o : Nat => o != s.windowCtx k) = fun o => decide (o ≠ s.windowCtx k) := funext fun o => (decide_not (p := o =
      s.windowCtx k)).symm
  rw [ctxs, ← same]
  rfl

theorem State.windowWritten_readReg (b : Bool) (j : Nat) : (s.windowWritten p q k).readReg b (.window j) =
    if s.allocated (s.windowCtx j) then word64 ((s.windowWritten p q k).ctx (s.windowCtx j)).word (j % 4) else 0 := by
  rw [← State.windowWritten_allocated (p := p) (q := q) (k := k), State.windowCtx, ← State.windowWritten_ctl (p := p) (q := q) (k := k)]
  rfl

theorem mod_four_ne {j k c : Nat} (ne : j ≠ k) (same : c + j / 4 = c + k / 4) : j % 4 ≠ k % 4 := fun digit =>
  ne ((Nat.div_add_mod j 4).symm.trans ((congrArg₂ (4 * · + ·) (Nat.add_left_cancel same) digit).trans (Nat.div_add_mod k 4)))

/-- Only word `k` of the window has changed, to what a context holds of the data. -/
def State.WindowSet (s t : State) (p : Port) (q : LathReq) (k : Nat) : Prop :=
  (∀ b, t.readReg b (.window k) = heldBits (k % 4) q.data.toNat)
  ∧ (∀ b j, j ≠ k → t.readReg b (.window j) = s.readReg b (.window j))
  ∧ (∀ o, o ≠ s.windowCtx k → t.ctx o = s.ctx o)
  ∧ t = s.executed p q fun x => { x with ctxs := t.ctxs, poison := x.poison.filter (· ≠ s.windowCtx k) }

theorem State.windowWritten_readReg_other (wf : swf RowCtx.zero s.ctxs = true) (b : Bool) {j : Nat} (ne : j ≠ k) :
    (s.windowWritten p q k).readReg b (.window j) = s.readReg b (.window j) := by
  rw [State.windowWritten_readReg, State.windowWritten_ctx wf]
  by_cases same : s.windowCtx j = s.windowCtx k
  · rw [if_pos same, RowCtx.word64_setWord_of_ne (Nat.mod_lt _ (by decide)) (Nat.mod_lt _ (by decide)) (mod_four_ne ne same), ← same]
    rfl
  · rw [if_neg same]
    rfl

theorem State.windowWritten_windowSet (wf : swf RowCtx.zero s.ctxs = true) (present : s.allocated (s.windowCtx k) = true) :
    s.WindowSet (s.windowWritten p q k) p q k := by
  refine ⟨fun b => ?_, fun b j ne => State.windowWritten_readReg_other wf b ne, fun o ne => (State.windowWritten_ctx wf o).trans
      (if_neg ne),
    State.windowWritten_only⟩
  rw [State.windowWritten_readReg, State.windowWritten_ctx wf, if_pos rfl, if_pos present]
  exact RowCtx.word64_setWord_self (Nat.mod_lt _ (by decide)) q.data.isLt

/-- Settles O17: the window's own rule, and the word of the context that its write replaces. -/
theorem windowWrite : Obligations.WindowWrite :=
  have clauses : ∀ (p : Port) (q : LathReq) (k : Nat) (s : State), s.Serves p q → Writes q (.window k) → s.Holds p q → s.Canonical →
      (s.ctxInFlight (s.windowCtx k) = true → exec (.scaffoldWindowWrite p) s = .next (s.busied p q))
      ∧ (s.ctxInFlight (s.windowCtx k) = false → s.allocated (s.windowCtx k) = false →
        exec (.scaffoldWindowWrite p) s = .next (s.denied p q codeDENY q.data.toNat))
      ∧ (s.ctxInFlight (s.windowCtx k) = false → s.allocated (s.windowCtx k) = true →
        ∃ t, exec (.scaffoldWindowWrite p) s = .next t ∧ s.WindowSet t p q k) :=
    fun _ _ _ _ h w own canon => ⟨windowWrite_busied h w own, windowWrite_denied h w own,
      fun free present => ⟨_, windowWrite_executed h w own free present, State.windowWritten_windowSet canon.ctxs present⟩⟩
  clauses

end Sys2Proof.Machine

/-! ### Writes of the cores: how they land, and the routing pass (R27, R195 to R197) -/

namespace Sys2Proof.Machine

variable {s : State} {p : Port} {q : LathReq} {r : Reg} {row : LathReq → Bool} {a : W32} {m : List Host.Cell} {ws : List MemWrite}

/-- A write at the address of a register writes that register. -/
theorem WritesAt.writes (w : WritesAt q a) (reg : regOf a.toNat = some r) (aligned : a.toNat % 8 = 0) : Writes q r :=
  ⟨w.write, (congrArg (BitVec.toNat · % 8) w.addr).trans aligned, (congrArg (fun a : W32 => regOf a.toNat) w.addr).trans reg⟩

theorem rowBits_of_writes (w : Writes q r) (hi lo v : Nat) (e : bits q.data.toNat hi lo = v) : rowBits r hi lo v q = true := by
  simp only [rowBits, writesTo, w.write, w.reg, e]
  simp

theorem bits_zero_of_testBit {d : Nat} (one : d.testBit 0 = true) : bits d 0 0 = 1 := by
  rw [Nat.testBit_zero, decide_eq_true_eq] at one
  simpa using one

/-! Writes that land in memory. -/

theorem landAll_append (vs : List MemWrite) : landAll m (ws ++ vs) = landAll (landAll m ws) vs := List.foldl_append

/-- A byte that no write names is as before. -/
theorem memByte_landAll_of_not_named {x : Nat} (other : ∀ w ∈ ws, ∀ c ∈ w.cells, c.1 ≠ x) :
    memByte (landAll m ws) x = memByte m x := by
  induction ws generalizing m with
  | nil => rfl
  | cons w ws ih =>
    exact (ih fun v hv => other v (List.mem_cons_of_mem _ hv)).trans (memByte_memSetMasked_other _ _ _ (other w List.mem_cons_self))

theorem foldl_zipIdx_landAll (l : List MemWrite) : ∀ (k : Nat) (m : List Host.Cell),
    (l.zipIdx k).foldl (fun m x => memSetMasked m x.1.cells) m = landAll m l := by
  induction l with
  | nil => exact fun _ _ => rfl
  | cons w l ih => exact fun k m => ih (k + 1) _

/-- The writes of an agent that all land do so in their order. -/
theorem State.landWrites_all_mem (who : Writer) :
    (s.landWrites who fun _ => true).mem = landAll s.mem (s.writes.filter fun w => w.writer == who) :=
  (congrArg (List.foldl _ s.mem) (List.filter_true _)).trans (foldl_zipIdx_landAll _ 0 _)

theorem State.landWrites_writes (who : Writer) (land : Nat → Bool) (four : s.mpq.length = 4) :
    (s.landWrites who land).writes.Perm (s.writes.filter fun w => !(w.writer == who)) :=
  (s.dropWrites_writes _ four).1

/-- The bytes of a little-endian word. -/
theorem mem_leCells {x v n : Nat} {c : Nat × Byte × Byte} : c ∈ leCells x v n ↔
    ∃ j, j < n ∧ c = (x + j, 0xFF, BitVec.ofNat 8 (v >>> (8 * j))) := by
  simp [leCells, leBytes, eq_comm]

theorem leCells_ne_nil {x v n : Nat} (h : n ≠ 0) : leCells x v n ≠ [] := by simp [leCells, leBytes, h]

/-- A word inside an array stands in the array's range. -/
theorem mem_leCells_range {x v n b k size : Nat} {c : Nat × Byte × Byte} (mem : c ∈ leCells x v n) (at_ : x = b + k) (fits : k + n ≤ size) :
    b ≤ c.1 ∧ c.1 < b + size := by
  obtain ⟨j, lt, rfl⟩ := mem_leCells.1 mem
  rw [at_, Nat.add_assoc]
  exact ⟨Nat.le_add_right .., Nat.add_lt_add_left ((Nat.add_lt_add_left lt k).trans_le fits) b⟩

/-! The routing pass: where its writes stand (R196, R197). -/

variable {x : Route}

theorem routePairs_within (n : Nat) (major : Bool) : ∀ i ∈ routePairs major n, i.1 < n ∧ i.2 < 64 := by
  induction major
  · exact List.forall_mem_flatMap.2 fun _ he => List.forall_mem_map.2 fun _ hk => ⟨List.mem_range.1 he, List.mem_range.1 hk⟩
  · exact List.forall_mem_flatMap.2 fun _ he => List.forall_mem_map.2 fun _ hk => ⟨List.mem_range.1 hk, List.mem_range.1 he⟩

/-- Bytes in the entry array of a pass. -/
def Route.InEntries (x : Route) (l : List (Nat × Byte × Byte)) : Prop :=
  l ≠ [] ∧ ∀ c ∈ l, x.dst.toNat ≤ c.1 ∧ c.1 < x.dst.toNat + 1024 * x.nrec

/-- The entries of a pass so far stand in the entry array, and it counts every expert. -/
def RouteAcc.Within (x : Route) (acc : RouteAcc) : Prop := acc.counts.length = x.experts ∧ ∀ l ∈ acc.cells, x.InEntries l

/-- One pair's entry stands in its record's place of the entry array (R197). -/
theorem routeEntry_within {i e : Nat} (hi : i < x.nrec) (he : e < 64) (slot expert state value : Nat) :
    x.InEntries (routeEntry x.dst.toNat i e slot expert state value) :=
  ⟨leCells_ne_nil (by decide), fun _ mem => mem_leCells_range mem (Nat.add_assoc ..)
    ((Nat.add_le_add_left (Nat.mul_le_mul_left 16 he) (1024 * i)).trans (Nat.mul_le_mul_left 1024 hi))⟩

theorem RouteAcc.Within.ite {P : Prop} [Decidable P] {a b : RouteAcc} (ha : a.Within x) (hb : b.Within x) :
    (if P then a else b).Within x := by
  split
  · exact ha
  · exact hb

theorem RouteAcc.Within.step {acc : RouteAcc} {i : Nat × Nat} (h : acc.Within x) (hi : i.1 < x.nrec ∧ i.2 < 64) :
    (routeStep m x acc i).Within x := by
  have put (slot expert state value : Nat) := List.forall_mem_cons.2 ⟨routeEntry_within hi.1 hi.2 slot expert state value, h.2⟩
  unfold routeStep
  extract_lets
  exact .ite ⟨h.1, put _ _ _ _⟩ (.ite ⟨h.1, put _ _ _ _⟩
    (.ite ⟨(List.length_set ..).trans h.1, put _ _ _ _⟩ ⟨(List.length_set ..).trans h.1, put _ _ _ _⟩))

theorem foldl_routeStep_within (l : List (Nat × Nat)) : (∀ i ∈ l, i.1 < x.nrec ∧ i.2 < 64) → ∀ acc : RouteAcc, acc.Within x →
    (l.foldl (routeStep m x) acc).Within x := by
  induction l with
  | nil => exact fun _ _ h => h
  | cons i l ih => exact fun hl acc h => ih (fun k hk => hl k (.tail _ hk)) _ (h.step (hl i (.head _)))

theorem routePass_within : (routePass m x).Within x :=
  foldl_routeStep_within _ (routePairs_within _ _) _
    ⟨(List.length_map ..).trans List.length_range, fun _ mem => absurd mem List.not_mem_nil⟩

theorem Route.nrec_eq (x : Route) : x.nrec = x.ctl.toNat % 2 ^ 24 := by simp [Route.nrec]
theorem Route.experts_eq (x : Route) : x.experts = x.ctl.toNat / 2 ^ 24 % 2 ^ 13 := by simp [Route.experts]

/-- Bytes of a write of the pass: one entry, or one count (R197). -/
def Route.InArrays (x : Route) (c : Nat × Byte × Byte) : Prop :=
  (x.dst.toNat ≤ c.1 ∧ c.1 < x.dst.toNat + 1024 * x.nrec) ∨ (x.cnt.toNat ≤ c.1 ∧ c.1 < x.cnt.toNat + 8 * x.experts)

theorem Route.InArrays.place {c : Nat × Byte × Byte} (h : x.InArrays c) :
    (x.dst.toNat ≤ c.1 ∧ c.1 < x.dst.toNat + 1024 * (x.ctl.toNat % 2 ^ 24))
      ∨ (x.cnt.toNat ≤ c.1 ∧ c.1 < x.cnt.toNat + 8 * (x.ctl.toNat / 2 ^ 24 % 2 ^ 13)) := by
  rwa [← Route.nrec_eq, ← Route.experts_eq]

theorem count_within {k : (Nat × Nat) × Nat} (lt : k.2 < x.experts) (v : Nat) : leCells (x.cnt.toNat + 8 * k.2) v 8 ≠ []
    ∧ ∀ c ∈ leCells (x.cnt.toNat + 8 * k.2) v 8, x.InArrays c :=
  ⟨leCells_ne_nil (by decide), fun _ mem => .inr (mem_leCells_range mem rfl (Nat.mul_le_mul_left 8 lt))⟩

theorem routePass_writes : ∀ w ∈ (routePass m x).writes x, w.writer = .pass false ∧ w.cells ≠ [] ∧ ∀ c ∈ w.cells, x.InArrays c := by
  obtain ⟨counts, entries⟩ := routePass_within (m := m) (x := x)
  refine List.forall_mem_map.2 (List.forall_mem_append.2 ⟨fun l entry => ⟨rfl, ?_⟩, List.forall_mem_map.2 fun k at_ => ⟨rfl, ?_⟩⟩)
  · exact (entries l (List.mem_reverse.1 entry)).imp_right fun place c mem => .inl (place c mem)
  · exact count_within (counts ▸ List.snd_lt_of_mem_zipIdx at_) _

/-! ROUTE_GO (R195). -/

theorem Route.capacity_eq (x : Route) : x.capacity = x.ctl.toNat / 2 ^ 40 := by
  have lt : x.ctl.toNat / 2 ^ 40 < 2 ^ 24 := Nat.div_lt_of_lt_mul x.ctl.isLt
  unfold Route.capacity
  rw [bits_eq_div_mod, Nat.mod_eq_of_lt lt]

/-- What ROUTE_GO refuses (R195). -/
def Route.Bad (x : Route) : Prop :=
  x.ctl.toNat % 2 ^ 24 = 0 ∨ x.ctl.toNat / 2 ^ 24 % 2 ^ 13 = 0 ∨ 4096 < x.ctl.toNat / 2 ^ 24 % 2 ^ 13 ∨ x.ctl.toNat / 2 ^ 40 = 0

theorem Route.bad_iff (x : Route) : (x.nrec = 0 ∨ x.experts = 0 ∨ 4096 < x.experts ∨ x.capacity = 0) ↔ x.Bad := by
  rw [x.nrec_eq, x.experts_eq, x.capacity_eq]
  rfl

/-- The pass of ROUTE_GO starts, and puts its writes before the ports where a core runs. -/
noncomputable def State.routeStarted (s : State) : State :=
  State.routeIssue { s with route := { s.route with busy := true, done := false, badIdx := false, doneRecs := 0, issued := none } }

/-- The pass as it has started. -/
noncomputable def State.routeGoing (s : State) : Route :=
  { s.route with
    busy := true, done := false, badIdx := false, doneRecs := 0
    issued := if s.coresRun then some (routePass s.mem s.route).bad else none }

/-- The writes that stand before the ports from ROUTE_GO on. -/
noncomputable def State.routeWrites (s : State) : List MemWrite := if s.coresRun then (routePass s.mem s.route).writes s.route else []

/-- A state with another pass, and other writes that wait. -/
noncomputable def State.passed (s : State) (x : Route) (mpq : List (List MemWrite)) (mpWait : List (Nat × MemWrite)) : State :=
  { s with route := x, mpq := mpq, mpWait := mpWait }

theorem State.memWrites_passed (x : Route) (ws : List MemWrite) :
    ∃ mpq mpWait, (s.passed x s.mpq s.mpWait).memWrites ws = s.passed x mpq mpWait :=
  ⟨_, _, State.memWrites_only (s := s.passed x s.mpq s.mpWait) ws⟩

theorem State.routeStarted_eq : s.routeStarted = (s.passed s.routeGoing s.mpq s.mpWait).memWrites s.routeWrites := by
  unfold State.routeGoing State.routeWrites
  show (if s.coresRun = true then _ else _) = _
  generalize s.coresRun = runs
  induction runs <;> rfl

theorem State.routeStarted_passed : ∃ mpq mpWait, s.routeStarted = s.passed s.routeGoing mpq mpWait := by
  rw [State.routeStarted_eq]
  exact State.memWrites_passed ..

theorem State.executed_routeStarted : (s.executed p q State.routeStarted).route = (s.popped p).routeGoing
    ∧ s.executed p q State.routeStarted = s.executed p q fun x => x.passed (s.executed p q State.routeStarted).route
      (s.executed p q State.routeStarted).mpq (s.executed p q State.routeStarted).mpWait := by
  obtain ⟨mpq, mpWait, eq⟩ := State.routeStarted_passed (s := s.popped p)
  rw [State.executed, eq, State.respond_route, State.respond_mpq, State.respond_mpWait]
  exact ⟨rfl, rfl⟩

theorem State.routeStarted_puts (four : s.mpq.length = 4) : s.Puts s.routeStarted s.routeWrites := by
  rw [State.routeStarted_eq]
  refine (State.memWrites_puts s.routeWrites (s.passed s.routeGoing s.mpq s.mpWait) four fun w mem => ?_).1
  unfold State.routeWrites at mem
  split at mem
  · exact (routePass_writes w mem).2.1
  · exact absurd mem List.not_mem_nil

section go

variable (h : s.Serves p q) (w : Writes q .routeCmd) (own : s.Holds p q) (go : q.data.toNat.testBit 0 = true)

include w go in
theorem rowRoute_of_writes : rowBits .routeCmd 0 0 1 q = true := rowBits_of_writes w 0 0 1 (bits_zero_of_testBit go)

theorem routeCmd_plain : Reg.routeCmd ≠ .semCmd ∧ Reg.routeCmd ≠ .imgCmd ∧ Reg.routeCmd.levelled = false := ⟨by simp, by simp, rfl⟩

include h w own go

theorem routeGo_busied (busy : s.route.busy = true) : exec (.routeGo p) s = .next (s.busied p q) :=
  State.row_busied h (rowRoute_of_writes w go) w own routeCmd_plain (if_pos ((congrArg Route.busy (State.popped_route s p)).trans busy))

theorem routeGo_denied (idle : s.route.busy = false)
    (bad : s.route.nrec = 0 ∨ s.route.experts = 0 ∨ 4096 < s.route.experts ∨ s.route.capacity = 0) :
    exec (.routeGo p) s = .next (s.denied p q codePROT q.data.toNat) := by
  rw [← State.popped_route s p] at idle bad
  exact State.row_denied h (rowRoute_of_writes w go) w own routeCmd_plain ((if_neg (Bool.eq_false_iff.1 idle)).trans
    ((if_neg (Bool.eq_false_iff.1 (congrArg not go))).trans (if_pos bad))) (.inl rfl)

theorem routeGo_executed (idle : s.route.busy = false)
    (good : ¬ (s.route.nrec = 0 ∨ s.route.experts = 0 ∨ 4096 < s.route.experts ∨ s.route.capacity = 0)) :
    exec (.routeGo p) s = .next (s.executed p q State.routeStarted) := by
  rw [← State.popped_route s p] at idle good
  obtain ⟨mpq, mpWait, eq⟩ := State.routeStarted_passed (s := s.popped p)
  exact State.row_executed h (rowRoute_of_writes w go) w own routeCmd_plain ((if_neg (Bool.eq_false_iff.1 idle)).trans
    ((if_neg (Bool.eq_false_iff.1 (congrArg not go))).trans (if_neg good))) ((congrArg State.tap eq).trans (State.popped_tap s p))

end go

/-! ROUTING_PASS_DONE (R196). -/

/-- The first bad index of the pass (R196). -/
noncomputable def State.routeBad (s : State) : Option (Nat × Nat) := s.route.issued.getD (routePass s.mem s.route).bad

/-- The state with another log. -/
noncomputable def State.logging (s : State) (l : ErrLog) : State := { s with log := l }

/-- The log after the entry for index `bad`. -/
noncomputable def State.routeLog (s : State) : Option (Nat × Nat) → ErrLog
  | some b => (s.logE 0x27 5 0 0 0 0 b.1 b.2).log
  | none => s.log

theorem State.route_logs (bad : Option (Nat × Nat)) : (match bad with
    | some b => s.logE 0x27 5 0 0 0 0 b.1 b.2
    | none => s) = s.logging (s.routeLog bad) := by
  induction bad with
  | none => rfl
  | some b => exact State.logE_only ..

/-- What of pass `x` is in memory at its end: its writes that wait, or all of `ws`. -/
noncomputable def State.routeLands (s : State) (x : Route) (ws : List MemWrite) : State :=
  if x.issued.isSome then s.landWrites (.pass false) fun _ => true else { s with mem := landAll s.mem ws }

/-- The end of pass `x`. -/
noncomputable def State.routeEnds (s : State) (x : Route) (bad : Bool) : State :=
  { s with route := { x with busy := false, done := true, badIdx := bad, doneRecs := BitVec.ofNat 24 (x.ctl.toNat % 2 ^ 24), issued :=
      none } }

/-- The state after the pass. -/
noncomputable def State.routeDone (s : State) : State :=
  ((s.logging (s.routeLog s.routeBad)).routeLands s.route ((routePass s.mem s.route).writes s.route)).routeEnds s.route s.routeBad.isSome

theorem routingPassDone_eq (busy : s.route.busy = true) (runs : s.coresRun = true) : exec .routingPassDone s = .next s.routeDone := by
  unfold State.routeDone
  rw [← State.route_logs, State.routeEnds, ← Route.nrec_eq]
  exact if_pos (Bool.and_eq_true_iff.2 ⟨busy, runs⟩)

/-- A state with the memory of `t`, and its writes that wait. -/
noncomputable def State.landed (s t : State) : State := { s with mem := t.mem, mpq := t.mpq, mpWait := t.mpWait }

theorem State.routeLands_only (x : Route) : s.routeLands x ws = s.landed (s.routeLands x ws) := by
  unfold State.routeLands
  split
  · exact State.landWrites_only s (.pass false) fun _ => true
  · rfl

theorem State.routeDone_log : s.routeDone.log = s.routeLog s.routeBad :=
  congrArg (fun t : State => (t.routeEnds s.route s.routeBad.isSome).log) (State.routeLands_only s.route)

/-- A state with what the end of a pass changes as in `t`. -/
noncomputable def State.passEnded (s t : State) : State :=
  { s with mem := t.mem, route := t.route, log := t.log, mpq := t.mpq, mpWait := t.mpWait }

theorem State.routeDone_only : s.routeDone = s.passEnded s.routeDone := by
  have only : s.routeDone = _ := congrArg (State.routeEnds · s.route s.routeBad.isSome) (State.routeLands_only s.route)
  exact only.trans ((congrArg s.passEnded only).trans rfl).symm

theorem State.routeDone_waited (waits : s.route.issued = none) :
    s.routeDone.mem = landAll s.mem ((routePass s.mem s.route).writes s.route) ∧ s.routeDone.mpq = s.mpq ∧ s.routeDone.mpWait =
        s.mpWait := by
  have not_ : ¬ s.route.issued.isSome = true := waits ▸ Bool.false_ne_true
  unfold State.routeDone State.routeLands
  rw [if_neg not_]
  exact ⟨rfl, rfl, rfl⟩

theorem State.routeDone_issued (issued : s.route.issued.isSome = true) :
    s.routeDone.mem = landAll s.mem (s.writes.filter fun w => w.writer == .pass false)
      ∧ (s.mpq.length = 4 → s.routeDone.writes.Perm (s.writes.filter fun w => !(w.writer == .pass false))) := by
  unfold State.routeDone State.routeLands
  rw [if_pos issued]
  exact ⟨State.landWrites_all_mem (s := s.logging _) _, State.landWrites_writes (s :=
      s.logging (s.routeLog s.routeBad)) (.pass false) fun _ => true⟩

/-! The statement's clauses. -/

theorem State.popped_routeGoing (s : State) (p : Port) : (s.popped p).routeGoing = s.routeGoing := by cases p <;> rfl
theorem State.popped_routeWrites (s : State) (p : Port) : (s.popped p).routeWrites = s.routeWrites := by cases p <;> rfl

/-- The pass has started. -/
def State.RouteStarts (s t : State) (p : Port) (q : LathReq) : Prop :=
  t.route = s.routeGoing ∧ (s.mpq.length = 4 → s.Puts t s.routeWrites) ∧ t = s.executed p q fun x => x.passed t.route t.mpq t.mpWait

theorem State.executed_routeStarts : s.RouteStarts (s.executed p q State.routeStarted) p q :=
  ⟨State.executed_routeStarted.1.trans (State.popped_routeGoing s p), fun four => State.executed_puts ((State.popped_routeWrites s p) ▸
    (s.popped p).routeStarted_puts ((congrArg List.length (State.popped_mpq s p)).trans four)), State.executed_routeStarted.2⟩

/-- Address `a` lies in the entry array. -/
def Route.OfEntry (x : Route) (a : Nat) : Prop := x.dst.toNat ≤ a ∧ a < x.dst.toNat + 1024 * (x.ctl.toNat % 2 ^ 24)

/-- Address `a` lies in the count array. -/
def Route.OfCount (x : Route) (a : Nat) : Prop := x.cnt.toNat ≤ a ∧ a < x.cnt.toNat + 8 * (x.ctl.toNat / 2 ^ 24 % 2 ^ 13)

/-- No write of the pass stands outside its arrays. -/
def Route.Inside (x : Route) (m : List Host.Cell) : Prop :=
  ∀ w ∈ (routePass m x).writes x, w.writer = .pass false ∧ ∀ c ∈ w.cells, x.OfEntry c.1 ∨ x.OfCount c.1

theorem routePass_inside : x.Inside m := fun w mem =>
  (routePass_writes w mem).imp_right fun cells c named => (cells.2 c named).place

/-- The end of a pass whose writes did not stand before the ports. -/
def State.RouteWaited (s t : State) : Prop :=
  s.route.issued = none → t.mem = landAll s.mem ((routePass s.mem s.route).writes s.route) ∧ t.mpq = s.mpq ∧ t.mpWait = s.mpWait
    ∧ ∀ a, ¬ s.route.OfEntry a → ¬ s.route.OfCount a → memByte t.mem a = memByte s.mem a

theorem State.routeDone_routeWaited : s.RouteWaited s.routeDone := by
  intro waits
  obtain ⟨mem, mpq, mpWait⟩ := State.routeDone_waited waits
  exact ⟨mem, mpq, mpWait, fun a entry count => (congrArg (memByte · a) mem).trans (memByte_landAll_of_not_named fun w hw c hc at_ =>
    ((routePass_inside w hw).2 c hc).elim (fun of => entry (at_ ▸ of)) fun of => count (at_ ▸ of))⟩

/-- The end of a pass whose writes stood before the ports. -/
def State.RouteIssued (s t : State) : Prop :=
  s.route.issued.isSome = true → t.mem = landAll s.mem (s.writes.filter fun w => w.writer == .pass false)
    ∧ (∀ a, (∀ w ∈ s.writes, (w.writer == .pass false) = true → ∀ c ∈ w.cells, c.1 ≠ a) → memByte t.mem a = memByte s.mem a)
    ∧ (s.mpq.length = 4 → t.writes.Perm (s.writes.filter fun w => !(w.writer == .pass false)))

theorem State.routeDone_routeIssued : s.RouteIssued s.routeDone := by
  intro issued
  obtain ⟨mem, writes⟩ := State.routeDone_issued issued
  exact ⟨mem, fun a other => (congrArg (memByte · a) mem).trans (memByte_landAll_of_not_named fun w hw =>
    other w (List.mem_filter.1 hw).1 (List.mem_filter.1 hw).2), writes⟩

/-- The pass has ended. -/
def State.RouteEnds (s t : State) : Prop :=
  t.route = (s.routeEnds s.route s.routeBad.isSome).route ∧ s.RouteWaited t ∧ s.RouteIssued t
  ∧ (s.routeBad = none → t.log = s.log) ∧ (∀ b, s.routeBad = some b → t.log = (s.logE 0x27 5 0 0 0 0 b.1 b.2).log) ∧ t = s.passEnded t

theorem State.routeDone_routeEnds : s.RouteEnds s.routeDone :=
  ⟨rfl, State.routeDone_routeWaited, State.routeDone_routeIssued, fun bad => State.routeDone_log.trans (congrArg s.routeLog bad),
    fun _ bad => State.routeDone_log.trans (congrArg s.routeLog bad), State.routeDone_only⟩

/-- Settles O19: the command by its own rule, the pass by the places of its entries, the end by what lands. -/
theorem routingPass : Obligations.RoutingPass :=
  have clauses : (∀ (p : Port) (q : LathReq) (s : State), s.Serves p q → WritesAt q 0xC038#32 → s.Holds p q → q.data.toNat.testBit 0 =
      true →
        (s.route.busy = true → exec (.routeGo p) s = .next (s.busied p q))
        ∧ (s.route.busy = false → s.route.Bad → exec (.routeGo p) s = .next (s.denied p q codePROT q.data.toNat))
        ∧ (s.route.busy = false → ¬ s.route.Bad →
          (∃ t, exec (.routeGo p) s = .next t ∧ s.RouteStarts t p q) ∧ s.route.Inside s.mem))
      ∧ ∀ s : State, s.route.busy = true → s.coresRun = true → ∃ t, exec .routingPassDone s = .next t ∧ s.RouteEnds t :=
    ⟨fun _ _ s h at_ own go =>
      have w := at_.writes (r := .routeCmd) (by decide) (by decide)
      ⟨routeGo_busied h w own go, fun idle bad => routeGo_denied h w own go idle (s.route.bad_iff.2 bad),
        fun idle good => ⟨⟨_, routeGo_executed h w own go idle (mt s.route.bad_iff.1 good), State.executed_routeStarts⟩, routePass_inside⟩⟩,
      fun _ busy runs => ⟨_, routingPassDone_eq busy runs, State.routeDone_routeEnds⟩⟩
  clauses

end Sys2Proof.Machine

/-! ### The statistic transfer (R27, R199 to R201) -/

namespace Sys2Proof.Machine

variable {s : State} {p : Port} {q : LathReq} {m : List Host.Cell}

theorem anyFrom_iff {base n : Nat} {f : Nat → Bool} : anyFrom base n f = true ↔ ∃ i, i < n ∧ f (base + i) = true := by
  simp [anyFrom]

/-! What a word in memory reads as. -/

theorem memRead_succ (m : List Host.Cell) (a n : Nat) : memRead m a (n + 1) = (memByte m a).toNat + 2 ^ 8 * memRead m (a + 1) n := rfl

/-- Bytes that are those of a number read as it (R10). -/
theorem memRead_of_bytes {n : Nat} : ∀ {a v : Nat}, (∀ j, j < n → memByte m (a + j) = BitVec.ofNat 8 (v >>> (8 * j))) →
    memRead m a n = v % 2 ^ (8 * n) := by
  induction n with
  | zero => exact fun {_ v} _ => (Nat.mod_one v).symm
  | succ n ih =>
    intro a v bytes
    have low : (memByte m a).toNat = v % 2 ^ 8 := congrArg BitVec.toNat (bytes 0 n.succ_pos)
    have high : memRead m (a + 1) n = (v >>> 8) % 2 ^ (8 * n) := ih fun j hj => by
      rw [← Nat.shiftRight_add, Nat.add_comm 8, Nat.add_right_comm]
      exact bytes (j + 1) (Nat.succ_lt_succ hj)
    rw [memRead_succ, low, high, Nat.shiftRight_eq_div_pow, Nat.mul_succ, Nat.add_comm _ 8, Nat.pow_add, Nat.mod_mul]

theorem memRead_congr {n : Nat} {m' : List Host.Cell} : ∀ {a : Nat}, (∀ j, j < n → memByte m (a + j) = memByte m' (a + j)) →
    memRead m a n = memRead m' a n := by
  induction n with
  | zero => exact fun _ => rfl
  | succ n ih =>
    intro a same
    have low : memByte m a = memByte m' a := same 0 n.succ_pos
    rw [memRead_succ, memRead_succ, low, ih fun j hj => by rw [Nat.add_right_comm]; exact same (j + 1) (Nat.succ_lt_succ hj)]

theorem leCells_addresses_nodup (a v n : Nat) : ((leCells a v n).map Prod.fst).Nodup := by
  have places : (leCells a v n).map Prod.fst = (List.range n).map fun i => a + i := by
    simp [leCells, leBytes, Function.comp_def]
  rw [places]
  exact List.nodup_range.map fun _ _ => Nat.add_left_cancel

/-- A word reads back from where it was written (R10). -/
theorem memRead_memSetMasked_leCells {a v n : Nat} (wf : Memory.wf m = true) :
    memRead (memSetMasked m (leCells a v n)) a n = v % 2 ^ (8 * n) := by
  refine memRead_of_bytes fun j hj => ?_
  rw [memByte_memSetMasked_of_mem (leCells_addresses_nodup a v n) wf _ (mem_leCells.2 ⟨j, hj, rfl⟩)]
  have full : (0xFF : Byte) = BitVec.allOnes 8 := rfl
  simp only [full, BitVec.not_allOnes, BitVec.and_zero, BitVec.and_allOnes, BitVec.zero_or]

/-! Words of 4 bytes written one after another. -/

/-- The write of word `i` of an array of words of 4 bytes. -/
noncomputable def wordWrite (who : Writer) (dst : Nat) (f : Nat → W32) (i : Nat) : MemWrite := ⟨who, leCells (dst + 4 * i) (f i).toNat 4⟩

section words

variable {who : Writer} {dst : Nat} {f : Nat → W32}

theorem landAll_wordWrites_succ (n : Nat) : landAll m ((List.range (n + 1)).map (wordWrite who dst f)) =
    memSetMasked (landAll m ((List.range n).map (wordWrite who dst f))) (leCells (dst + 4 * n) (f n).toNat 4) := by
  rw [List.range_succ, List.map_append, landAll_append]
  rfl

/-- An array of words reads back word by word (R200). -/
theorem memRead_landAll_wordWrites (wf : Memory.wf m = true) (n : Nat) :
    ∀ i, i < n → memRead (landAll m ((List.range n).map (wordWrite who dst f))) (dst + 4 * i) 4 = (f i).toNat := by
  induction n with
  | zero => exact fun i hi => absurd hi i.not_lt_zero
  | succ n ih =>
    intro i hi
    rw [landAll_wordWrites_succ]
    refine (Nat.lt_succ_iff_lt_or_eq.1 hi).elim (fun before => ?_) fun last => ?_
    · refine (memRead_congr fun j hj => memByte_memSetMasked_other _ _ _ fun c mem => ?_).trans (ih i before)
      have place := mem_leCells_range (k := 0) mem rfl le_rfl
      exact ((Nat.add_lt_add_left hj _).trans_le ((Nat.add_le_add_left (Nat.mul_le_mul_left 4 before) dst).trans place.1)).ne'
    · rw [last, memRead_memSetMasked_leCells (landAll_wf _ wf)]
      exact Nat.mod_eq_of_lt (f n).isLt

theorem memByte_landAll_wordWrites {n a : Nat} (out : ¬ (dst ≤ a ∧ a < dst + 4 * n)) :
    memByte (landAll m ((List.range n).map (wordWrite who dst f))) a = memByte m a :=
  memByte_landAll_of_not_named (List.forall_mem_map.2 fun _ hi _ mem at_ =>
    out (at_ ▸ mem_leCells_range mem rfl (Nat.mul_le_mul_left 4 (List.mem_range.1 hi))))

end words

/-! STX_GO (R201). -/

/-- The pass of STX_GO starts, and a transfer to memory puts its writes before the ports where a core runs. -/
noncomputable def State.stxStarted (s : State) : State :=
  State.stxIssue { s with stx := { s.stx with busy := true, done := false, doneCnt := 0, issued := false } }

/-- The transfer as it has started. -/
noncomputable def State.stxGoing (s : State) : Stx :=
  { s.stx with busy := true, done := false, doneCnt := 0, issued := s.coresRun && !stxImport s.stx.src }

/-- The writes that stand before the ports from STX_GO on. -/
noncomputable def State.stxPuts (s : State) : List MemWrite :=
  if s.coresRun && !stxImport s.stx.src then (List.range (stxCount s.stx.src)).map (wordWrite (.pass true) s.stx.dst.toNat (s.stxExport
      s.stx.src))
  else []

/-- A state with another transfer, and other writes that wait. -/
noncomputable def State.transferred (s : State) (x : Stx) (mpq : List (List MemWrite)) (mpWait : List (Nat × MemWrite)) : State :=
  { s with stx := x, mpq := mpq, mpWait := mpWait }

theorem State.stxStarted_eq : s.stxStarted = (s.transferred s.stxGoing s.mpq s.mpWait).memWrites s.stxPuts := by
  unfold State.stxGoing State.stxPuts
  show (if (s.coresRun && !stxImport s.stx.src) = true then _ else _) = _
  generalize (s.coresRun && !stxImport s.stx.src) = puts
  induction puts <;> rfl

theorem State.stxStarted_transferred : ∃ mpq mpWait, s.stxStarted = s.transferred s.stxGoing mpq mpWait :=
  ⟨_, _, State.stxStarted_eq.trans (State.memWrites_only (s := s.transferred s.stxGoing s.mpq s.mpWait) s.stxPuts)⟩

theorem State.executed_stxStarted : (s.executed p q State.stxStarted).stx = (s.popped p).stxGoing
    ∧ s.executed p q State.stxStarted = s.executed p q fun x => x.transferred (s.executed p q State.stxStarted).stx
      (s.executed p q State.stxStarted).mpq (s.executed p q State.stxStarted).mpWait := by
  obtain ⟨mpq, mpWait, eq⟩ := State.stxStarted_transferred (s := s.popped p)
  rw [State.executed, eq, State.respond_stx, State.respond_mpq, State.respond_mpWait]
  exact ⟨rfl, rfl⟩

theorem State.stxStarted_puts (four : s.mpq.length = 4) : s.Puts s.stxStarted s.stxPuts := by
  rw [State.stxStarted_eq]
  refine (State.memWrites_puts s.stxPuts (s.transferred s.stxGoing s.mpq s.mpWait) four ?_).1
  unfold State.stxPuts
  split
  · exact List.forall_mem_map.2 fun _ _ => leCells_ne_nil (by decide)
  · exact fun _ mem => absurd mem List.not_mem_nil

/-- Items of the part that `w` names. -/
noncomputable def stxLimit (w : W64) : Nat := if stxKind w = 1 then 16384 else 262144

/-- Item `i` of a transfer, as far as the part has it (R199, R201). -/
def stxItem (w : W64) (i : Nat) : Prop := i < stxCount w ∧ stxFirst w + i < stxLimit w

theorem anyFrom_stx_iff {w : W64} {f : Nat → Bool} : anyFrom (stxFirst w) (min (stxCount w) (stxLimit w - stxFirst w)) f = true ↔
    ∃ i, stxItem w i ∧ f (stxFirst w + i) = true :=
  anyFrom_iff.trans (exists_congr fun _ => and_congr_left fun _ => Nat.lt_min.trans (and_congr_right fun _ => Nat.lt_sub_iff_add_lt'))

/-- Is an item of kind `k` of the transfer such as `f` says? -/
def StxSome (w : W64) (k : Nat) (f : Nat → Bool) (b : Bool) : Prop := stxKind w = k ∧ ∃ i, stxItem w i ∧ f (stxFirst w + i) = b

theorem stxSome_iff {w : W64} {k : Nat} {f : Nat → Bool} :
    (decide (stxKind w = k) && anyFrom (stxFirst w) (min (stxCount w) (stxLimit w - stxFirst w)) f) = true ↔ StxSome w k f true := by
  rw [Bool.and_eq_true, decide_eq_true_iff, anyFrom_stx_iff]
  rfl

/-- Is an item of the transfer in flight (R201)? -/
def State.StxHeld (s : State) : Prop := StxSome s.stx.src 0 s.ctxInFlight true ∨ StxSome s.stx.src 1 s.totalInFlight true

/-- Is a context of the transfer unallocated (R201)? -/
def State.StxAbsent (s : State) : Prop := StxSome s.stx.src 0 s.allocated false

/-- Is the transfer out of range, or of a combination that R200 does not permit? -/
def State.StxBad (s : State) : Prop :=
  stxCount s.stx.src = 0 ∨ stxLimit s.stx.src < stxFirst s.stx.src + stxCount s.stx.src ∨ stxPermitted s.stx.src = false

theorem State.popped_stxHeld : (s.popped p).StxHeld ↔ s.StxHeld := by cases p <;> exact Iff.rfl
theorem State.popped_stxAbsent : (s.popped p).StxAbsent ↔ s.StxAbsent := by cases p <;> exact Iff.rfl
theorem State.popped_stxBad : (s.popped p).StxBad ↔ s.StxBad := by cases p <;> exact Iff.rfl

theorem State.stxHeld_iff : ((decide (stxKind s.stx.src = 0) && anyFrom (stxFirst s.stx.src) (min (stxCount s.stx.src)
      (stxLimit s.stx.src - stxFirst s.stx.src)) s.ctxInFlight)
    || (decide (stxKind s.stx.src = 1) && anyFrom (stxFirst s.stx.src) (min (stxCount s.stx.src)
      (stxLimit s.stx.src - stxFirst s.stx.src)) s.totalInFlight)) = true ↔ s.StxHeld := by
  rw [Bool.or_eq_true, stxSome_iff, stxSome_iff]
  rfl

theorem State.stxAbsent_iff : (decide (stxKind s.stx.src = 0) && anyFrom (stxFirst s.stx.src) (min (stxCount s.stx.src)
    (stxLimit s.stx.src - stxFirst s.stx.src)) fun c => !s.allocated c) = true ↔ s.StxAbsent :=
  stxSome_iff.trans (and_congr_right fun _ => exists_congr fun _ => and_congr_right fun _ => by rw [Bool.not_eq_true'])

section rule

variable {d : Nat} (go : d.testBit 0 = true) (idle : s.stx.busy = false)
include go idle

/-- The rule of STX_CMD, check by check (R201). -/
theorem State.stxCmdWrite_held (held : s.StxHeld) : s.stxCmdWrite d = s.fail codeBUSY :=
  (if_neg (Bool.eq_false_iff.1 idle)).trans ((if_neg (Bool.eq_false_iff.1 (congrArg not go))).trans (if_pos (State.stxHeld_iff.2 held)))

theorem State.stxCmdWrite_free (free : ¬ s.StxHeld) : s.stxCmdWrite d =
    if (decide (stxKind s.stx.src = 0) && anyFrom (stxFirst s.stx.src) (min (stxCount s.stx.src)
      (stxLimit s.stx.src - stxFirst s.stx.src)) fun c => !s.allocated c) = true then s.fail codeDENY
    else if stxCount s.stx.src = 0 ∨ stxLimit s.stx.src < stxFirst s.stx.src + stxCount s.stx.src ∨ stxPermitted s.stx.src = false then
      s.fail codePROT
    else State.ok s.stxStarted :=
  (if_neg (Bool.eq_false_iff.1 idle)).trans ((if_neg (Bool.eq_false_iff.1 (congrArg not go))).trans (if_neg (mt State.stxHeld_iff.1 free)))

theorem State.stxCmdWrite_absent (free : ¬ s.StxHeld) (absent : s.StxAbsent) : s.stxCmdWrite d = s.fail codeDENY :=
  (State.stxCmdWrite_free go idle free).trans (if_pos (State.stxAbsent_iff.2 absent))

theorem State.stxCmdWrite_bad (free : ¬ s.StxHeld) (present : ¬ s.StxAbsent) (bad : s.StxBad) : s.stxCmdWrite d = s.fail codePROT :=
  (State.stxCmdWrite_free go idle free).trans ((if_neg (mt State.stxAbsent_iff.1 present)).trans (if_pos bad))

theorem State.stxCmdWrite_good (free : ¬ s.StxHeld) (present : ¬ s.StxAbsent) (good : ¬ s.StxBad) : s.stxCmdWrite d =
    State.ok s.stxStarted :=
  (State.stxCmdWrite_free go idle free).trans ((if_neg (mt State.stxAbsent_iff.1 present)).trans (if_neg good))

end rule

theorem rowStx_of_writes (w : Writes q .stxCmd) (go : q.data.toNat.testBit 0 = true) : rowBits .stxCmd 0 0 1 q = true :=
  rowBits_of_writes w 0 0 1 (bits_zero_of_testBit go)

theorem stxCmd_plain : Reg.stxCmd ≠ .semCmd ∧ Reg.stxCmd ≠ .imgCmd ∧ Reg.stxCmd.levelled = false := ⟨by simp, by simp, rfl⟩

section go

variable (h : s.Serves p q) (w : Writes q .stxCmd) (own : s.Holds p q) (go : q.data.toNat.testBit 0 = true)
include h w own go

theorem stxGo_running (busy : s.stx.busy = true) : exec (.stxGo p) s = .next (s.busied p q) :=
  State.row_busied h (rowStx_of_writes w go) w own stxCmd_plain (if_pos ((congrArg Stx.busy (State.popped_stx s p)).trans busy))

variable (idle : s.stx.busy = false)
include idle

theorem stxGo_busied (held : s.StxHeld) : exec (.stxGo p) s = .next (s.busied p q) :=
  State.row_busied h (rowStx_of_writes w go) w own stxCmd_plain
    (State.stxCmdWrite_held go ((congrArg Stx.busy (State.popped_stx s p)).trans idle) (State.popped_stxHeld.2 held))

variable (free : ¬ s.StxHeld)
include free

theorem stxGo_absent (absent : s.StxAbsent) : exec (.stxGo p) s = .next (s.denied p q codeDENY q.data.toNat) :=
  State.row_denied h (rowStx_of_writes w go) w own stxCmd_plain
    (State.stxCmdWrite_absent go ((congrArg Stx.busy (State.popped_stx s p)).trans idle) (mt State.popped_stxHeld.1 free)
      (State.popped_stxAbsent.2 absent)) (.inr rfl)

theorem stxGo_bad (present : ¬ s.StxAbsent) (bad : s.StxBad) : exec (.stxGo p) s = .next (s.denied p q codePROT q.data.toNat) :=
  State.row_denied h (rowStx_of_writes w go) w own stxCmd_plain
    (State.stxCmdWrite_bad go ((congrArg Stx.busy (State.popped_stx s p)).trans idle) (mt State.popped_stxHeld.1 free)
      (mt State.popped_stxAbsent.1 present) (State.popped_stxBad.2 bad)) (.inl rfl)

theorem stxGo_executed (present : ¬ s.StxAbsent) (good : ¬ s.StxBad) : exec (.stxGo p) s = .next (s.executed p q State.stxStarted) := by
  obtain ⟨mpq, mpWait, eq⟩ := State.stxStarted_transferred (s := s.popped p)
  exact State.row_executed h (rowStx_of_writes w go) w own stxCmd_plain
    (State.stxCmdWrite_good go ((congrArg Stx.busy (State.popped_stx s p)).trans idle) (mt State.popped_stxHeld.1 free)
      (mt State.popped_stxAbsent.1 present) (mt State.popped_stxBad.1 good)) ((congrArg State.tap eq).trans (State.popped_tap s p))

end go

/-! STX_PASS_DONE (R200). -/

/-- The first `n` items that `src` names, taken from the words at `dst` (R200). -/
noncomputable def State.stxImported (s : State) (src : W64) (dst n : Nat) : State :=
  (List.range n).foldl (fun (s : State) i =>
    s.setCtx (stxFirst src + i)
      ((s.ctx (stxFirst src + i)).setField (stxField src) (BitVec.ofNat 32 (memRead s.mem (dst + 4 * i) 4)))) s

section imported

variable (src : W64) (dst n : Nat)

theorem State.stxImported_succ : s.stxImported src dst (n + 1) = (s.stxImported src dst n).setCtx (stxFirst src + n)
    (((s.stxImported src dst n).ctx (stxFirst src + n)).setField (stxField src)
      (BitVec.ofNat 32 (memRead (s.stxImported src dst n).mem (dst + 4 * n) 4))) := by
  unfold State.stxImported
  rw [List.range_succ, List.foldl_append]
  rfl

/-- A state with other contexts. -/
noncomputable def State.withCtxs (s : State) (m : List (Nat × RowCtx)) : State := { s with ctxs := m }

theorem State.stxImported_only : s.stxImported src dst n = s.withCtxs (s.stxImported src dst n).ctxs := by
  induction n with
  | zero => rfl
  | succ n ih =>
    rw [State.stxImported_succ, ih]
    rfl

theorem State.stxImported_wf (canon : swf RowCtx.zero s.ctxs = true) : swf RowCtx.zero (s.stxImported src dst n).ctxs = true := by
  induction n with
  | zero => exact canon
  | succ n ih =>
    rw [State.stxImported_succ]
    exact swf_sset _ _ _ _ ih

variable (canon : swf RowCtx.zero s.ctxs = true)
include canon

theorem State.stxImported_out {c : Nat} (out : ∀ i, i < n → c ≠ stxFirst src + i) : (s.stxImported src dst n).ctx c = s.ctx c := by
  induction n with
  | zero => rfl
  | succ n ih =>
    rw [State.stxImported_succ, State.ctx_setCtx _ _ _ _ (State.stxImported_wf src dst n canon), if_neg (out n n.lt_succ_self)]
    exact ih fun i hi => out i (Nat.lt_succ_of_lt hi)

theorem State.stxImported_item {i : Nat} (hi : i < n) : (s.stxImported src dst n).ctx (stxFirst src + i) =
    (s.ctx (stxFirst src + i)).setField (stxField src) (BitVec.ofNat 32 (memRead s.mem (dst + 4 * i) 4)) := by
  induction n with
  | zero => exact absurd hi i.not_lt_zero
  | succ n ih =>
    rw [State.stxImported_succ, State.ctx_setCtx _ _ _ _ (State.stxImported_wf src dst n canon)]
    refine (Nat.lt_succ_iff_lt_or_eq.1 hi).elim (fun before => ?_) fun last => ?_
    · rw [if_neg fun same => before.ne (Nat.add_left_cancel same)]
      exact ih before
    · have mem : (s.stxImported src dst n).mem = s.mem := (congrArg State.mem (s.stxImported_only src dst n)).trans rfl
      rw [last, if_pos rfl, mem, State.stxImported_out src dst n canon fun i lt same => lt.ne' (Nat.add_left_cancel same)]

end imported

/-- The transfer's registers at its end. -/
noncomputable def State.stxEnded (s : State) : Stx :=
  { s.stx with busy := false, done := true, doneCnt := BitVec.ofNat 19 (stxCount s.stx.src), issued := false }

/-- A state with another transfer. -/
noncomputable def State.withStx (s : State) (x : Stx) : State := { s with stx := x }

/-- The state at the end of a transfer: its contexts imported, or its writes in memory. -/
noncomputable def State.stxDone (s : State) : State :=
  if stxImport s.stx.src then (s.withStx s.stxEnded).stxImported s.stx.src s.stx.dst.toNat (stxCount s.stx.src)
  else if s.stx.issued then (s.landWrites (.pass true) fun _ => true).withStx s.stxEnded
  else { s with mem := landAll s.mem s.stxWrites, stx := s.stxEnded }

theorem stxPassDone_eq (busy : s.stx.busy = true) (runs : s.coresRun = true) : exec .stxPassDone s = .next s.stxDone := by
  unfold State.stxDone
  rw [apply_ite Host.Outcome.next, apply_ite Host.Outcome.next]
  exact if_pos (Bool.and_eq_true_iff.2 ⟨busy, runs⟩)

theorem State.stxDone_import (dir : stxImport s.stx.src = true) :
    s.stxDone = (s.withStx s.stxEnded).stxImported s.stx.src s.stx.dst.toNat (stxCount s.stx.src) := if_pos dir

theorem State.stxDone_issued (dir : stxImport s.stx.src = false) (issued : s.stx.issued = true) :
    s.stxDone = (s.landWrites (.pass true) fun _ => true).withStx s.stxEnded := (if_neg (Bool.eq_false_iff.1 dir)).trans (if_pos issued)

theorem State.stxDone_export (dir : stxImport s.stx.src = false) (waits : s.stx.issued = false) :
    s.stxDone = { s with mem := landAll s.mem s.stxWrites, stx := s.stxEnded } :=
  (if_neg (Bool.eq_false_iff.1 dir)).trans (if_neg (Bool.eq_false_iff.1 waits))

theorem State.stxDone_stx : s.stxDone.stx = s.stxEnded := by
  unfold State.stxDone
  split
  · exact congrArg State.stx (State.stxImported_only ..)
  · split <;> rfl

/-- A state with what the end of a transfer changes as in `t`. -/
noncomputable def State.transferEnded (s t : State) : State := { s with mem := t.mem, stx := t.stx, mpq := t.mpq, mpWait := t.mpWait }

/-- The end of a transfer to memory whose writes stood before the ports (R27, R201). -/
theorem State.stxDone_lands (dir : stxImport s.stx.src = false) (issued : s.stx.issued = true) :
    s.stxDone.mem = landAll s.mem (s.writes.filter fun x => x.writer == .pass true)
    ∧ (∀ a, (∀ x ∈ s.writes, (x.writer == .pass true) = true → ∀ c ∈ x.cells, c.1 ≠ a) → memByte s.stxDone.mem a = memByte s.mem a)
    ∧ (s.mpq.length = 4 → s.stxDone.writes.Perm (s.writes.filter fun x => !(x.writer == .pass true)))
    ∧ s.stxDone = s.transferEnded s.stxDone := by
  rw [State.stxDone_issued dir issued]
  have mem := s.landWrites_all_mem (.pass true)
  refine ⟨mem, fun a other => (congrArg (memByte · a) mem).trans (memByte_landAll_of_not_named fun w hw => ?_),
    s.landWrites_writes (.pass true) fun _ => true, congrArg (State.withStx · s.stxEnded) (s.landWrites_only (.pass true) fun _ => true)⟩
  exact other w (List.mem_filter.1 hw).1 (List.mem_filter.1 hw).2

/-- A state with what a transfer from memory changes as in `t`. -/
noncomputable def State.importEnded (s t : State) : State := { s with ctxs := t.ctxs, stx := t.stx }

theorem State.stxImported_ends (x : Stx) (src : W64) (dst n : Nat) :
    (s.withStx x).stxImported src dst n = s.importEnded ((s.withStx x).stxImported src dst n) := by
  have only := State.stxImported_only (s := s.withStx x) src dst n
  exact only.trans ((congrArg s.importEnded only).trans rfl).symm

/-! The statement's clauses. -/

theorem State.popped_stxGoing (s : State) (p : Port) : (s.popped p).stxGoing = s.stxGoing := by cases p <;> rfl
theorem State.popped_stxPuts (s : State) (p : Port) : (s.popped p).stxPuts = s.stxPuts := by cases p <;> rfl

/-- The transfer has started. -/
def State.StxStarts (s t : State) (p : Port) (q : LathReq) : Prop :=
  t.stx = s.stxGoing ∧ (s.mpq.length = 4 → s.Puts t s.stxPuts) ∧ t = s.executed p q fun x => x.transferred t.stx t.mpq t.mpWait

theorem State.executed_stxStarts : s.StxStarts (s.executed p q State.stxStarted) p q :=
  ⟨State.executed_stxStarted.1.trans (State.popped_stxGoing s p), fun four => State.executed_puts ((State.popped_stxPuts s p) ▸
    (s.popped p).stxStarted_puts ((congrArg List.length (State.popped_mpq s p)).trans four)), State.executed_stxStarted.2⟩

/-- The end of a transfer to memory whose words did not stand before the ports. -/
def State.StxWaited (s t : State) : Prop :=
  stxImport s.stx.src = false → s.stx.issued = false →
    (∀ i, i < stxCount s.stx.src → memRead t.mem (s.stx.dst.toNat + 4 * i) 4 = (s.stxExport s.stx.src i).toNat)
    ∧ (∀ a, ¬ (s.stx.dst.toNat ≤ a ∧ a < s.stx.dst.toNat + 4 * stxCount s.stx.src) → memByte t.mem a = memByte s.mem a)
    ∧ t = { s with mem := t.mem, stx := t.stx }

theorem State.stxDone_stxWaited (canon : Memory.wf s.mem = true) : s.StxWaited s.stxDone := by
  intro dir waits
  rw [State.stxDone_export dir waits]
  exact ⟨memRead_landAll_wordWrites canon _, fun a out => memByte_landAll_wordWrites out, rfl⟩

/-- The end of a transfer to memory whose words stood before the ports. -/
def State.StxIssued (s t : State) : Prop :=
  stxImport s.stx.src = false → s.stx.issued = true → t.mem = landAll s.mem (s.writes.filter fun x => x.writer == .pass true)
    ∧ (∀ a, (∀ x ∈ s.writes, (x.writer == .pass true) = true → ∀ c ∈ x.cells, c.1 ≠ a) → memByte t.mem a = memByte s.mem a)
    ∧ (s.mpq.length = 4 → t.writes.Perm (s.writes.filter fun x => !(x.writer == .pass true)))
    ∧ t = s.transferEnded t

/-- The end of a transfer from memory. -/
def State.StxImported (s t : State) : Prop :=
  stxImport s.stx.src = true →
    (∀ i, i < stxCount s.stx.src → t.ctx (stxFirst s.stx.src + i) = (s.ctx (stxFirst s.stx.src + i)).setField (stxField s.stx.src)
      (BitVec.ofNat 32 (memRead s.mem (s.stx.dst.toNat + 4 * i) 4)))
    ∧ (∀ c, ¬ (stxFirst s.stx.src ≤ c ∧ c < stxFirst s.stx.src + stxCount s.stx.src) → t.ctx c = s.ctx c)
    ∧ t = s.importEnded t

theorem State.stxDone_stxImported (canon : swf RowCtx.zero s.ctxs = true) : s.StxImported s.stxDone := by
  intro dir
  rw [State.stxDone_import dir]
  exact ⟨fun i => State.stxImported_item (s := s.withStx s.stxEnded) _ _ _ canon,
    fun c out => State.stxImported_out (s := s.withStx s.stxEnded) _ _ _ canon fun i lt same =>
      out (same ▸ ⟨Nat.le_add_right .., Nat.add_lt_add_left lt _⟩), State.stxImported_ends ..⟩

/-- Settles O20: the command check by check, and the end of a transfer to memory and from it. -/
theorem statisticTransfer : Obligations.StatisticTransfer :=
  have clauses : (∀ (p : Port) (q : LathReq) (s : State), s.Serves p q → WritesAt q 0xC058#32 → s.Holds p q → q.data.toNat.testBit 0 =
      true →
        (s.stx.busy = true → exec (.stxGo p) s = .next (s.busied p q))
        ∧ (s.stx.busy = false → s.StxHeld → exec (.stxGo p) s = .next (s.busied p q))
        ∧ (s.stx.busy = false → ¬ s.StxHeld → s.StxAbsent → exec (.stxGo p) s = .next (s.denied p q codeDENY q.data.toNat))
        ∧ (s.stx.busy = false → ¬ s.StxHeld → ¬ s.StxAbsent → s.StxBad → exec (.stxGo p) s = .next (s.denied p q codePROT q.data.toNat))
        ∧ (s.stx.busy = false → ¬ s.StxHeld → ¬ s.StxAbsent → ¬ s.StxBad → ∃ t, exec (.stxGo p) s = .next t ∧ s.StxStarts t p q))
      ∧ ∀ s : State, s.stx.busy = true → s.coresRun = true → s.Canonical → ∃ t, exec .stxPassDone s = .next t
        ∧ t.stx = s.stxEnded ∧ s.StxWaited t ∧ s.StxIssued t ∧ s.StxImported t :=
    ⟨fun _ _ _ h at_ own go =>
      have w := at_.writes (r := .stxCmd) (by decide) (by decide)
      ⟨stxGo_running h w own go, stxGo_busied h w own go, stxGo_absent h w own go, stxGo_bad h w own go,
        fun idle free present good => ⟨_, stxGo_executed h w own go idle free present good, State.executed_stxStarts⟩⟩,
      fun _ busy runs canon => ⟨_, stxPassDone_eq busy runs, State.stxDone_stx, State.stxDone_stxWaited canon.mem, State.stxDone_lands,
        State.stxDone_stxImported canon.ctxs⟩⟩
  clauses

end Sys2Proof.Machine

/-! ### The spill region and the merge of top-k records (R138, R143, R144) -/

namespace Sys2Proof.Machine

variable {s : State} {g : BitVec 8} {ctx : BitVec 18} {level : BitVec 5} {node : BitVec 24}

/-- A write that is sent while other parts of the state change with it. -/
theorem State.memWrite_sends_of_queues {x : State} {home : Nat} {w : MemWrite} (mpq : x.mpq = s.mpq) (mpWait : x.mpWait = s.mpWait)
    (some_ : w.cells ≠ []) : s.Sends (x.memWrite home w) w := by
  have sends := x.memWrite_sends home w some_
  unfold State.Sends at sends ⊢
  rwa [mpq, mpWait] at sends

section spill

variable {slot : W32} {e : BondEntry} (runs : s.coresRun = true) (open_ : s.pwr.phase.draining = false)
  (found : s.store.find? (fun e => e.isNode g ctx level.toNat node.toNat) = some e)

/-- The state with other nodes. -/
noncomputable def State.withNodes (s : State) (store formed : List BondEntry) (spilled : List Spilled) : State :=
  { s with store := store, formed := formed, spilled := spilled }

/-- The state once node `e` is spilled to `slot`, and waiting nodes entered the store. -/
noncomputable def State.spills (s : State) (g : BitVec 8) (ctx : BitVec 18) (level node : Nat) (e : BondEntry) (slot : W32) : State :=
  let rest := s.store.filter fun x => !x.isNode g ctx level node
  s.withNodes (rest ++ s.formed.take (131072 - rest.length)) (s.formed.drop (131072 - rest.length)) (s.spilled ++ [⟨e, slot, false, false⟩])

/-- The write of a spilled node (R137, R138). -/
noncomputable def State.nodeWrite (s : State) (e : BondEntry) (slot : W32) : MemWrite :=
  ⟨.spill slot, leCells (s.ctl.spillBase.toNat + 16 * slot.toNat) e.word 16⟩

include found

/-- Why a spill waits, and what it does. -/
theorem bondStoreSpill_eq : ∃ home, exec (.bondStoreSpill ⟨g, ctx⟩ level node slot) s =
    if s.coresRun = false ∨ s.pwr.phase.draining = true ∨ s.store.length < 131072
        ∨ s.spilled.any (fun x => x.slot == slot) = true ∨ s.ctl.spillSize.toNat ≤ slot.toNat then .next s
    else .next ((s.spills g ctx level.toNat node.toNat e slot).memWrite home (s.nodeWrite e slot)) := by
  refine ⟨((s.spills g ctx level.toNat node.toNat e slot).group e.bgrp.toNat |>.span ctx.toNat).1 + node.toNat * 2 ^ level.toNat, ?_⟩
  show (match s.store.find? fun e => e.isNode g ctx level.toNat node.toNat with
    | none => Host.Outcome.next s
    | some e => if s.coresRun = false ∨ s.pwr.phase.draining = true ∨ s.store.length < 131072
          ∨ s.spilled.any (fun x => x.slot == slot) = true ∨ s.ctl.spillSize.toNat ≤ slot.toNat then .next s
        else .next ((s.spills g ctx level.toNat node.toNat e slot).memWrite
          (((s.spills g ctx level.toNat node.toNat e slot).group e.bgrp.toNat |>.span ctx.toNat).1 + node.toNat * 2 ^ level.toNat)
          (s.nodeWrite e slot))) = _
  rw [found]

theorem bondStoreSpill_waits (room : s.store.length < 131072) : exec (.bondStoreSpill ⟨g, ctx⟩ level node slot) s = .next s :=
  (bondStoreSpill_eq found).elim fun _ run => run.trans (if_pos (.inr (.inr (.inl room))))

include runs open_

/-- A full store writes a node to a free slot, and takes in the nodes that waited (R138). -/
theorem bondStoreSpill_sends (inside : slot.toNat < s.ctl.spillSize.toNat)
    (fresh : ∀ x ∈ s.spilled, x.slot ≠ slot) (full : 131072 ≤ s.store.length) :
    ∃ t, exec (.bondStoreSpill ⟨g, ctx⟩ level node slot) s = .next t ∧ s.Sends t (s.nodeWrite e slot)
      ∧ t = (s.spills g ctx level.toNat node.toNat e slot).withQueues t.mpq t.mpWait := by
  obtain ⟨home, run⟩ := bondStoreSpill_eq (slot := slot) found
  refine ⟨_, run.trans (if_neg ?_), State.memWrite_sends_of_queues rfl rfl (leCells_ne_nil (Nat.succ_ne_zero 15)), State.memWrite_only ..⟩
  refine not_or.2 ⟨fun stops => Bool.false_ne_true (stops.symm.trans runs), not_or.2 ⟨Bool.eq_false_iff.1 open_, not_or.2 ⟨not_lt.2 full,
    not_or.2 ⟨fun used => ?_, not_le.2 inside⟩⟩⟩⟩
  obtain ⟨x, mem, same⟩ := List.any_eq_true.1 used
  exact fresh x mem (beq_iff_eq.1 same)

end spill

section returned

/-- What the read of a spilled node brings (R138). -/
noncomputable def State.reads (s : State) (x : Spilled) (data : List (Nat × Byte)) : State :=
  let m := memSetMany s.mem data
  { s with
    mem := m
    spilled := s.spilled.map fun y => if y.slot = x.slot then { y with
      arrived := true
      entry := BondEntry.ofWord (memRead m (s.ctl.spillBase.toNat + 16 * x.slot.toNat) 16) } else y }

/-- Node `sib` of the row waits somewhere (R138). -/
def State.Paired (s : State) (g : BitVec 8) (ctx : BitVec 18) (level sib : Nat) : Prop :=
  (∃ e ∈ s.store, e.isNode g ctx level sib = true) ∨ (∃ e ∈ s.formed, e.isNode g ctx level sib = true)
    ∨ ∃ y ∈ s.spilled, y.entry.isNode g ctx level sib = true

theorem State.paired_iff {sib : Nat} : (s.store.any (fun e => e.isNode g ctx level.toNat sib)
      || s.formed.any (fun e => e.isNode g ctx level.toNat sib)
      || s.spilled.any (fun y => y.entry.isNode g ctx level.toNat sib)) = true ↔ s.Paired g ctx level.toNat sib :=
  Bool.or_eq_true_iff.trans ((or_congr (Bool.or_eq_true_iff.trans (or_congr List.any_eq_true List.any_eq_true)) List.any_eq_true).trans
      or_assoc)

/-- The place of a node's sibling in its level (R134). -/
noncomputable def siblingOf (node : Nat) : Nat := if node % 2 = 0 then node + 1 else node - 1

/-- A spilled node comes back when its write and its read are done, its sibling is there, and the store has room (R138). -/
def State.Returns (s : State) (g : BitVec 8) (ctx : BitVec 18) (level node : Nat) (x : Spilled) : Prop :=
  x.acked = true ∧ x.arrived = true ∧ s.Paired g ctx level (siblingOf node) ∧ s.store.length < 131072

/-- The state with the spilled node back in the store. -/
noncomputable def State.takesBack (s : State) (g : BitVec 8) (ctx : BitVec 18) (level node : Nat) (x : Spilled) : State :=
  { s with
    spilled := s.spilled.filter fun y => !y.entry.isNode g ctx level node
    store := s.store ++ [x.entry] }

variable {x : Spilled} (found : s.spilled.find? (fun y => y.entry.isNode g ctx level.toNat node.toNat) = some x)
include found

theorem memoryReadResponse_spill (acked : x.acked = true) (away : x.arrived = false) (awake : s.pwr.stopped = false)
    (port : Fin 4) (data : List (Nat × Byte)) :
    exec (.memoryReadResponse port (.spill g ctx level node) data) s = .next (s.reads x data) := by
  have answer : exec (.memoryReadResponse port (.spill g ctx level node) data) s = if s.pwr.stopped then .next s
      else match s.spilled.find? fun y => y.entry.isNode g ctx level.toNat node.toNat with
        | none => .next s
        | some x => if x.acked && !x.arrived then .next (s.reads x data) else .next s := rfl
  rw [answer, found]
  refine (if_neg (Bool.eq_false_iff.1 awake)).trans (if_pos ?_)
  rw [acked, away]
  rfl

/-- Does a node at hand come back now? -/
noncomputable def State.returnsNow (s : State) (g : BitVec 8) (ctx : BitVec 18) (level node : Nat) (x : Spilled) : Bool :=
  s.coresRun && !s.pwr.phase.draining && decide (s.store.length < 131072) && x.acked && x.arrived
    && (s.store.any (fun e => e.isNode g ctx level (siblingOf node)) || s.formed.any (fun e => e.isNode g ctx level (siblingOf node))
      || s.spilled.any (fun y => y.entry.isNode g ctx level (siblingOf node)))

omit found in
theorem State.returnsNow_iff (active : (s.coresRun && !s.pwr.phase.draining) = true) :
    s.returnsNow g ctx level.toNat node.toNat x = true ↔ s.Returns g ctx level.toNat node.toNat x := by
  unfold State.returnsNow
  rw [active, Bool.true_and, Bool.and_assoc, Bool.and_assoc]
  refine Bool.and_eq_true_iff.trans (and_comm.trans ((and_congr (Bool.and_eq_true_iff.trans (and_congr_right fun _ =>
    Bool.and_eq_true_iff.trans (and_congr_right fun _ => State.paired_iff))) decide_eq_true_iff).trans ?_))
  exact and_assoc.trans (and_congr_right fun _ => and_assoc)

theorem spillReturn_eq (active : (s.coresRun && !s.pwr.phase.draining) = true) :
    (s.Returns g ctx level.toNat node.toNat x →
      exec (.spillReturn ⟨g, ctx⟩ level node) s = .next (s.takesBack g ctx level.toNat node.toNat x))
    ∧ (¬ s.Returns g ctx level.toNat node.toNat x → exec (.spillReturn ⟨g, ctx⟩ level node) s = .next s) := by
  have answer : exec (.spillReturn ⟨g, ctx⟩ level node) s =
      if s.returnsNow g ctx level.toNat node.toNat x then .next (s.takesBack g ctx level.toNat node.toNat x) else .next s := by
    show (match s.spilled.find? fun y => y.entry.isNode g ctx level.toNat node.toNat with
      | none => Host.Outcome.next s
      | some x => if s.returnsNow g ctx level.toNat node.toNat x then .next (s.takesBack g ctx level.toNat node.toNat x) else .next s) = _
    rw [found]
  exact ⟨fun back => answer.trans (if_pos ((State.returnsNow_iff active).2 back)),
    fun stay => answer.trans (if_neg (mt (State.returnsNow_iff active).1 stay))⟩

end returned

/-! Top-k records. -/

theorem topkRecord_ne_nil {a c chain k : Nat} {cands : List (W32 × W32)} : topkRecord a c chain k cands ≠ [] :=
  List.append_ne_nil_of_left_ne_nil (leCells_ne_nil (Nat.succ_ne_zero 7)) _

/-- Does a write that waits set one of the bytes (R144)? -/
def State.Overlaps (s : State) (cells : List (Nat × Byte × Byte)) : Prop := ∃ w ∈ s.writes, ∃ x ∈ w.cells, ∃ y ∈ cells, y.1 = x.1

theorem State.writing_iff {cells : List (Nat × Byte × Byte)} : s.writing cells = true ↔ s.Overlaps cells :=
  List.any_eq_true.trans (exists_congr fun _ => and_congr_right fun _ => List.any_eq_true.trans (exists_congr fun _ =>
    and_congr_right fun _ => List.any_eq_true.trans (exists_congr fun _ => and_congr_right fun _ => beq_iff_eq)))

theorem topkMerge_none (none_ : s.rowRecords g ctx = []) : exec (.topkMerge g ctx) s = .next s := by
  show execTopkMerge g ctx s = _
  unfold execTopkMerge
  rw [none_]

/-- The record that the records `recs`, `r` first, make in the place of each (R143, R144). -/
noncomputable def mergedRecord (ctx : BitVec 18) (r : TopkRec) (recs : List TopkRec) : List (Nat × Byte × Byte) :=
  (((recs.map TopkRec.addr).dedup).map fun a => topkRecord a ctx.toNat r.chain.toNat r.k
    (((recs.map TopkRec.cands).flatten.dedup).foldl (fun acc x => topkInsert x acc) [])).flatten

theorem mergedRecord_ne_nil {r x : TopkRec} {recs : List TopkRec} (some_ : x ∈ recs) : mergedRecord ctx r recs ≠ [] := fun e =>
  topkRecord_ne_nil (List.flatten_eq_nil_iff.1 e _ (List.mem_map_of_mem (List.mem_dedup.2 (List.mem_map_of_mem some_))))

section merge

/-- The state without the records of the row that are merged. -/
noncomputable def State.merged (s : State) (g : BitVec 8) (ctx : BitVec 18) (past : Nat) : State :=
  { s with topks := s.topks.filter fun x => !(x.bgrp == g && x.ctx == ctx && x.past == past) }

theorem ready_iff {r : TopkRec} : (decide (r.past ≠ 0) || s.rowComplete g.toNat ctx.toNat) = true ↔
    r.past ≠ 0 ∨ s.rowComplete g.toNat ctx.toNat = true := Bool.or_eq_true_iff.trans (or_congr_left decide_eq_true_iff)

variable {r : TopkRec} {rest : List TopkRec} (recs : s.rowRecords g ctx = r :: rest)
include recs

theorem topkMerge_eq : exec (.topkMerge g ctx) s =
    if s.coresRun && !s.pwr.phase.draining && (decide (r.past ≠ 0) || s.rowComplete g.toNat ctx.toNat) then
      if s.writing (mergedRecord ctx r (s.rowRecords g ctx)) then .next s
      else .next ((s.merged g ctx r.past).memWrite 0 ⟨.core, mergedRecord ctx r (s.rowRecords g ctx)⟩)
    else .next s := by
  show (match s.rowRecords g ctx with
    | [] => Host.Outcome.next s
    | r :: _ => if s.coresRun && !s.pwr.phase.draining && (decide (r.past ≠ 0) || s.rowComplete g.toNat ctx.toNat) then
        if s.writing (mergedRecord ctx r (s.rowRecords g ctx)) then .next s
        else .next ((s.merged g ctx r.past).memWrite 0 ⟨.core, mergedRecord ctx r (s.rowRecords g ctx)⟩)
      else .next s) = _
  rw [recs]

theorem topkMerge_waits
    (waits : ¬ (r.past ≠ 0 ∨ s.rowComplete g.toNat ctx.toNat = true) ∨ s.Overlaps (mergedRecord ctx r (s.rowRecords g ctx))) :
    exec (.topkMerge g ctx) s = .next s := by
  refine (topkMerge_eq recs).trans (waits.elim (fun unready => if_neg fun runs => ?_) fun held => ?_)
  · exact unready (ready_iff.1 (Bool.and_eq_true_iff.1 runs).2)
  · exact (ite_congr rfl (fun _ => if_pos (State.writing_iff.2 held)) fun _ => rfl).trans (ite_self _)

theorem topkMerge_sends (runs : s.coresRun = true) (open_ : s.pwr.phase.draining = false)
    (ready : r.past ≠ 0 ∨ s.rowComplete g.toNat ctx.toNat = true) (free : ¬ s.Overlaps (mergedRecord ctx r (s.rowRecords g ctx))) :
    ∃ t, exec (.topkMerge g ctx) s = .next t ∧ s.Sends t ⟨.core, mergedRecord ctx r (s.rowRecords g ctx)⟩
      ∧ t = (s.merged g ctx r.past).withQueues t.mpq t.mpWait := by
  refine ⟨_, (topkMerge_eq recs).trans ((if_pos ?_).trans (if_neg (mt State.writing_iff.1 free))),
    State.memWrite_sends_of_queues rfl rfl (mergedRecord_ne_nil ((congrArg (r ∈ ·) recs).mpr List.mem_cons_self)), State.memWrite_only ..⟩
  rw [runs, open_, ready_iff.2 ready]
  rfl

end merge

/-- Settles O56: a spill and a merge send one write, a return moves one node. -/
theorem spillAndTopk : Obligations.SpillAndTopk := fun g ctx level node s runs open_ =>
  have clauses : (∀ (slot : W32) (e : BondEntry), s.store.find? (fun e => e.isNode g ctx level.toNat node.toNat) = some e →
        slot.toNat < s.ctl.spillSize.toNat → (∀ x ∈ s.spilled, x.slot ≠ slot) →
        (131072 ≤ s.store.length → ∃ t, exec (.bondStoreSpill ⟨g, ctx⟩ level node slot) s = .next t ∧ s.Sends t (s.nodeWrite e slot)
          ∧ t = (s.spills g ctx level.toNat node.toNat e slot).withQueues t.mpq t.mpWait)
        ∧ (s.store.length < 131072 → exec (.bondStoreSpill ⟨g, ctx⟩ level node slot) s = .next s))
      ∧ (∀ x, (s.spilled.find? fun y => y.entry.isNode g ctx level.toNat node.toNat) = some x →
        (x.acked = true → x.arrived = false → s.pwr.stopped = false → ∀ port data,
          exec (.memoryReadResponse port (.spill g ctx level node) data) s = .next (s.reads x data))
        ∧ (s.Returns g ctx level.toNat node.toNat x →
          exec (.spillReturn ⟨g, ctx⟩ level node) s = .next (s.takesBack g ctx level.toNat node.toNat x))
        ∧ (¬ s.Returns g ctx level.toNat node.toNat x → exec (.spillReturn ⟨g, ctx⟩ level node) s = .next s))
      ∧ (s.rowRecords g ctx = [] → exec (.topkMerge g ctx) s = .next s)
      ∧ ∀ r rest, s.rowRecords g ctx = r :: rest →
        (¬ (r.past ≠ 0 ∨ s.rowComplete g.toNat ctx.toNat = true) ∨ s.Overlaps (mergedRecord ctx r (s.rowRecords g ctx)) →
          exec (.topkMerge g ctx) s = .next s)
        ∧ (r.past ≠ 0 ∨ s.rowComplete g.toNat ctx.toNat = true → ¬ s.Overlaps (mergedRecord ctx r (s.rowRecords g ctx)) →
          ∃ t, exec (.topkMerge g ctx) s = .next t ∧ s.Sends t ⟨.core, mergedRecord ctx r (s.rowRecords g ctx)⟩
            ∧ t = (s.merged g ctx r.past).withQueues t.mpq t.mpWait) :=
    ⟨fun _ _ found inside fresh => ⟨bondStoreSpill_sends runs open_ found inside fresh, bondStoreSpill_waits found⟩,
      fun _ found => ⟨memoryReadResponse_spill found, spillReturn_eq found (Bool.and_eq_true_iff.2 ⟨runs, congrArg not open_⟩)⟩,
          topkMerge_none,
      fun _ _ recs => ⟨topkMerge_waits recs, topkMerge_sends recs runs open_⟩⟩
  clauses

end Sys2Proof.Machine

/-! ### What a prefetch leaves alone (R19, R130, R338) -/

namespace Sys2Proof.Machine

variable {s t u : State} {n : Nat}

/-! A tile in its slot, and the bays of a state. -/

theorem Bay.slot_of_tile? {b : Bay} {slot : Nat} {x : Tile} (h : b.tile? slot = some x) : x.slot = slot :=
  beq_iff_eq.1 (List.find?_some (p := fun t : Tile => t.slot == slot) h)

theorem Bay.mem_of_tile? {b : Bay} {slot : Nat} {x : Tile} (h : b.tile? slot = some x) : x ∈ b.tiles := List.mem_of_find?_eq_some h

/-- `f` where the tile stands in slot `k`. -/
noncomputable def Tile.changedAt (f : Tile → Tile) (k : Nat) (x : Tile) : Tile := if x.slot = k then f x else x

/-- What `f` keeps, it keeps in one slot. -/
theorem Tile.changedAt_keeps {α : Type} (p : Tile → α) {f : Tile → Tile} (keeps : ∀ x, p (f x) = p x) (k : Nat) (x : Tile) :
    p (x.changedAt f k) = p x := by
  unfold Tile.changedAt
  split
  · exact keeps x
  · rfl

/-- A change of the tiles in a slot that keeps each in its slot. -/
theorem Bay.tile?_mapTile_of_slot {b : Bay} {f : Tile → Tile} {k : Nat} (kept : ∀ x : Tile, (x.changedAt f k).slot = x.slot) (slot : Nat) :
    (b.mapTile k f).tile? slot = (b.tile? slot).map (Tile.changedAt f k) :=
  List.find?_map.trans (congrArg (fun p => (b.tiles.find? p).map (Tile.changedAt f k)) (funext fun x => congrArg (· == slot) (kept x)))

/-- A change of the tiles in a slot that leaves their SEQ alone keeps each in its slot. -/
theorem Bay.tile?_mapTile {b : Bay} {f : Tile → Tile} (seq : ∀ x, (f x).seq = x.seq) (k slot : Nat) :
    (b.mapTile k f).tile? slot = (b.tile? slot).map (Tile.changedAt f k) :=
  Bay.tile?_mapTile_of_slot (fun x => congrArg (fun q : W32 => q.toNat % 64) (Tile.changedAt_keeps Tile.seq seq k x)) slot

/-- A bay that the state does not hold reads as after a reset. -/
theorem State.lt_of_bay_ne (h : s.bay n ≠ Bay.reset) : n < s.bays.length :=
  lt_of_not_ge fun out => h (List.getD_eq_default s.bays Bay.reset out)

theorem State.lt_of_mem_tiles {x : Tile} (h : x ∈ (s.bay n).tiles) : n < s.bays.length :=
  State.lt_of_bay_ne fun e => List.not_mem_nil ((congrArg (x ∈ Bay.tiles ·) e).mp h)

theorem State.lt_of_held {h : HeldOp} (held : (s.bay n).held = some h) : n < s.bays.length :=
  State.lt_of_bay_ne fun e => Option.some_ne_none h (held.symm.trans (congrArg Bay.held e))

/-- No accepted tile of the bay names a poisoned context as its own (R338). -/
def State.CleanBay (s : State) (n : Nat) : Prop :=
  ∀ x ∈ (s.bay n).tiles, x.isAccepted = true → ∀ j, j < 256 → x.base + j ∉ s.poison

/-- A bay with other tiles. -/
noncomputable def Bay.withTiles (b : Bay) (tiles : List Tile) : Bay := { b with tiles := tiles }

/-- What the prefetches of bay `n` change at most. -/
structure Prefetches (n : Nat) (s t : State) : Prop where
  frame : TileFrame s t
  bay : t.bay n = (s.bay n).withTiles (t.bay n).tiles
  gone : ∀ slot, (s.bay n).tile? slot = none → (t.bay n).tile? slot = none
  stays : ∀ slot x, (s.bay n).tile? slot = some x → x.isAccepted = false → (t.bay n).tile? slot = some x
  clean : s.CleanBay n → t.groups = s.groups ∧ t.log = s.log ∧ t.CleanBay n

theorem Prefetches.bay_eq {b : Bay} (h : Prefetches n s t) (e : s.bay n = b) : t.bay n = b.withTiles (t.bay n).tiles :=
  h.bay.trans (congrArg (Bay.withTiles · (t.bay n).tiles) e)

/-- What does not depend on the tiles of the bay. -/
theorem Prefetches.keeps {α : Type} (p : Bay → α) (keeps : ∀ b l, p (b.withTiles l) = p b) {b : Bay} (h : Prefetches n s t)
    (e : s.bay n = b) : p (t.bay n) = p b := (congrArg p (h.bay_eq e)).trans (keeps _ _)

theorem Prefetches.refl (n : Nat) (s : State) : Prefetches n s s :=
  ⟨.refl s, rfl, fun _ => id, fun _ _ h _ => h, fun c => ⟨rfl, rfl, c⟩⟩

theorem Prefetches.trans (h : Prefetches n s t) (k : Prefetches n t u) : Prefetches n s u where
  frame := h.frame.trans k.frame
  bay := k.bay.trans ((congrArg (Bay.withTiles · (u.bay n).tiles) h.bay).trans rfl)
  gone slot none_ := k.gone slot (h.gone slot none_)
  stays slot x some_ out := k.stays slot x (h.stays slot x some_ out) out
  clean c := by
    obtain ⟨groups, log, c'⟩ := h.clean c
    obtain ⟨groups', log', c''⟩ := k.clean c'
    exact ⟨groups'.trans groups, log'.trans log, c''⟩

theorem Prefetches.ite {c : Prop} [Decidable c] (h : Prefetches n s t) (k : ¬ c → Prefetches n s u) :
    Prefetches n s (if c then t else u) := by
  split
  · exact h
  · exact k ‹_›

/-- A change of the accepted tile in one slot, with entries and marks where the tile meets a poisoned context. -/
theorem Prefetches.of_mapTile {x : Tile} {f : Tile → Tile} (at_ : (s.bay n).tile? x.slot = some x) (accepted : x.isAccepted = true)
    (seq : ∀ y, (f y).seq = y.seq) (frame : TileFrame s t) (bays : t.bays = (s.mapBay n fun b => b.mapTile x.slot f).bays)
    (poisoned : (∀ j, j < 256 → x.base + j ∉ s.poison) →
      t.groups = s.groups ∧ t.log = s.log ∧ ∀ y, (f y).base = y.base ∧ (f y).isAccepted = y.isAccepted) : Prefetches n s t := by
  have here : t.bay n = (s.bay n).mapTile x.slot f :=
    (congrArg (fun l : List Bay => l.getD n Bay.reset) bays).trans (s.bay_mapBay_same n _ (s.lt_of_mem_tiles (Bay.mem_of_tile? at_)))
  have found (slot : Nat) : (t.bay n).tile? slot = ((s.bay n).tile? slot).map (Tile.changedAt f x.slot) :=
    (congrArg (Bay.tile? · slot) here).trans (Bay.tile?_mapTile seq _ _)
  refine ⟨frame, here.trans (congrArg (s.bay n).withTiles (congrArg Bay.tiles here).symm), fun slot none_ => ?_,
    fun slot y some_ out => ?_, fun c => ?_⟩
  · exact (found slot).trans (congrArg _ none_)
  · refine (found slot).trans ((congrArg _ some_).trans (congrArg some (if_neg fun e => ?_)))
    have same := some_.symm.trans ((congrArg _ ((Bay.slot_of_tile? some_).symm.trans e)).trans at_)
    exact Bool.false_ne_true (out.symm.trans ((congrArg Tile.isAccepted (Option.some.inj same)).trans accepted))
  · obtain ⟨groups, log, keeps⟩ := poisoned (c x (Bay.mem_of_tile? at_) accepted)
    refine ⟨groups, log, ?_⟩
    unfold State.CleanBay
    rw [here, show t.poison = s.poison from (congrArg State.poison frame).trans rfl]
    refine List.forall_mem_map.2 fun z hz acc => ?_
    have base := Tile.changedAt_keeps Tile.base (fun y => (keeps y).1) x.slot z
    have status := Tile.changedAt_keeps Tile.isAccepted (fun y => (keeps y).2) x.slot z
    intro j lt
    exact (congrArg (· + j ∉ s.poison) base).mpr (c z hz (status.symm.trans acc) j lt)

theorem State.eccRefuse_frame (x : Tile) (c : Nat) : TileFrame s (s.eccRefuse n x c) :=
  ((State.logE_frame _ _ _ _ _ _ _ _ _).trans (State.unmark_frame _ _)).trans (State.mapBay_frame _ _ _)

/-- A state with other bond groups. -/
noncomputable def State.withGroups (s : State) (m : List (Nat × Bgrp)) : State := { s with groups := m }

/-- Taking marks back changes the groups alone. -/
theorem State.unmark_only (x : Tile) : s.unmark x = s.withGroups (s.unmark x).groups := by
  unfold State.unmark
  split
  · rfl
  · rfl

theorem State.unmark_bays (x : Tile) : (s.unmark x).bays = s.bays := (congrArg State.bays (State.unmark_only x)).trans rfl

/-- A tile that a poisoned context refuses (R338). -/
noncomputable def Tile.eccRefused (x : Tile) : Tile :=
  { x with status := .refused (BitVec.ofNat 8 cECCLOSS) none, staged := [], data := [], args := [], view := [] }

theorem State.eccRefuse_bays (x : Tile) (c : Nat) :
    (s.eccRefuse n x c).bays = (s.mapBay n fun b => b.mapTile x.slot Tile.eccRefused).bays :=
  congrArg (fun bays : List Bay => bays.modify n fun b => b.mapTile x.slot Tile.eccRefused)
    ((State.unmark_bays x).trans (s.logE_bays ..))

/-- A tile whose prefetch has run (R19). -/
noncomputable def Tile.copies (s : State) (base : Nat) (x : Tile) : Tile :=
  { x with staged := (List.range 256).map fun r => s.ctx (base + r) }

/-- The contexts of a tile (R19). -/
noncomputable def Tile.contexts (x : Tile) : List Nat := (List.range 256).map (x.base + ·)

/-- The prefetch of tile `x`, unless one of its contexts is poisoned. -/
noncomputable def State.prefetchTile (s : State) (n slot : Nat) (x : Tile) : State :=
  match x.contexts.find? fun c => s.poison.contains c with
  | some c => s.eccRefuse n x c
  | none => s.mapBay n fun b => b.mapTile slot (Tile.copies s x.base)

theorem State.prefetchTile_prefetches {x : Tile} (found : (s.bay n).tile? x.slot = some x) (accepted : x.isAccepted = true) :
    Prefetches n s (s.prefetchTile n x.slot x) := by
  unfold State.prefetchTile
  cases poisoned : x.contexts.find? fun c => s.poison.contains c with
  | some c =>
    refine .of_mapTile (f := Tile.eccRefused) found accepted (fun _ => rfl) (State.eccRefuse_frame x c) (State.eccRefuse_bays x c) fun
        clean => ?_
    obtain ⟨j, hj, rfl⟩ := List.mem_map.1 (List.mem_of_find?_eq_some poisoned)
    exact absurd (List.contains_iff_mem.1 (List.find?_some poisoned)) (clean j (List.mem_range.1 hj))
  | none =>
    exact .of_mapTile (f := Tile.copies s x.base) found accepted
      (fun _ => rfl) (State.mapBay_frame _ _ _) rfl fun _ => ⟨rfl, rfl, fun _ => ⟨rfl, rfl⟩⟩

theorem State.prefetchOne_prefetches (slot : Nat) : Prefetches n s (s.prefetchOne n slot) := by
  show Prefetches n s (match (s.bay n).tile? slot with
    | none => s
    | some x => if !x.isAccepted || !x.staged.isEmpty || (s.bay n).prefetchWaits x then s else s.prefetchTile n slot x)
  cases found : (s.bay n).tile? slot with
  | none => exact .refl n s
  | some x =>
    obtain rfl := Bay.slot_of_tile? found
    exact .ite (.refl n s) fun runs => State.prefetchTile_prefetches found (Bool.of_not_eq_false fun e => runs (by rw [e]; rfl))

theorem Prefetches.foldl {f : State → Nat → State} (one : ∀ s i, Prefetches n s (f s i)) (l : List Nat) :
    ∀ s : State, Prefetches n s (l.foldl f s) := by
  induction l with
  | nil => exact Prefetches.refl n
  | cons i l ih => exact fun s => (one s i).trans (ih _)

theorem State.prefetch_prefetches : Prefetches n s (s.prefetch n) := .foldl (fun _ _ => State.prefetchOne_prefetches _) _ s

theorem State.cleanBay_of_no_poison (none_ : s.poison = []) : s.CleanBay n :=
  fun x _ _ j _ mem => List.not_mem_nil ((congrArg (x.base + j ∈ ·) none_).mp mem)

/-! ### The write-back of an operation (R19, R127, R147, R192) -/

theorem State.writeLanes_only (h : HeldOp) (ls : List Lane) : ∀ (r : Nat) (s : State),
    s.writeLanes h r ls = s.withCtxs (s.writeLanes h r ls).ctxs := by
  induction ls with
  | nil => exact fun _ _ => rfl
  | cons l ls ih => exact fun r s => ih (r + 1) _

/-- The lanes' contexts stand one behind the other. -/
theorem HeldOp.ctxOf_ne (h : HeldOp) {i j : Nat} (ne : i ≠ j) : h.ctxOf i ≠ h.ctxOf j := by
  unfold HeldOp.ctxOf
  cases h.segCtx with
  | none => exact fun e => ne (Nat.add_left_cancel e)
  | some p => exact fun e => ne (Nat.add_left_cancel e)

/-- No context but those of the lanes changes. -/
theorem State.writeLanes_other (h : HeldOp) {x : Nat} (ls : List Lane) : ∀ (r : Nat) (s : State), swf RowCtx.zero s.ctxs = true →
    (∀ i, i < ls.length → x ≠ h.ctxOf (r + i)) → (s.writeLanes h r ls).ctx x = s.ctx x := by
  induction ls with
  | nil => exact fun _ _ _ _ => rfl
  | cons l ls ih =>
    intro r s wf out
    refine (ih (r + 1) (s.setCtx _ _) (swf_sset RowCtx.zero s.ctxs _ _ wf) fun i lt e => ?_).trans
      ((s.ctx_setCtx _ _ _ wf).trans (if_neg (out 0 (Nat.succ_pos _))))
    exact out (i + 1) (Nat.succ_lt_succ lt) (e.trans (congrArg h.ctxOf (Nat.add_right_comm r 1 i)))

/-- Each lane's context is merged where its own stands (R127). -/
theorem State.writeLanes_ctx (h : HeldOp) {l : Lane} {x : Nat} (ls : List Lane) : ∀ (r i : Nat) (s : State), swf RowCtx.zero s.ctxs = true →
    ls[i]? = some l → x = h.ctxOf (r + i) → (s.writeLanes h r ls).ctx x = mergeBack (h.bgrp != 0) (s.ctx x) l.ctx := by
  induction ls with
  | nil => exact fun _ _ _ _ e => absurd e.symm (Option.some_ne_none l)
  | cons k ls ih =>
    intro r i s wf e here
    have wf' := swf_sset RowCtx.zero s.ctxs (h.ctxOf r) (mergeBack (h.bgrp != 0) (s.ctx (h.ctxOf r)) k.ctx) wf
    cases i with
    | zero =>
      obtain rfl : k = l := Option.some.inj e
      obtain rfl := here
      exact (State.writeLanes_other h ls (r + 1) _ wf' fun i _ =>
        h.ctxOf_ne (Nat.ne_of_lt (Nat.lt_of_lt_of_le r.lt_succ_self (Nat.le_add_right _ i)))).trans
        ((s.ctx_setCtx _ _ _ wf).trans (if_pos rfl))
    | succ i =>
      have apart : x ≠ h.ctxOf r := here ▸ h.ctxOf_ne (Nat.ne_of_gt (Nat.lt_add_of_pos_right i.succ_pos))
      exact (ih (r + 1) i _ wf' e (here.trans (congrArg h.ctxOf (Nat.add_right_comm r i 1)))).trans
        (congrArg (mergeBack (h.bgrp != 0) · l.ctx) ((s.ctx_setCtx _ _ _ wf).trans (if_neg apart)))

/-- Under SEGCTX before the first segment, no context of the lanes has a home (R192). -/
noncomputable def HeldOp.outside (h : HeldOp) : Bool := (chainOf h.tile.words).segctx.isSome && h.segCtx.isNone

/-- What the lanes leave in the Scaffold. -/
noncomputable def State.backCtxs (s : State) (n : Nat) (h : HeldOp) : List (Nat × RowCtx) :=
  if h.outside then s.ctxs else (s.writeLanes h 0 (s.bay n).lanes).ctxs

/-- Empty lanes, and the operation that a tile may still carry on. -/
noncomputable def Bay.back (b : Bay) (h : HeldOp) : Bay :=
  { b with lanes := [], held := none, resume := if h.carry then some (h, b.lanes) else none }

theorem State.backOp_eq (h : HeldOp) : s.backOp n h = (s.withCtxs (s.backCtxs n h)).mapBay n fun b => b.back h := by
  refine congrArg (State.mapBay · n fun b => b.back h) ?_
  unfold State.backCtxs
  refine Eq.trans (ite_congr rfl (fun _ => rfl) fun _ => State.writeLanes_only h _ 0 s) (apply_ite s.withCtxs _ _ _).symm

theorem State.backOp_bay {h : HeldOp} (held : (s.bay n).held = some h) : (s.backOp n h).bay n = (s.bay n).back h :=
  (congrArg (State.bay · n) (State.backOp_eq h)).trans (State.bay_mapBay_same (s.withCtxs _) n _ (s.lt_of_held held))

theorem contextWriteBack_carried {n : Fin 32} {h : HeldOp} {u : Tile} (held : (s.bay n.val).held = some h)
    (next : (s.bay n.val).nextTile? = some u) (accepted : u.status = .accepted) (carries : u.mayCarry h = true) :
    exec (.contextWriteBack n) s = .next s := by
  show execContextWriteBack n s = _
  simp [execContextWriteBack, held, next, Tile.isAccepted, accepted, carries]

theorem contextWriteBack_eq {n : Fin 32} {h : HeldOp} (held : (s.bay n.val).held = some h) (free : (s.bay n.val).act = none)
    (run : s.pwr.phase = .run)
    (ends : ∀ u, (s.bay n.val).nextTile? = some u → u.status = .accepted → u.mayCarry h = false) :
    exec (.contextWriteBack n) s = .next ((s.backOp n.val h).prefetch n.val) := by
  show execContextWriteBack n s = _
  unfold execContextWriteBack
  simp only [held]
  refine if_neg ?_
  rw [free, run]
  cases next : (s.bay n.val).nextTile? with
  | none => exact Bool.false_ne_true
  | some u =>
    cases e : u.isAccepted with
    | false => simp [e]
    | true => simp [ends u next (beq_iff_eq.1 e)]

/-- What the write-back leaves of a lane's context: as it stands, or merged (R127). -/
def HeldOp.Written (h : HeldOp) (l : Lane) (old new : RowCtx) : Prop :=
  (h.bgrp = 0 → new = l.ctx)
  ∧ (h.bgrp ≠ 0 → new = { old with
      maxv := toF32 (Num.max (ofF32 old.maxv) (ofF32 l.ctx.maxv))
      minv := toF32 (Num.min (ofF32 old.minv) (ofF32 l.ctx.minv))
      count := BitVec.ofNat 32 (min (old.count.toNat + l.ctx.count.toNat) 0xFFFFFFFF)
      blockloss := BitVec.ofNat 16 (min (old.blockloss.toNat + l.ctx.blockloss.toNat) 0xFFFF)
      nanSeen := old.nanSeen || l.ctx.nanSeen
      infSeen := old.infSeen || l.ctx.infSeen })

theorem HeldOp.written {h : HeldOp} {l : Lane} {old new : RowCtx} (merged : new = mergeBack (h.bgrp != 0) old l.ctx) : h.Written l old
    new :=
  ⟨fun direct => merged.trans (if_neg (Bool.eq_false_iff.1 (bne_eq_false_iff_eq.2 direct))),
    fun bonded => merged.trans (if_pos (bne_iff_ne.2 bonded))⟩

/-- A state that the write-back of `h` and the prefetches behind it leave. -/
def State.WrittenBack (s t : State) (n : Nat) (h : HeldOp) : Prop := Prefetches n (s.backOp n h) t

theorem State.WrittenBack.ctxs {h : HeldOp} (fetch : s.WrittenBack t n h) : t.ctxs = s.backCtxs n h :=
  (congrArg State.ctxs fetch.frame).trans (congrArg State.ctxs (State.backOp_eq h))

theorem State.WrittenBack.ctx {h : HeldOp} (fetch : s.WrittenBack t n h) (inside : ¬ h.outside = true) (x : Nat) :
    t.ctx x = (s.writeLanes h 0 (s.bay n).lanes).ctx x :=
  congrArg (sget RowCtx.zero · x) (fetch.ctxs.trans (if_neg inside))

theorem State.WrittenBack.bay {h : HeldOp} (fetch : s.WrittenBack t n h) (held : (s.bay n).held = some h) :
    t.bay n = ((s.bay n).back h).withTiles (t.bay n).tiles :=
  Prefetches.bay_eq fetch (State.backOp_bay held)

theorem State.WrittenBack.other {h : HeldOp} (fetch : s.WrittenBack t n h) (canon : s.Canonical) {x : Nat}
    (out : ∀ r, r < (s.bay n).lanes.length → x ≠ h.ctxOf r) : t.ctx x = s.ctx x := by
  by_cases outside : h.outside = true
  · exact congrArg (sget RowCtx.zero · x) (fetch.ctxs.trans (if_pos outside))
  · exact (fetch.ctx outside x).trans (State.writeLanes_other h _ 0 s canon.ctxs fun i lt e =>
      out i lt (e.trans (congrArg h.ctxOf (Nat.zero_add i))))

theorem State.WrittenBack.lane {h : HeldOp} {r : Nat} {l : Lane} (fetch : s.WrittenBack t n h) (canon : s.Canonical)
    (inside : ¬ h.outside = true) (at_ : (s.bay n).lanes[r]? = some l) :
    t.ctx (h.ctxOf r) = mergeBack (h.bgrp != 0) (s.ctx (h.ctxOf r)) l.ctx :=
  (fetch.ctx inside _).trans (State.writeLanes_ctx h _ 0 r s canon.ctxs at_ (congrArg h.ctxOf (Nat.zero_add r).symm))

theorem State.WrittenBack.clean {h : HeldOp} (fetch : s.WrittenBack t n h) (none_ : s.poison = []) :
    t.groups = s.groups ∧ t.log = s.log := by
  obtain ⟨groups, log, -⟩ := Prefetches.clean fetch
    (State.cleanBay_of_no_poison ((congrArg State.poison (State.backOp_eq h)).trans none_))
  exact ⟨groups.trans ((congrArg State.groups (State.backOp_eq h)).trans rfl), log.trans ((congrArg State.log (State.backOp_eq
      h)).trans rfl)⟩

/-- The state with the bays, contexts, groups and error log of `t`. -/
noncomputable def State.backed (s : State) (bays : List Bay) (groups : List (Nat × Bgrp)) (log : ErrLog) (ctxs : List (Nat × RowCtx)) :
    State :=
  { s with bays := bays, ctxs := ctxs, groups := groups, log := log }

theorem State.WrittenBack.only {h : HeldOp} (fetch : s.WrittenBack t n h) : t = s.backed t.bays t.groups t.log t.ctxs :=
  Eq.trans fetch.frame (((congrArg (State.backed · t.bays t.groups t.log (s.backOp n h).ctxs) (State.backOp_eq h)).trans rfl).trans
    (congrArg (s.backed t.bays t.groups t.log) (congrArg State.ctxs fetch.frame).symm))

/-- Under SEGCTX before the first segment, no context of the lanes has a home (R192). -/
def HeldOp.Outside (h : HeldOp) : Prop := (chainOf h.tile.words).segctx.isSome = true ∧ h.segCtx = none

theorem HeldOp.outside_iff {h : HeldOp} : h.outside = true ↔ h.Outside :=
  Bool.and_eq_true_iff.trans (and_congr_right fun _ => Option.isNone_iff_eq_none)

/-- In `t` the operation `h` of bay `n` is written back. -/
def State.WritesBack (s t : State) (n : Nat) (h : HeldOp) : Prop :=
  (t.bay n).held = none ∧ (t.bay n).lanes = [] ∧ (t.bay n).resume = (if h.carry then some (h, (s.bay n).lanes) else none)
  ∧ (h.Outside → t.ctxs = s.ctxs)
  ∧ (∀ (r : Nat) (l : Lane), ¬ h.Outside → (s.bay n).lanes[r]? = some l → h.Written l (s.ctx (h.ctxOf r)) (t.ctx (h.ctxOf r)))
  ∧ (∀ x, (∀ r, r < (s.bay n).lanes.length → x ≠ h.ctxOf r) → t.ctx x = s.ctx x)
  ∧ (s.poison = [] → t.groups = s.groups ∧ t.log = s.log)
  ∧ t = s.backed t.bays t.groups t.log t.ctxs

theorem State.WrittenBack.writesBack {h : HeldOp} (fetch : s.WrittenBack t n h) (held : (s.bay n).held = some h) (canon : s.Canonical) :
    s.WritesBack t n h :=
  have bay := fetch.bay held
  ⟨congrArg Bay.held bay, congrArg Bay.lanes bay, congrArg Bay.resume bay, fun out => fetch.ctxs.trans (if_pos (HeldOp.outside_iff.2 out)),
    fun _ _ inside at_ => HeldOp.written (fetch.lane canon (mt HeldOp.outside_iff.1 inside) at_), fun _ => fetch.other canon,
        fetch.clean, fetch.only⟩

/-- Settles O53: the lanes' contexts are written lane by lane, and the prefetch behind them changes no context. -/
theorem contextWriteBack : Obligations.ContextWriteBack :=
  have clauses : ∀ (n : Fin 32) (h : HeldOp) (s : State), (s.bay n.val).held = some h → (s.bay n.val).act = none → s.pwr.phase = .run →
      s.Canonical →
      (∀ u, (s.bay n.val).nextTile? = some u → u.status = .accepted → u.mayCarry h = true → exec (.contextWriteBack n) s = .next s)
      ∧ ((∀ u, (s.bay n.val).nextTile? = some u → u.status = .accepted → u.mayCarry h = false) →
        ∃ t, exec (.contextWriteBack n) s = .next t ∧ s.WritesBack t n.val h) :=
    fun _ _ _ held free run canon => ⟨fun _ next accepted carries => contextWriteBack_carried held next accepted carries,
      fun ends => ⟨_, contextWriteBack_eq held free run ends,
        State.WrittenBack.writesBack State.prefetch_prefetches held canon⟩⟩
  clauses

end Sys2Proof.Machine

/-! ### Admission: the tile that takes the lanes (R19, R51, R163, R236, R243) -/

namespace Sys2Proof.Machine

variable {s t : State} {n : Nat} {u : Tile} {c : Chain}

/-- The tile as it stands in its slot once it holds the lanes. -/
noncomputable def Tile.admitted (u : Tile) : Tile := { u with status := .admitted, staged := [] }

/-- The operation written back before, where the tile carries it on (R19, R253). -/
noncomputable def State.keptOp (s : State) (n : Nat) (u : Tile) : Option (HeldOp × List Lane) :=
  match (s.bay n).resume with
  | some (h, ls) => if u.carries h then some (h, ls) else none
  | none => none

/-- The operation `f` with the open segment of the write-back that it carries on. -/
noncomputable def HeldOp.goesOn (f : HeldOp) (o : Option (HeldOp × List Lane)) : HeldOp :=
  match o with
  | some (h, _) => { f with segCtx := h.segCtx }
  | none => f

theorem HeldOp.goesOn_only (f : HeldOp) (o : Option (HeldOp × List Lane)) : f.goesOn o = { f with segCtx := (f.goesOn o).segCtx } := by
  cases o with
  | none => rfl
  | some k => rfl

/-- The operation that the tile begins in empty lanes. -/
noncomputable def State.freshOp (s : State) (u : Tile) (c : Chain) : HeldOp :=
  ⟨u.ctxBase, u.chain, u.bgrp, u.overwrite, none, u.chunks (s.group u.bgrp.toNat).chunkSize, u.courses c, chainTotals u c, true,
    { u with status := .admitted }⟩

/-- The operation that the tile begins in empty lanes, or carries on from its write-back. -/
noncomputable def State.startOp (s : State) (n : Nat) (u : Tile) (c : Chain) : HeldOp := (s.freshOp u c).goesOn (s.keptOp n u)

/-- The lane that starts from context `x`. -/
noncomputable def State.startsFrom (s : State) (n : Nat) (u : Tile) (c : Chain) (r : Nat) (x : RowCtx) : Lane :=
  (s.mkLane c u ((s.startOp n u c).ctxOf r) x).resumed (decide (u.bgrp ≠ 0)) ((s.keptOp n u).bind fun k => k.2[r]?)

/-- The lanes of an operation that begins, or goes on from its write-back. -/
noncomputable def State.startLanes (s : State) (n : Nat) (u : Tile) (c : Chain) : List Lane :=
  u.staged.mapIdx fun r x =>
    s.startsFrom n u c r (if (s.startOp n u c).segCtx.isSome then s.ctx ((s.startOp n u c).ctxOf r) else x)

/-- An operation that the lanes hold, and that the tile carries on. -/
noncomputable def State.carriedOp (s : State) (h : HeldOp) (u : Tile) (c : Chain) : HeldOp :=
  { h with
    chunks := h.chunks ++ u.chunks (s.group u.bgrp.toNat).chunkSize
    courses := h.courses ++ u.courses c
    totals := h.totals ++ chainTotals u c
    tile := { u with status := .admitted } }

/-- The lanes of an operation that goes on. -/
noncomputable def State.carriedLanes (s : State) (n : Nat) (c : Chain) : List Lane :=
  (s.bay n).lanes.map fun l => { l with
    etRead := if c.stages.any fun w => stOp w == opNORM && bits w 28 27 != 0 then (s.total l.ctx.etx.toNat).read else 0 }

/-- The operation that the tile begins or goes on with. -/
noncomputable def State.nextOp (s : State) (n : Nat) (u : Tile) (c : Chain) : HeldOp :=
  match (s.bay n).held with
  | some h => s.carriedOp h u c
  | none => s.startOp n u c

/-- The lanes that the tile takes. -/
noncomputable def State.nextLanes (s : State) (n : Nat) (u : Tile) (c : Chain) : List Lane :=
  match (s.bay n).held with
  | some _ => s.carriedLanes n c
  | none => s.startLanes n u c

/-- A bay whose lanes tile `u` takes for operation `h`, before OPEN leaves. -/
noncomputable def Bay.takes (b : Bay) (s : State) (u : Tile) (h : HeldOp) (lanes : List Lane) : Bay :=
  { b.mapTile u.slot fun _ => u.admitted with
    act := some ⟨u.seq, s.ctl.srSeed, s.ctl.srStep, 0, 0, 0, false⟩
    held := some h
    lanes := lanes
    resume := none }

/-- OPEN leaves where the chain sends its output on SO (R243). -/
noncomputable def Bay.opens (b : Bay) (u : Tile) (c : Chain) : Bay := if c.toSo then b.sends (b.egress ++ [tokenOpen u c]) else b

/-- A state with other bays. -/
noncomputable def State.withBays (s : State) (bays : List Bay) : State := { s with bays := bays }

/-- A state with another error log. -/
noncomputable def State.withLog (s : State) (log : ErrLog) : State := { s with log := log }

/-- Two changes of one bay are one. -/
theorem State.mapBay_mapBay (f g : Bay → Bay) : (s.mapBay n f).mapBay n g = s.mapBay n fun b => g (f b) :=
  congrArg s.withBays (List.modify_modify_eq f g n s.bays)

theorem State.takeLanes_eq :
    s.takeLanes n u c = s.mapBay n fun b => (b.takes s u (s.nextOp n u c) (s.nextLanes n u c)).opens u c := by
  have taken : s.takeLanes n u c = if c.toSo
      then (s.mapBay n fun b => b.takes s u (s.nextOp n u c) (s.nextLanes n u c)).pushSo n [tokenOpen u c]
      else s.mapBay n fun b => b.takes s u (s.nextOp n u c) (s.nextLanes n u c) := rfl
  refine taken.trans ?_
  unfold Bay.opens
  cases c.toSo with
  | true => exact State.mapBay_mapBay _ _
  | false => rfl

theorem State.takeLanes_only : s.takeLanes n u c = s.withBays (s.takeLanes n u c).bays :=
  State.takeLanes_eq.trans (congrArg (fun t : State => s.withBays t.bays) State.takeLanes_eq).symm

theorem State.takeLanes_other (i : Nat) (ne : i ≠ n) : (s.takeLanes n u c).bay i = s.bay i :=
  (congrArg (State.bay · i) State.takeLanes_eq).trans (State.bay_mapBay_other s n i _ ne)

theorem State.takeLanes_bay (lt : n < s.bays.length) :
    (s.takeLanes n u c).bay n = ((s.bay n).takes s u (s.nextOp n u c) (s.nextLanes n u c)).opens u c :=
  (congrArg (State.bay · n) State.takeLanes_eq).trans (State.bay_mapBay_same s n _ lt)

theorem Bay.egress_sends (b : Bay) (xs : List SoItem) : (b.sends xs).egress = xs := List.take_append_drop 32 xs

theorem Bay.opens_egress (b : Bay) : (b.opens u c).egress = b.egress ++ if c.toSo then [tokenOpen u c] else [] := by
  unfold Bay.opens
  cases c.toSo with
  | true => exact b.egress_sends _
  | false => exact (List.append_nil _).symm

/-- OPEN is a transfer of the egress queue alone. -/
theorem Bay.opens_keeps {α : Type} (p : Bay → α) (keeps : ∀ b xs, p (b.sends xs) = p b) (b : Bay) : p (b.opens u c) = p b := by
  unfold Bay.opens
  cases c.toSo with
  | true => exact keeps b _
  | false => rfl

theorem State.takeLanes_keeps {α : Type} (p : Bay → α) (keeps : ∀ b xs, p (b.sends xs) = p b) (lt : n < s.bays.length) :
    p ((s.takeLanes n u c).bay n) = p ((s.bay n).takes s u (s.nextOp n u c) (s.nextLanes n u c)) :=
  (congrArg p (State.takeLanes_bay lt)).trans (Bay.opens_keeps p keeps _)

theorem State.takeLanes_held (lt : n < s.bays.length) : ((s.takeLanes n u c).bay n).held = some (s.nextOp n u c) :=
  State.takeLanes_keeps Bay.held (fun _ _ => rfl) lt

theorem State.takeLanes_lanes (lt : n < s.bays.length) : ((s.takeLanes n u c).bay n).lanes = s.nextLanes n u c :=
  State.takeLanes_keeps Bay.lanes (fun _ _ => rfl) lt

/-- Empty lanes take the tile with its staging copy. -/
theorem State.nextOp_started (held : (s.bay n).held = none) : s.nextOp n u c = s.startOp n u c := by unfold State.nextOp; rw [held]
theorem State.nextLanes_started (held : (s.bay n).held = none) : s.nextLanes n u c = s.startLanes n u c := by
  unfold State.nextLanes
  rw [held]

/-- The lanes that an operation holds go on with the tile. -/
theorem State.nextOp_carried {h : HeldOp} (held : (s.bay n).held = some h) : s.nextOp n u c = s.carriedOp h u c := by
  unfold State.nextOp
  rw [held]
theorem State.nextLanes_carried {h : HeldOp} (held : (s.bay n).held = some h) : s.nextLanes n u c = s.carriedLanes n c := by
  unfold State.nextLanes
  rw [held]

theorem Bay.mem_of_nextTile? {b : Bay} (next : b.nextTile? = some u) : u ∈ b.tiles := List.mem_of_find?_eq_some next

/-- A tile of the bay has a tile found in its slot. -/
theorem Bay.tile?_of_mem {b : Bay} (mem : u ∈ b.tiles) : ∃ x, b.tile? u.slot = some x :=
  Option.isSome_iff_exists.1 (List.find?_isSome.2 ⟨u, mem, beq_self_eq_true u.slot⟩)

/-- The tile found in a slot after each tile of it became `v`. -/
theorem Bay.tile?_mapTile_const {b : Bay} {v : Tile} (mem : u ∈ b.tiles) (slot : v.slot = u.slot) :
    (b.mapTile u.slot fun _ => v).tile? u.slot = some v := by
  have kept (x : Tile) : (x.changedAt (fun _ => v) u.slot).slot = x.slot := by
    unfold Tile.changedAt
    split
    · rename_i same
      exact slot.trans same.symm
    · rfl
  obtain ⟨x, found⟩ := Bay.tile?_of_mem mem
  exact (Bay.tile?_mapTile_of_slot kept _).trans ((congrArg _ found).trans (congrArg some (if_pos (Bay.slot_of_tile? found))))

/-- Tile `u` holds the lanes of bay `n` in `t`, and OPEN has left (R236, R243). -/
def State.Admits (s t : State) (n : Nat) (u : Tile) (c : Chain) : Prop :=
  ∃ w, (t.bay n).tile? u.slot = some w ∧ w = { u with status := .admitted, staged := [] }
    ∧ (t.bay n).act = some ⟨u.seq, s.ctl.srSeed, s.ctl.srStep, 0, 0, 0, false⟩
    ∧ (t.bay n).egress = (s.bay n).egress ++ (if c.toSo then [tokenOpen u c] else []) ∧ (t.bay n).resume = none
    ∧ (∀ i, i ≠ n → t.bay i = s.bay i)

/-- A tile that takes the lanes is admitted. -/
theorem State.takeLanes_admits (mem : u ∈ (s.bay n).tiles) : s.Admits (s.takeLanes n u c) n u c := by
  have lt := s.lt_of_mem_tiles mem
  exact ⟨u.admitted, (State.takeLanes_keeps (Bay.tile? · u.slot) (fun _ _ => rfl) lt).trans (Bay.tile?_mapTile_const mem rfl), rfl,
    State.takeLanes_keeps Bay.act (fun _ _ => rfl) lt, (congrArg Bay.egress (State.takeLanes_bay lt)).trans (Bay.opens_egress _),
    State.takeLanes_keeps Bay.resume (fun _ _ => rfl) lt, State.takeLanes_other⟩

/-- The context that a lane takes from the staging copy (R51). -/
noncomputable def Tile.start (u : Tile) (x : RowCtx) : RowCtx := if u.overwrite = true ∨ u.bgrp ≠ 0 then x.initial else x

theorem Tile.startCtx_eq (x : RowCtx) : startCtx u x = u.start x :=
  if_congr ((Bool.or_eq_true _ _).to_iff.trans (or_congr_right bne_iff_ne)) rfl rfl

/-- Empty lanes have taken tile `u` with its staging copy, and what a write-back kept of its operation (R19, R51). -/
def State.Takes (s t : State) (n : Nat) (u : Tile) : Prop := (t.bay n).lanes.length = u.staged.length
  ∧ ∃ h, (t.bay n).held = some h ∧ h.ctxBase = u.ctxBase ∧ h.chain = u.chain ∧ h.bgrp = u.bgrp ∧ h.overwrite = u.overwrite
    ∧ h.carry = true ∧ h.chunks = u.chunks (s.group u.bgrp.toNat).chunkSize
    ∧ ((∀ k ls, (s.bay n).resume = some (k, ls) → u.carries k = false) → h.segCtx = none
      ∧ ∀ (r : Nat) (x : RowCtx) (l : Lane), u.staged[r]? = some x → (t.bay n).lanes[r]? = some l →
        l.ctx = u.start x ∧ l.topk = [] ∧ l.segs = [])
    ∧ (∀ k ls, (s.bay n).resume = some (k, ls) → u.carries k = true → h.segCtx = k.segCtx
      ∧ (k.segCtx = none → ∀ (r : Nat) (x : RowCtx) (l y : Lane), u.staged[r]? = some x → (t.bay n).lanes[r]? = some l →
        ls[r]? = some y → l.topk = y.topk ∧ l.segs = y.segs
        ∧ l.ctx = if u.bgrp ≠ 0 then { u.start x with maxv := y.ctx.maxv, minv := y.ctx.minv } else u.start x))

theorem State.keptOp_none (not_ : ∀ k ls, (s.bay n).resume = some (k, ls) → u.carries k = false) : s.keptOp n u = none := by
  unfold State.keptOp
  cases resume : (s.bay n).resume with
  | none => rfl
  | some k => exact if_neg (Bool.eq_false_iff.1 (not_ k.1 k.2 resume))

theorem State.keptOp_some {k : HeldOp} {ls : List Lane} (resume : (s.bay n).resume = some (k, ls)) (carries : u.carries k = true) :
    s.keptOp n u = some (k, ls) := by
  unfold State.keptOp
  rw [resume]
  exact if_pos carries

/-- A lane before the first segment starts from its staged context, with what the write-back kept. -/
theorem State.startLanes_at {r : Nat} {x : RowCtx} {l : Lane} (outside : (s.startOp n u c).segCtx = none)
    (staged : u.staged[r]? = some x) (lane : (s.startLanes n u c)[r]? = some l) : l = s.startsFrom n u c r x :=
  (Option.some.inj ((List.getElem?_mapIdx.trans (congrArg _ staged)).symm.trans lane)).symm.trans
    (congrArg (s.startsFrom n u c r) (if_neg (Option.not_isSome_iff_eq_none.2 outside)))

theorem State.startOp_segCtx {o : Option (HeldOp × List Lane)} (kept : s.keptOp n u = o) :
    (s.startOp n u c).segCtx = ((s.freshOp u c).goesOn o).segCtx := congrArg (fun o => ((s.freshOp u c).goesOn o).segCtx) kept

theorem State.startsFrom_eq {r : Nat} (x : RowCtx) {o : Option (HeldOp × List Lane)} (kept : s.keptOp n u = o) :
    s.startsFrom n u c r x = (s.mkLane c u ((s.startOp n u c).ctxOf r) x).resumed (decide (u.bgrp ≠ 0)) (o.bind fun k => k.2[r]?) :=
  congrArg (fun o : Option (HeldOp × List Lane) => Lane.resumed _ _ (o.bind fun k => k.2[r]?)) kept

/-- Without a write-back that the tile carries on, a lane starts from the staging copy alone. -/
theorem State.startLanes_fresh {r : Nat} {x : RowCtx} {l : Lane} (kept : s.keptOp n u = none)
    (staged : u.staged[r]? = some x) (lane : (s.startLanes n u c)[r]? = some l) :
    l.ctx = u.start x ∧ l.topk = [] ∧ l.segs = [] := by
  have made := (State.startLanes_at (State.startOp_segCtx kept) staged lane).trans (State.startsFrom_eq x kept)
  exact ⟨(congrArg Lane.ctx made).trans (Tile.startCtx_eq x), congrArg Lane.topk made, congrArg Lane.segs made⟩

/-- What a lane keeps of the write-back that its tile carries on (R19). -/
theorem State.startLanes_kept {k : HeldOp} {ls : List Lane} {r : Nat} {x : RowCtx} {l y : Lane} (kept : s.keptOp n u = some (k, ls))
    (outside : k.segCtx = none) (staged : u.staged[r]? = some x) (lane : (s.startLanes n u c)[r]? = some l)
    (written : ls[r]? = some y) : l.topk = y.topk ∧ l.segs = y.segs
      ∧ l.ctx = if u.bgrp ≠ 0 then { u.start x with maxv := y.ctx.maxv, minv := y.ctx.minv } else u.start x := by
  have made := ((State.startLanes_at ((State.startOp_segCtx kept).trans outside) staged lane).trans (State.startsFrom_eq x kept)).trans
    (congrArg (Lane.resumed _ _) written)
  refine ⟨(congrArg Lane.topk made).trans rfl, (congrArg Lane.segs made).trans rfl, (congrArg Lane.ctx made).trans ?_⟩
  rw [← Tile.startCtx_eq]
  exact ite_congr decide_eq_true_eq (fun _ => rfl) fun _ => rfl

theorem State.takes_of_started (lanes : (t.bay n).lanes = s.startLanes n u c) (held : (t.bay n).held = some (s.startOp n u c)) :
    s.Takes t n u := by
  have op := (s.freshOp u c).goesOn_only (s.keptOp n u)
  exact ⟨(congrArg List.length lanes).trans List.length_mapIdx, s.startOp n u c, held, congrArg HeldOp.ctxBase op,
    congrArg HeldOp.chain op, congrArg HeldOp.bgrp op, congrArg HeldOp.overwrite op, congrArg HeldOp.carry op,
    congrArg HeldOp.chunks op,
    fun none_ => ⟨State.startOp_segCtx (State.keptOp_none none_), fun r x l staged lane =>
      State.startLanes_fresh (State.keptOp_none none_) staged ((congrArg (·[r]?) lanes).symm.trans lane)⟩,
    fun k ls resume carries => ⟨State.startOp_segCtx (State.keptOp_some resume carries), fun outside r x l y staged lane written =>
      State.startLanes_kept (State.keptOp_some resume carries) outside staged ((congrArg (·[r]?) lanes).symm.trans lane) written⟩⟩

/-- Empty lanes that take a tile. -/
theorem State.takeLanes_takes (lt : n < s.bays.length) (held : (s.bay n).held = none) : s.Takes (s.takeLanes n u c) n u :=
  State.takes_of_started (c := c) ((State.takeLanes_lanes lt).trans (State.nextLanes_started held))
    ((State.takeLanes_held lt).trans (congrArg some (State.nextOp_started held)))

/-! What decides about the tile that is NEXT (R192, R219, R236, R338). -/

/-- The conditions of R236 but for the lanes. -/
def State.Ready (s : State) (n : Nat) (u : Tile) (c : Chain) : Prop :=
  (s.bay n).act = none ∧ u.argDone = true ∧ s.bayOn n = true
    ∧ (∀ q ∈ s.spare.preps, q.2 ≠ n) ∧ (s.gated u.chain = true → s.gn.state = 2) ∧ (c.has opOVFCHK = true → u.lastSeen = true)

/-- The lanes are empty and the staging copy is there, or the tile carries their operation on (R19, R236). -/
def State.LanesFit (s : State) (n : Nat) (u : Tile) : Prop :=
  ((s.bay n).held = none ∧ u.staged ≠ []) ∨ ∃ h, (s.bay n).held = some h ∧ u.carries h = true

/-- Do the lanes hold the contexts of the segment at `x` (R192)? -/
def State.InLanes (s : State) (n x : Nat) : Prop :=
  ∃ h q sg, (s.bay n).held = some h ∧ h.segCtx = some (q, sg) ∧ x = q + 256 * sg

/-- The lanes are free for the tile (R19, R236). -/
noncomputable def State.lanesReady (s : State) (n : Nat) (u : Tile) : Bool :=
  match (s.bay n).held with
  | some h => u.carries h
  | none => !u.staged.isEmpty

/-- All the conditions of R236. -/
@[reducible] def State.Admissible (s : State) (n : Nat) (u : Tile) (c : Chain) : Prop :=
  s.pwr.phase = .run ∧ u.isAccepted = true ∧ (s.bay n).act = none ∧ u.argDone = true ∧ s.lanesReady n u = true
    ∧ (s.spare.preps.all fun q => q.2 != n) = true ∧ s.bayOn n = true ∧ (s.gated u.chain = true → s.gn.state = 2)
    ∧ (c.has opOVFCHK = true → u.lastSeen = true)

/-- A tile with saturated sums takes the lanes (R175). -/
noncomputable def State.saturates (s : State) (n : Nat) (u : Tile) (c : Chain) : State :=
  (s.logE cREPLAYSAT 0 n u.chain.toNat 0 u.seq.toNat u.base u.e0).takeLanes n u c

/-- The answer to a tile whose conditions hold, and whose contexts are not poisoned. -/
noncomputable def State.admits (s : State) (n : Nat) (u : Tile) (c : Chain) : Host.Outcome State Fault Refusal :=
  if c.has opOVFCHK && u.ovf then if u.shift.toNat < 3 then .next (s.replayDiscard n u) else .next (s.saturates n u c)
  else .next (s.takeLanes n u c)

/-- The answer to a tile whose conditions hold. -/
noncomputable def State.admission (s : State) (n : Nat) (u : Tile) (c : Chain) : Host.Outcome State Fault Refusal :=
  match s.segPoison n u c with
  | some x => .next ((s.eccRefuse n u x).prefetch n)
  | none => s.admits n u c

/-- What TILE_ADMISSION does with the tile that is NEXT (R236). -/
noncomputable def State.answer (s : State) (n : Nat) (u : Tile) (c : Chain) : Host.Outcome State Fault Refusal :=
  if s.Admissible n u c then s.admission n u c else .next s

theorem State.answer_admissible (h : s.Admissible n u c) : s.answer n u c = s.admission n u c := if_pos h
theorem State.answer_otherwise (h : ¬ s.Admissible n u c) : s.answer n u c = .next s := if_neg h

theorem State.admission_clean (clean : s.segPoison n u c = none) : s.admission n u c = s.admits n u c := by
  unfold State.admission
  rw [clean]

theorem State.admission_poisoned {z : Nat} (poisoned : s.segPoison n u c = some z) :
    s.admission n u c = .next ((s.eccRefuse n u z).prefetch n) := by
  unfold State.admission
  rw [poisoned]

/-- The answer to the tile that is NEXT once gated tiles are skipped (R219, R236). -/
theorem tileAdmission_of_next {n : Fin 32} (skips : s.skipGated n.val = t) (next : (t.bay n.val).nextTile? = some u) :
    exec (.tileAdmission n) s = t.answer n.val u (chainOf u.words) := by
  show (match ((s.skipGated n.val).bay n.val).nextTile? with
    | none => Host.Outcome.next (s.skipGated n.val)
    | some u => (s.skipGated n.val).answer n.val u (chainOf u.words)) = _
  rw [skips, next]

theorem State.skipGated_eq (runs : s.gn.state ≠ 3) : s.skipGated n = s := if_neg runs

theorem State.lanesReady_of_fit (fit : s.LanesFit n u) : s.lanesReady n u = true := by
  unfold State.lanesReady
  rcases fit with ⟨held, staged⟩ | ⟨h, held, carries⟩
  · rw [held]
    exact congrArg not (List.isEmpty_eq_false_iff.2 staged)
  · rw [held]
    exact carries

theorem State.lanesReady_empty (held : (s.bay n).held = none) (staged : u.staged = []) : s.lanesReady n u = false := by
  unfold State.lanesReady
  rw [held, staged]
  rfl

theorem tileAdmission_eq {n : Fin 32} (next : (s.bay n.val).nextTile? = some u) (accepted : u.status = .accepted)
    (run : s.pwr.phase = .run) (runs : s.gn.state ≠ 3) (ready : s.Ready n.val u (chainOf u.words)) (fit : s.LanesFit n.val u) :
    exec (.tileAdmission n) s = s.admission n.val u (chainOf u.words) := by
  obtain ⟨free, args, on, prep, gate, last⟩ := ready
  exact (tileAdmission_of_next (State.skipGated_eq runs) next).trans (State.answer_admissible ⟨run, beq_iff_eq.2 accepted, free, args,
    State.lanesReady_of_fit fit, List.all_eq_true.2 fun q mem => bne_iff_ne.2 (prep q mem), on, gate, last⟩)

theorem tileAdmission_waits {n : Fin 32} (next : (s.bay n.val).nextTile? = some u) (runs : s.gn.state ≠ 3)
    (waits : (s.bay n.val).act.isSome = true ∨ u.argDone = false ∨ (s.gated u.chain = true ∧ s.gn.state ≠ 2)
      ∨ ((s.bay n.val).held = none ∧ u.staged = [])) : exec (.tileAdmission n) s = .next s := by
  refine (tileAdmission_of_next (State.skipGated_eq runs) next).trans (State.answer_otherwise ?_)
  rintro ⟨-, -, free, args, lanes, -, -, gate, -⟩
  rcases waits with busy | early | ⟨gated, round⟩ | ⟨held, staged⟩
  · exact Bool.false_ne_true ((congrArg Option.isSome free).symm.trans busy)
  · exact Bool.false_ne_true (early.symm.trans args)
  · exact round (gate gated)
  · exact Bool.false_ne_true ((State.lanesReady_empty held staged).symm.trans lanes)

/-- An accepted gated tile is discarded under STATE SKIP (R219). -/
noncomputable def State.skipTile (s : State) (u : Tile) : Tile :=
  if u.isAccepted && s.gated u.chain then { u with status := .skipped, staged := [], data := [], args := [], view := [] } else u

theorem State.skipTile_seq (s : State) (u : Tile) : (s.skipTile u).seq = u.seq := by
  unfold State.skipTile
  split
  · rfl
  · rfl

/-- A bay whose gated tiles are skipped. -/
noncomputable def Bay.skips (b : Bay) (s : State) : Bay := { b with tiles := b.tiles.map s.skipTile }

theorem Bay.nextTile?_skips {b : Bay} (next : b.nextTile? = some u) : (b.skips s).nextTile? = some (s.skipTile u) :=
  List.find?_map.trans (congrArg (Option.map s.skipTile)
    ((congrArg (b.tiles.find? ·) (funext fun x => congrArg (· == b.next) (s.skipTile_seq x))).trans next))

theorem State.skipGated_skip (skip : s.gn.state = 3) : s.skipGated n = s.mapBay n (Bay.skips · s) := if_pos skip

theorem State.skipGated_only (skip : s.gn.state = 3) : s.skipGated n = s.withBays (s.skipGated n).bays :=
  (State.skipGated_skip skip).trans (congrArg (fun t : State => s.withBays t.bays) (State.skipGated_skip skip)).symm

/-- The tile that is NEXT in `t` is skipped (R219). -/
def State.Skips (s t : State) (n : Nat) (w : Tile) : Prop :=
  (t.bay n).nextTile? = some w ∧ w.status = .skipped ∧ (t.bay n).act = (s.bay n).act ∧ t = s.withBays t.bays

/-- Under STATE SKIP the gated tile that is NEXT is discarded (R219). -/
theorem tileAdmission_skips {n : Fin 32} (next : (s.bay n.val).nextTile? = some u) (accepted : u.status = .accepted)
    (skip : s.gn.state = 3) (gated : s.gated u.chain = true) : ∃ t w, exec (.tileAdmission n) s = .next t ∧ s.Skips t n.val w := by
  have bay : (s.skipGated n.val).bay n.val = (s.bay n.val).skips s := (congrArg (State.bay · n.val) (State.skipGated_skip skip)).trans
    (s.bay_mapBay_same n.val (Bay.skips · s) (s.lt_of_mem_tiles (Bay.mem_of_nextTile? next)))
  have skipped : (s.skipTile u).status = .skipped :=
    congrArg Tile.status (if_pos ((Bool.and_eq_true _ _).mpr ⟨beq_iff_eq.2 accepted, gated⟩))
  have found := (congrArg Bay.nextTile? bay).trans (Bay.nextTile?_skips next)
  refine ⟨_, _, (tileAdmission_of_next rfl found).trans (State.answer_otherwise ?_), found, skipped, (congrArg Bay.act bay).trans rfl,
    State.skipGated_only skip⟩
  rintro ⟨-, still, -⟩
  exact absurd (skipped.symm.trans (beq_iff_eq.1 still)) TileStatus.noConfusion

/-- The first of an ascending list. -/
theorem find?_ascending {p : Nat → Bool} {y : Nat} {l : List Nat} (asc : l.Pairwise (· < ·)) (mem : y ∈ l) (py : p y = true)
    (first : ∀ z ∈ l, z < y → p z = false) : l.find? p = some y := by
  obtain ⟨i, lt, rfl⟩ := List.mem_iff_getElem.1 mem
  exact List.find?_eq_some_iff_getElem.2 ⟨py, i, lt, rfl, fun j below => congrArg not
    (first _ (List.getElem_mem _) (List.pairwise_iff_getElem.1 asc j i (below.trans lt) lt below))⟩

/-- The segments of a tile stand 256 contexts apart, in ascending order (R147). -/
theorem Tile.segCourses_spaced (u : Tile) (c : Chain) : (u.segCourses c).Pairwise fun a b => a + 256 ≤ b := by
  unfold Tile.segCourses
  cases c.segctx with
  | none => exact .nil
  | some w =>
    cases u.args.isEmpty with
    | true => exact .nil
    | false => exact List.pairwise_map.2 (List.pairwise_lt_range.imp fun h => (Nat.add_assoc _ _ 256).trans_le
        (Nat.add_le_add_left (Nat.mul_le_mul_left 256 (Nat.add_lt_add_left h _)) _))

theorem Tile.segCourses_apart {x y : Nat} (hx : x ∈ u.segCourses c) (hy : y ∈ u.segCourses c) (lt : x < y) : x + 256 ≤ y := by
  obtain ⟨i, hi, rfl⟩ := List.mem_iff_getElem.1 hx
  obtain ⟨j, hj, rfl⟩ := List.mem_iff_getElem.1 hy
  have spaced := List.pairwise_iff_getElem.1 (u.segCourses_spaced c)
  rcases Nat.lt_trichotomy i j with below | rfl | above
  · exact spaced i j hi hj below
  · exact absurd lt (lt_irrefl _)
  · exact absurd lt (Nat.lt_asymm (Nat.lt_of_lt_of_le (Nat.lt_add_of_pos_right (Nat.succ_pos 255)) (spaced j i hj hi above)))

/-- The segment that the lanes hold (R192). -/
noncomputable def State.laneSegment (s : State) (n : Nat) : Option Nat :=
  match (s.bay n).held with
  | some h => h.segCtx.map fun p => p.1 + 256 * p.2
  | none => none

theorem State.laneSegment_eq_some (x : Nat) : s.laneSegment n = some x ↔ s.InLanes n x := by
  unfold State.laneSegment
  refine ⟨fun e => ?_, ?_⟩
  · cases held : (s.bay n).held with
    | none =>
      rw [held] at e
      exact absurd e.symm (Option.some_ne_none x)
    | some h =>
      rw [held] at e
      obtain ⟨p, seg, eq⟩ := Option.map_eq_some_iff.1 e
      exact ⟨h, p.1, p.2, held, seg, eq.symm⟩
  · rintro ⟨h, q, sg, held, seg, eq⟩
    rw [held, eq]
    exact congrArg (Option.map fun p : Nat × Nat => p.1 + 256 * p.2) seg

/-- The contexts of the segments that a tile brings in (R192). -/
noncomputable def State.brought (s : State) (n : Nat) (u : Tile) (c : Chain) : List Nat :=
  ((u.segCourses c).filter fun x => s.laneSegment n != some x).flatMap fun x => (List.range 256).map (x + ·)

theorem State.mem_brought {z : Nat} :
    z ∈ s.brought n u c ↔ ∃ y ∈ u.segCourses c, ¬ s.InLanes n y ∧ ∃ j, j < 256 ∧ y + j = z := by
  refine List.mem_flatMap.trans ⟨?_, ?_⟩
  · rintro ⟨y, hy, hz⟩
    obtain ⟨course, out⟩ := List.mem_filter.1 hy
    obtain ⟨j, hj, e⟩ := List.mem_map.1 hz
    exact ⟨y, course, mt (State.laneSegment_eq_some y).2 (bne_iff_ne.1 out), j, List.mem_range.1 hj, e⟩
  · rintro ⟨y, hy, out, j, hj, e⟩
    exact ⟨y, List.mem_filter.2 ⟨hy, bne_iff_ne.2 (mt (State.laneSegment_eq_some y).1 out)⟩,
      List.mem_map.2 ⟨j, List.mem_range.2 hj, e⟩⟩

/-- What stands below the next segment is below what stands in it. -/
theorem add_lt_of_spaced {y z i : Nat} (spaced : y + 256 ≤ z) (hi : i < 256) (j : Nat) : y + i < z + j :=
  Nat.lt_of_lt_of_le (Nat.add_lt_add_left hi y) (spaced.trans (Nat.le_add_right z j))

theorem State.brought_ascending : (s.brought n u c).Pairwise (· < ·) :=
  List.pairwise_flatMap.2 ⟨fun x _ => List.pairwise_map.2 (List.pairwise_lt_range.imp fun h => Nat.add_lt_add_left h x),
    ((u.segCourses_spaced c).filter _).imp fun spaced => List.forall_mem_map.2 fun _ hi => List.forall_mem_map.2 fun j _ =>
      add_lt_of_spaced spaced (List.mem_range.1 hi) j⟩

theorem State.segPoison_none (clean : ∀ x ∈ u.segCourses c, ¬ s.InLanes n x → ∀ i, i < 256 → x + i ∉ s.poison) :
    s.segPoison n u c = none := by
  refine List.find?_eq_none.2 fun z hz => mt List.contains_iff_mem.1 ?_
  obtain ⟨y, course, out, j, hj, rfl⟩ := State.mem_brought.1 hz
  exact clean y course out j hj

/-- The first poisoned context of the segments that the tile brings in (R338). -/
theorem State.segPoison_some {x i : Nat} (course : x ∈ u.segCourses c) (out : ¬ s.InLanes n x) (hi : i < 256)
    (poisoned : x + i ∈ s.poison)
    (before : ∀ y ∈ u.segCourses c, y < x → s.InLanes n y ∨ ∀ j, j < 256 → y + j ∉ s.poison)
    (first : ∀ j, j < i → x + j ∉ s.poison) : s.segPoison n u c = some (x + i) := by
  refine find?_ascending State.brought_ascending (State.mem_brought.2 ⟨x, course, out, i, hi, rfl⟩) (List.contains_iff_mem.2 poisoned)
    fun z hz below => Bool.eq_false_iff.2 (mt List.contains_iff_mem.1 ?_)
  obtain ⟨y, hy, apart, j, hj, rfl⟩ := State.mem_brought.1 hz
  rcases Nat.lt_trichotomy y x with lt | rfl | gt
  · exact (before y hy lt).resolve_left apart j hj
  · exact first j (Nat.lt_of_add_lt_add_left below)
  · exact absurd below (Nat.lt_asymm (add_lt_of_spaced (Tile.segCourses_apart course hy gt) hi j))

/-! A tile that a poisoned context refuses, and one that is discarded for replay (R174, R338). -/

theorem State.eccRefuse_bay (mem : u ∈ (s.bay n).tiles) (z : Nat) :
    (s.eccRefuse n u z).bay n = (s.bay n).mapTile u.slot Tile.eccRefused :=
  (congrArg (fun l : List Bay => l.getD n Bay.reset) (State.eccRefuse_bays u z)).trans (s.bay_mapBay_same n _ (s.lt_of_mem_tiles mem))

/-- The bond groups once the marks of `u` are taken back. -/
noncomputable def Tile.unmarkedIn (u : Tile) (m : List (Nat × Bgrp)) : List (Nat × Bgrp) :=
  let g := sget Bgrp.zero m u.bgrp.toNat
  if u.bgrp = 0 then m else sset Bgrp.zero m u.bgrp.toNat (g.dropMarks (g.course u.base) (u.chunks g.chunkSize))

theorem State.unmark_groups (s : State) (u : Tile) : (s.unmark u).groups = u.unmarkedIn s.groups := apply_ite State.groups _ _ _

theorem State.eccRefuse_groups (z : Nat) : (s.eccRefuse n u z).groups = (s.unmark u).groups :=
  (State.unmark_groups _ u).trans ((congrArg u.unmarkedIn (s.logE_groups ..)).trans (s.unmark_groups u).symm)

theorem State.eccRefuse_log (z : Nat) : (s.eccRefuse n u z).log = (s.logE 0x72 5 0 u.chain.toNat 0 u.seq.toNat
    (2 + 2 ^ 8 * (s.spare.ctxBank z).1 + 2 ^ 16 * (s.spare.ctxBank z).2) z).log := (congrArg State.log (State.unmark_only u)).trans rfl

/-- A refused tile is no longer held against its contexts. -/
theorem State.eccRefuse_clean {z : Nat} (mem : u ∈ (s.bay n).tiles) (poison : s.poison = [z])
    (clean : ∀ y ∈ (s.bay n).tiles, y.isAccepted = true → ∀ j, j < 256 → y.base + j ≠ z) : (s.eccRefuse n u z).CleanBay n := by
  unfold State.CleanBay
  rw [State.eccRefuse_bay mem, show (s.eccRefuse n u z).poison = [z] from ((congrArg State.poison (State.eccRefuse_frame u z)).trans
      rfl).trans poison]
  refine List.forall_mem_map.2 fun y hy accepted j hj same => ?_
  split at accepted
  · exact Bool.false_ne_true accepted
  · rename_i other
    rw [if_neg other] at same
    exact clean y hy accepted j hj (List.mem_singleton.1 same)

theorem State.admission_poisoned_tile {z : Nat} (mem : u ∈ (s.bay n).tiles) :
    ∃ w, (((s.eccRefuse n u z).prefetch n).bay n).tile? u.slot = some w ∧ w.status = .refused 0x72 none ∧ w.data = [] := by
  obtain ⟨x, found⟩ := Bay.tile?_of_mem mem
  refine ⟨x.eccRefused, State.prefetch_prefetches.stays _ _ ?_ rfl, rfl, rfl⟩
  exact (congrArg (Bay.tile? · u.slot) (State.eccRefuse_bay mem z)).trans ((Bay.tile?_mapTile (f :=
      Tile.eccRefused) (fun _ => rfl) _ _).trans
    ((congrArg _ found).trans (congrArg some (if_pos (Bay.slot_of_tile? found)))))

/-- A bay whose delivery is discarded for replay (R174, R175). -/
noncomputable def Bay.discards (b : Bay) (u : Tile) : Bay :=
  { b.sends (b.egress ++ [tokenReplay u.seq (u.shift.toNat + 1)]) with
    tiles := b.tiles.filter fun x => x.slot != u.slot
    hdrCredits := b.hdrCredits + 1
    replay := some (u.seq, u.shift + 1) }

theorem Bay.discards_tile? (b : Bay) : (b.discards u).tile? u.slot = none :=
  List.find?_eq_none.2 fun _ hx same => bne_iff_ne.1 (List.mem_filter.1 hx).2 (beq_iff_eq.1 same)

/-- A state whose delivery `u` is discarded, before the prefetches behind it. -/
noncomputable def State.discards (s : State) (n : Nat) (u : Tile) : State :=
  (s.withGroups (s.unmark u).groups).mapBay n fun b => b.discards u

theorem State.replayDiscard_eq (s : State) (n : Nat) (u : Tile) : s.replayDiscard n u = (s.discards n u).prefetch n :=
  congrArg (State.prefetch · n) ((State.mapBay_mapBay _ _).trans (congrArg (State.mapBay · n (Bay.discards · u)) (State.unmark_only u)))

theorem State.discards_bay (lt : n < s.bays.length) : (s.discards n u).bay n = (s.bay n).discards u :=
  State.bay_mapBay_same (s.withGroups _) n _ lt

/-! The conjuncts of O49. -/

/-- Tile `u` of `s` is refused in `t` over the poisoned context `z` (R192, R240, R338). -/
def State.Refuses (s t : State) (n : Nat) (u w : Tile) (z : Nat) : Prop :=
  (t.bay n).tile? u.slot = some w ∧ w.status = .refused 0x72 none ∧ w.data = [] ∧ (t.bay n).act = none
    ∧ (s.poison = [z] → (∀ y ∈ (s.bay n).tiles, y.isAccepted = true → ∀ j, j < 256 → y.base + j ≠ z) →
      t.log = (s.logE 0x72 5 0 u.chain.toNat 0 u.seq.toNat
          (2 + 2 ^ 8 * (s.spare.ctxBank z).1 + 2 ^ 16 * (s.spare.ctxBank z).2) z).log
      ∧ t.groups = (s.unmark u).groups)
    ∧ TileFrame s t

/-- The lanes of `s` go on in `t` as operation `k` (R19). -/
def State.CarriesOn (s t : State) (n : Nat) (u : Tile) (h k : HeldOp) : Prop :=
  t = s.withBays t.bays ∧ (t.bay n).held = some k
    ∧ k = { h with
        chunks := h.chunks ++ u.chunks (s.group u.bgrp.toNat).chunkSize, courses := k.courses, totals := k.totals, tile := k.tile }
    ∧ (t.bay n).lanes.length = (s.bay n).lanes.length
    ∧ ∀ (r : Nat) (l y : Lane), (s.bay n).lanes[r]? = some l → (t.bay n).lanes[r]? = some y → y = { l with etRead := y.etRead }

/-- In `t` the tile `u` is admitted with one REPLAYSAT entry (R175). -/
def State.Saturates (s t : State) (n : Nat) (u : Tile) : Prop :=
  t.log = (s.logE 0x0B 0 n u.chain.toNat 0 u.seq.toNat u.ctxBase.toNat u.elem0.toNat).log ∧ t = (s.withLog t.log).withBays t.bays

/-- The delivery of tile `u` of `s` is discarded in `t` (R174). -/
def State.Replays (s t : State) (n : Nat) (u : Tile) : Prop :=
  (t.bay n).egress = (s.bay n).egress ++ [tokenReplay u.seq (u.shift.toNat + 1)]
    ∧ (t.bay n).replay = some (u.seq, u.shift + 1) ∧ (t.bay n).tile? u.slot = none
    ∧ (t.bay n).next = (s.bay n).next ∧ (t.bay n).hdrCredits = (s.bay n).hdrCredits + 1
    ∧ (t.bay n).act = none ∧ (s.poison = [] → t.groups = (s.unmark u).groups ∧ t.log = s.log)
    ∧ TileFrame s t

section
variable {n : Fin 32} (next : (s.bay n.val).nextTile? = some u) (accepted : u.status = .accepted) (run : s.pwr.phase = .run)
  (runs : s.gn.state ≠ 3) (ready : s.Ready n.val u (chainOf u.words))
include next accepted run runs ready

theorem tileAdmission_poisoned {x i : Nat} (fit : s.LanesFit n.val u) (course : x ∈ u.segCourses (chainOf u.words))
    (out : ¬ s.InLanes n.val x) (hi : i < 256) (poisoned : x + i ∈ s.poison)
    (before : ∀ y ∈ u.segCourses (chainOf u.words), y < x → s.InLanes n.val y ∨ ∀ j, j < 256 → y + j ∉ s.poison)
    (first : ∀ j, j < i → x + j ∉ s.poison) :
    ∃ t w, exec (.tileAdmission n) s = .next t ∧ s.Refuses t n.val u w (x + i) := by
  have mem := Bay.mem_of_nextTile? next
  have fetch : Prefetches n.val (s.eccRefuse n.val u (x + i)) ((s.eccRefuse n.val u (x + i)).prefetch n.val) :=
    State.prefetch_prefetches
  obtain ⟨w, found, status, data⟩ := State.admission_poisoned_tile (z := x + i) mem
  refine ⟨_, w, (tileAdmission_eq next accepted run runs ready fit).trans
    (State.admission_poisoned (State.segPoison_some course out hi poisoned before first)), found, status, data, ?_, fun one own => ?_,
    (State.eccRefuse_frame u _).trans fetch.frame⟩
  · exact (fetch.keeps Bay.act (fun _ _ => rfl) (State.eccRefuse_bay mem (x + i))).trans ready.1
  · obtain ⟨groups, log, -⟩ := fetch.clean (State.eccRefuse_clean mem one own)
    exact ⟨log.trans (State.eccRefuse_log _), groups.trans (State.eccRefuse_groups _)⟩

variable (clean : ∀ x ∈ u.segCourses (chainOf u.words), ¬ s.InLanes n.val x → ∀ i, i < 256 → x + i ∉ s.poison)
include clean

theorem tileAdmission_clean (fit : s.LanesFit n.val u) : exec (.tileAdmission n) s = s.admits n.val u (chainOf u.words) :=
  (tileAdmission_eq next accepted run runs ready fit).trans (State.admission_clean (State.segPoison_none clean))

/-- The tile takes the lanes when its delivery did not overflow (R174). -/
theorem tileAdmission_exact (fit : s.LanesFit n.val u) (exact_ : ¬ ((chainOf u.words).has opOVFCHK = true ∧ u.ovf = true)) :
    exec (.tileAdmission n) s = .next (s.takeLanes n.val u (chainOf u.words)) :=
  (tileAdmission_clean next accepted run runs ready clean fit).trans (if_neg (mt (Bool.and_eq_true _ _).to_iff.1 exact_))

theorem tileAdmission_carries {h : HeldOp} (held : (s.bay n.val).held = some h) (carries : u.carries h = true)
    (exact_ : ¬ ((chainOf u.words).has opOVFCHK = true ∧ u.ovf = true)) : ∃ t k, exec (.tileAdmission n) s = .next t
      ∧ s.Admits t n.val u (chainOf u.words) ∧ s.CarriesOn t n.val u h k := by
  have mem := Bay.mem_of_nextTile? next
  have lt := s.lt_of_mem_tiles mem
  have lanes := (State.takeLanes_lanes (u := u) (c := chainOf u.words) lt).trans (State.nextLanes_carried held)
  have op := (State.takeLanes_held (u := u) (c := chainOf u.words) lt).trans (congrArg some (State.nextOp_carried held))
  refine ⟨_, _, tileAdmission_exact next accepted run runs ready clean (.inr ⟨h, held, carries⟩) exact_, State.takeLanes_admits mem,
    State.takeLanes_only, op, rfl, (congrArg List.length lanes).trans (List.length_map _), fun r l y before after => ?_⟩
  have made := (List.getElem?_map.trans (congrArg _ before)).symm.trans ((congrArg (·[r]?) lanes).symm.trans after)
  rw [← Option.some.inj made]

variable (held : (s.bay n.val).held = none) (staged : u.staged ≠ [])
include held staged

theorem tileAdmission_takes (exact_ : ¬ ((chainOf u.words).has opOVFCHK = true ∧ u.ovf = true)) :
    ∃ t, exec (.tileAdmission n) s = .next t ∧ s.Admits t n.val u (chainOf u.words) ∧ s.Takes t n.val u
      ∧ t = s.withBays t.bays := by
  have mem := Bay.mem_of_nextTile? next
  exact ⟨_, tileAdmission_exact next accepted run runs ready clean (.inl ⟨held, staged⟩) exact_, State.takeLanes_admits mem,
    State.takeLanes_takes (s.lt_of_mem_tiles mem) held, State.takeLanes_only⟩

/-- A delivery that overflowed (R174). -/
theorem tileAdmission_overflowed (checks : (chainOf u.words).has opOVFCHK = true) (ovf : u.ovf = true) :
    exec (.tileAdmission n) s =
      if u.shift.toNat < 3 then .next (s.replayDiscard n.val u) else .next (s.saturates n.val u (chainOf u.words)) :=
  (tileAdmission_clean next accepted run runs ready clean (.inl ⟨held, staged⟩)).trans
    (if_pos ((Bool.and_eq_true _ _).mpr ⟨checks, ovf⟩))

theorem tileAdmission_saturates (checks : (chainOf u.words).has opOVFCHK = true) (ovf : u.ovf = true) (shift : u.shift = 3) :
    ∃ t, exec (.tileAdmission n) s = .next t ∧ s.Admits t n.val u (chainOf u.words) ∧ s.Takes t n.val u
      ∧ s.Saturates t n.val u := by
  have mem := Bay.mem_of_nextTile? next
  have logged : s.logE cREPLAYSAT 0 n.val u.chain.toNat 0 u.seq.toNat u.base u.e0 = s.withLog _ := s.logE_only ..
  have ran := (tileAdmission_overflowed next accepted run runs ready clean held staged checks ovf).trans
    ((if_neg (by rw [shift]; decide)).trans (congrArg (fun t : State => Host.Outcome.next (t.takeLanes n.val u _)) logged))
  have only := State.takeLanes_only (s := s.withLog (s.logE cREPLAYSAT 0 n.val u.chain.toNat 0 u.seq.toNat u.base u.e0).log) (n := n.val)
    (u := u) (c := chainOf u.words)
  exact ⟨_, ran, State.takeLanes_admits (s := s.withLog _) mem, State.takeLanes_takes (s := s.withLog _) (s.lt_of_mem_tiles mem) held,
    congrArg State.log only |>.trans rfl, only.trans (congrArg (fun l => (s.withLog l).withBays _) ((congrArg State.log only).trans
        rfl).symm)⟩

/-- The delivery is discarded for replay (R174). -/
theorem tileAdmission_replays (checks : (chainOf u.words).has opOVFCHK = true) (ovf : u.ovf = true) (shift : u.shift ≠ 3) :
    ∃ t, exec (.tileAdmission n) s = .next t ∧ s.Replays t n.val u := by
  have low : u.shift.toNat < 3 :=
    Nat.lt_of_le_of_ne (Nat.le_of_lt_succ u.shift.isLt) fun e => shift (BitVec.eq_of_toNat_eq e)
  have lt := s.lt_of_mem_tiles (Bay.mem_of_nextTile? next)
  have fetch : Prefetches n.val (s.discards n.val u) ((s.discards n.val u).prefetch n.val) := State.prefetch_prefetches
  have bay := State.discards_bay (u := u) lt
  have kept {α : Type} (p : Bay → α) (keeps : ∀ b l, p (b.withTiles l) = p b) := fetch.keeps p keeps bay
  refine ⟨_, (tileAdmission_overflowed next accepted run runs ready clean held staged checks ovf).trans
    ((if_pos low).trans (congrArg Host.Outcome.next (s.replayDiscard_eq n.val u))),
        (kept Bay.egress fun _ _ => rfl).trans (Bay.egress_sends (s.bay n.val) _),
    kept Bay.replay fun _ _ => rfl,
    fetch.gone _ ((congrArg (Bay.tile? · u.slot) bay).trans (Bay.discards_tile? _)), kept Bay.next fun _ _ => rfl,
    kept Bay.hdrCredits fun _ _ => rfl, (kept Bay.act fun _ _ => rfl).trans ready.1, fun none_ => ?_, fetch.frame⟩
  obtain ⟨groups, log, -⟩ := fetch.clean (State.cleanBay_of_no_poison none_)
  exact ⟨groups, log⟩

end

/-- Settles O49: a poisoned segment, a replay, a saturated or clean start, a carry-over, a wait and a discard, each from its own
lemma. -/
theorem tileAdmission : Obligations.TileAdmission := by
  intro n u s next accepted run b c ran admitted start taken ready inLanes clean takes
  exact ⟨fun x i runs fit ready => tileAdmission_poisoned next accepted run runs ready fit,
    fun h runs held carries ready clean => tileAdmission_carries next accepted run runs ready clean held carries,
    fun runs held staged ready clean => ⟨tileAdmission_takes next accepted run runs ready clean held staged,
      tileAdmission_saturates next accepted run runs ready clean held staged,
      tileAdmission_replays next accepted run runs ready clean held staged⟩,
    tileAdmission_waits next, tileAdmission_skips next accepted⟩

end Sys2Proof.Machine

/-! ### Patrol: what its activities, findings and samples do (R331, R335 to R337, R345, R347, R348) -/

namespace Sys2Proof.Machine

variable {s : State}

theorem State.patrolsUnit_iff (on : s.patrolOn = true) (a u : Nat) :
    s.patrolsUnit a u = true ↔ u ∈ s.sweepUnits a ∧ (a ∈ [1, 3, 5, 8] → s.patrolsBay u = true) := by
  refine Bool.and_eq_true_iff.trans (and_congr List.contains_iff_mem ?_)
  by_cases bay : a ∈ [1, 3, 5, 8]
  · rw [if_pos (List.contains_iff_mem.2 bay)]
    exact ⟨fun h _ => h, fun h => h bay⟩
  · rw [if_neg (mt List.contains_iff_mem.1 bay)]
    exact iff_of_true on fun h => absurd h bay

/-! The end of a sweep (R335, R345). -/

/-- One more bit on top. -/
theorem sum_bits_succ (q : Nat → Bool) (n : Nat) : ((List.range (n + 1)).map fun i => if q i then 2 ^ i else 0).sum
    = 2 ^ n * (q n).toNat + ((List.range n).map fun i => if q i then 2 ^ i else 0).sum := by
  have top : (if q n then 2 ^ n else 0) = 2 ^ n * (q n).toNat := by
    cases q n with
    | false => rfl
    | true => exact (Nat.mul_one _).symm
  exact (List.sum_range_succ _ n).trans ((Nat.add_comm _ _).trans (congrArg (· + _) top))

/-- A number made of bits has these bits. -/
theorem testBit_sum_bits (q : Nat → Bool) (n : Nat) :
    ((List.range n).map fun i => if q i then 2 ^ i else 0).sum < 2 ^ n
      ∧ ∀ i, i < n → ((List.range n).map fun i => if q i then 2 ^ i else 0).sum.testBit i = q i := by
  induction n with
  | zero => exact ⟨Nat.one_pos, fun _ hi => absurd hi (Nat.not_lt_zero _)⟩
  | succ n ih =>
    rw [sum_bits_succ]
    refine ⟨(Nat.add_lt_add_left ih.1 _).trans_le (Nat.mul_le_mul_left (2 ^ n) (Nat.succ_le_succ (Bool.toNat_le _))), fun i hi => ?_⟩
    rw [Nat.testBit_two_pow_mul_add _ ih.1]
    rcases Nat.lt_succ_iff_lt_or_eq.1 hi with hi | rfl
    · exact (if_pos hi).trans (ih.2 i hi)
    · rw [if_neg (lt_irrefl i), Nat.sub_self]
      cases q i with
      | false => rfl
      | true => rfl

/-- LEFT as a sweep counts it (notes/assumptions/15). -/
noncomputable def State.sweepOpen (s : State) : BitVec 8 := if s.spare.left = 0 then sweepLeft else s.spare.left

/-- Has activity `i + 1` yet to cover a unit (R335)? -/
def State.Opened (s : State) (i : Nat) : Prop :=
  s.sweepOpen.toNat.testBit i = true ∧ ∃ w ∈ s.sweepUnits (i + 1), (i + 1, w) ∉ s.spare.covered

/-- LEFT once the activities that have covered their units fall. -/
noncomputable def State.leftNow (s : State) : BitVec 8 := s.sweepOpen &&& BitVec.ofNat 8 ((List.range 8).map fun i =>
  if (s.sweepUnits (i + 1)).any fun u => !s.spare.covered.contains (i + 1, u) then 2 ^ i else 0).sum

/-- A state with other spares. -/
noncomputable def State.withSpare (s : State) (x : Spare) : State := { s with spare := x }

/-- The spares once the sweep stands as given. -/
noncomputable def Spare.sweeping (x : Spare) (covered : List (Nat × Nat)) (left : BitVec 8) (y : Spare) : Spare :=
  { x with covered := covered, left := left, sweeps := y.sweeps, bankCnt := y.bankCnt, bays := y.bays, vfail := y.vfail }

theorem State.settleSweep_eq : s.settleSweep =
    s.withSpare (if s.leftNow = 0 then s.spare.nextSweep else s.spare.sweeping s.spare.covered s.leftNow s.spare) := rfl

theorem not_contains_iff {α : Type} [BEq α] [LawfulBEq α] {l : List α} {x : α} : (!l.contains x) = true ↔ x ∉ l :=
  Bool.not_iff_not.trans (not_congr List.contains_iff_mem)

theorem State.leftNow_testBit (i : Nat) (hi : i < 8) : s.leftNow.toNat.testBit i = true ↔ s.Opened i := by
  have bits := (testBit_sum_bits (fun i => (s.sweepUnits (i + 1)).any fun u => !s.spare.covered.contains (i + 1, u)) 8).2 i hi
  have low := BitVec.getLsbD_ofNat 8 _ i |>.trans ((congrArg₂ and (decide_eq_true hi) bits).trans (Bool.true_and _))
  refine (Bool.eq_iff_iff.1 (BitVec.getLsbD_and.trans (congrArg (_ && ·) low))).trans (Bool.and_eq_true_iff.trans
    (and_congr_right fun _ => List.any_eq_true.trans (exists_congr fun w => and_congr_right fun _ => not_contains_iff)))

theorem State.leftNow_eq_zero : s.leftNow = 0 ↔ ∀ i, i < 8 → ¬ s.Opened i := by
  refine ⟨fun zero i hi open_ => ?_, fun closed => BitVec.eq_of_getLsbD_eq fun i hi => ?_⟩
  · exact Bool.false_ne_true ((Nat.zero_testBit i).symm.trans
      ((congrArg (fun x : BitVec 8 => x.toNat.testBit i) zero).symm.trans ((State.leftNow_testBit i hi).2 open_)))
  · exact (Bool.eq_false_iff.2 (mt (State.leftNow_testBit i hi).1 (closed i hi))).trans (Nat.zero_testBit i).symm

theorem State.settleSweep_goes_on (open_ : ∃ i, i < 8 ∧ s.Opened i) :
    s.settleSweep = s.withSpare (s.spare.sweeping s.spare.covered s.leftNow s.spare) :=
  State.settleSweep_eq.trans (congrArg s.withSpare (if_neg fun zero =>
    open_.elim fun i opened => State.leftNow_eq_zero.1 zero i opened.1 opened.2))

theorem State.settleSweep_ends (closed : ∀ i, i < 8 → ¬ s.Opened i) : s.settleSweep = s.withSpare s.spare.nextSweep :=
  State.settleSweep_eq.trans (congrArg s.withSpare (if_pos (State.leftNow_eq_zero.2 closed)))

/-- The sweep changes its own counters only. -/
theorem State.settleSweep_only : s.settleSweep =
    s.withSpare (s.spare.sweeping s.settleSweep.spare.covered s.settleSweep.spare.left s.settleSweep.spare) := by
  by_cases open_ : ∃ i, i < 8 ∧ s.Opened i
  · rw [State.settleSweep_goes_on open_]
    rfl
  · rw [State.settleSweep_ends fun i hi opened => open_ ⟨i, hi, opened⟩]
    rfl

theorem State.settleSweep_vfail : s.settleSweep.spare.vfail = s.spare.vfail := (apply_ite Spare.vfail _ _ _).trans (ite_self _)

theorem Spare.nextSweep_soft (x : Spare) (b : Nat) : (x.nextSweep.bay b).soft = 0 := by
  unfold Spare.bay
  rw [List.getD_eq_getElem?_getD, show x.nextSweep.bays = x.bays.map _ from rfl, List.getElem?_map]
  cases x.bays[b]? with
  | none => rfl
  | some m => rfl

/-! The cover of a unit, and the findings. -/

/-- A unit of an activity is covered (R335, R337). -/
noncomputable def State.covers (s : State) (a v : Nat) : State :=
  { s with spare := { s.spare with
    covered := (a, v) :: s.spare.covered
    vfail := if a = 1 ∨ a = 3 then s.spare.vfail.filter fun u => u.unit.toNat != v else s.spare.vfail } }

theorem patrolVector_clean {a : BitVec 4} {v : BitVec 6} : exec (.patrolVector (.clean a v)) s
    = .next (if s.patrolsUnit a.toNat v.toNat then (s.covers a.toNat v.toNat).settleSweep else s) := rfl

/-- What the cover of unit `v` by activity `a` leaves in `t` (R335, R337, R345). -/
def State.Covers (s t : State) (a : BitVec 4) (v : BitVec 6) : Prop :=
  let covered := (a.toNat, v.toNat) :: s.spare.covered
  let left := if s.spare.left = 0 then 0xFD else s.spare.left
  let opened (i : Nat) := left.toNat.testBit i = true ∧ ∃ w ∈ s.sweepUnits (i + 1), (i + 1, w) ∉ covered
  t.spare.vfail = (if a = 1 ∨ a = 3 then s.spare.vfail.filter fun u => u.unit.toNat ≠ v.toNat else s.spare.vfail)
    ∧ ((∃ i, i < 8 ∧ opened i) → t.spare.covered = covered ∧ t.spare.sweeps = s.spare.sweeps
      ∧ t.spare.bankCnt = s.spare.bankCnt ∧ t.spare.bays = s.spare.bays
      ∧ ∀ i, i < 8 → (t.spare.left.toNat.testBit i = true ↔ opened i))
    ∧ ((∀ i, i < 8 → ¬ opened i) → t.spare.covered = [] ∧ t.spare.sweeps = s.spare.sweeps + 1 ∧ t.spare.left = 0xFD
      ∧ t.spare.bankCnt = [] ∧ ∀ b, (t.spare.bay b).soft = 0)
    ∧ t = s.withSpare (s.spare.sweeping t.spare.covered t.spare.left t.spare)

theorem State.covers_vfail (a : BitVec 4) (v : BitVec 6) : (s.covers a.toNat v.toNat).spare.vfail =
    if a = 1 ∨ a = 3 then s.spare.vfail.filter fun u => u.unit.toNat ≠ v.toNat else s.spare.vfail := by
  have one : a.toNat = 1 ↔ a = 1 := ⟨BitVec.eq_of_toNat_eq (y := 1), congrArg BitVec.toNat⟩
  have three : a.toNat = 3 ↔ a = 3 := ⟨BitVec.eq_of_toNat_eq (y := 3), congrArg BitVec.toNat⟩
  exact if_congr (or_congr one three) (List.filter_congr fun u _ => Bool.eq_iff_iff.2 (bne_iff_ne.trans decide_eq_true_iff.symm)) rfl

theorem State.covers_settled (a : BitVec 4) (v : BitVec 6) : s.Covers (s.covers a.toNat v.toNat).settleSweep a v := by
  have only := State.settleSweep_only (s := s.covers a.toNat v.toNat)
  refine ⟨State.settleSweep_vfail.trans (State.covers_vfail a v), fun open_ => ?_, fun closed => ?_, only⟩
  · rw [State.settleSweep_goes_on (s := s.covers a.toNat v.toNat) open_]
    exact ⟨rfl, rfl, rfl, rfl, State.leftNow_testBit (s := s.covers a.toNat v.toNat)⟩
  · rw [State.settleSweep_ends (s := s.covers a.toNat v.toNat) closed]
    exact ⟨rfl, rfl, rfl, rfl, Spare.nextSweep_soft _⟩

/-- Does activity `a` run on unit `v` (R335)? -/
def State.Patrols (s : State) (a v : Nat) : Prop := v ∈ s.sweepUnits a ∧ (a ∈ [1, 3, 5, 8] → s.patrolsBay v = true)

theorem patrolVector_covers (on : s.patrolOn = true) (a : BitVec 4) (v : BitVec 6) (patrols : s.Patrols a.toNat v.toNat) :
    ∃ t, exec (.patrolVector (.clean a v)) s = .next t ∧ s.Covers t a v :=
  ⟨_, patrolVector_clean.trans (congrArg Host.Outcome.next (if_pos ((State.patrolsUnit_iff on _ _).2 patrols))), State.covers_settled a v⟩

theorem patrolVector_uncovered (on : s.patrolOn = true) (a : BitVec 4) (v : BitVec 6) (idle : ¬ s.Patrols a.toNat v.toNat) :
    exec (.patrolVector (.clean a v)) s = .next s :=
  patrolVector_clean.trans (congrArg Host.Outcome.next (if_neg (mt (State.patrolsUnit_iff on _ _).1 idle)))

/-- A bank of activity 4 whose corrected read is counted (R337). -/
noncomputable def State.countsBank (s : State) (k : Nat) : State :=
  { s with spare := { s.spare with bankCnt := sset 0 s.spare.bankCnt k (min (sget 0 s.spare.bankCnt k + 1) 16) } }

theorem sixteenth_iff (k : Nat) : min (k + 1) 16 = 16 ∧ k < 16 ↔ k = 15 := by
  constructor
  · rintro ⟨last, lt⟩
    have low := Nat.min_le_left (k + 1) 16
    rw [last] at low
    exact Nat.le_antisymm (Nat.le_of_lt_succ lt) (Nat.le_of_succ_le_succ low)
  · rintro rfl
    decide

theorem patrolVector_bankCorrected {h : BitVec 2} {b : BitVec 5} (half : h.toNat < 3) (bank : b.toNat < 17)
    (patrols : s.patrolsUnit 4 (17 * h.toNat + b.toNat) = true) : exec (.patrolVector (.bankCorrected h b)) s = .next
      (if sget 0 s.spare.bankCnt (32 * h.toNat + b.toNat) = 15
        then ((s.countsBank (32 * h.toNat + b.toNat)).findingRun
          (if h = 2 then unitOf 3 0 b.toNat else unitOf 2 h.toNat b.toNat) 4).settleSweep
        else s.countsBank (32 * h.toNat + b.toNat)) :=
  (if_neg (not_or.2 ⟨Nat.not_lt.2 (Nat.le_of_lt_succ half), Nat.not_lt.2 (Nat.le_of_lt_succ bank)⟩)).trans
    ((if_neg (not_not.2 patrols ∘ (Bool.not_iff_not.1))).trans (congrArg Host.Outcome.next
      (ite_congr (propext (sixteenth_iff _)) (fun _ => rfl) fun _ => rfl)))

theorem patrolVector_finding {u : UnitId} (wf : u.wf = true) (run : s.pwr.phase = .run) (source : BitVec 8) :
    exec (.patrolVector (.finding u source)) s = .next (s.patrolFinding u source) :=
  (if_neg (not_not.2 wf ∘ Bool.not_iff_not.1)).trans (if_neg (not_not.2 run))

theorem State.readsBank_iff (on : s.patrolOn = true) {u : UnitId} (kind : u.kind = 2 ∨ u.kind = 3) : s.readsBank u = true ↔
    (if u.kind = 2 then 17 * u.unit.toNat + u.index.toNat else 34 + u.index.toNat) ∈ s.sweepUnits 4
      ∧ (u.kind = 2 → ∀ c, c < 16 → s.spare.ctxBank (16 * u.unit.toNat + c) ≠ (u.unit.toNat, u.index.toNat)) := by
  have sweeps (v : Nat) : s.patrolsUnit 4 v = true ↔ v ∈ s.sweepUnits 4 :=
    (State.patrolsUnit_iff on 4 v).trans (and_iff_left fun h => absurd h (by decide))
  unfold State.readsBank
  rcases kind with kind | kind
  · rw [kind, if_pos rfl]
    refine Bool.and_eq_true_iff.trans (and_congr (sweeps _) (List.all_eq_true.trans ?_))
    exact (forall_congr' fun c => imp_congr List.mem_range bne_iff_ne).trans ⟨fun h _ => h, fun h => h rfl⟩
  · rw [kind, if_neg (by decide)]
    exact (sweeps _).trans (and_iff_left fun h => absurd h (by decide)).symm

theorem not_row_of_bank {u : UnitId} (kind : u.kind = 2 ∨ u.kind = 3) (source : BitVec 8) : ¬ (u.kind = 4 ∧ source = 4) := by
  rintro ⟨e, -⟩
  rw [e] at kind
  exact absurd kind (by decide)

/-- A bank at an uncorrectable error of an entry that activity 4 reads (R337, R338). -/
theorem State.patrolFinding_reads {u : UnitId} (kind : u.kind = 2 ∨ u.kind = 3) (reads : s.readsBank u = true) :
    s.patrolFinding u 4 = (s.findingRun u 4 (some 0)).settleSweep :=
  (if_neg (not_row_of_bank kind 4)).trans (if_pos ⟨rfl, reads⟩)

theorem State.patrolFinding_no_read {u : UnitId} (kind : u.kind = 2 ∨ u.kind = 3) (none_ : ¬ s.readsBank u = true) :
    s.patrolFinding u 4 = s :=
  (if_neg (not_row_of_bank kind 4)).trans ((if_neg fun h => none_ h.2).trans (if_pos (.inl (by decide))))

theorem State.patrolFinding_untested {u : UnitId} (none_ : s.findsUnit u = false) : s.patrolFinding u 1 = s :=
  (if_neg fun h => absurd h.2 (by decide)).trans ((if_neg fun h => absurd h.1 (by decide)).trans (if_pos (.inr none_)))

/-- A state with other lanes whose last vector failed. -/
noncomputable def State.withVfail (s : State) (vfail : List UnitId) : State := s.withSpare { s.spare with vfail := vfail }

/-- What a failed test does (R337). -/
theorem State.patrolFinding_test {u : UnitId} (finds : s.findsUnit u = true) : s.patrolFinding u 1 =
    if u.kind = 0 ∧ u ∉ s.spare.vfail then s.withVfail (u :: s.spare.vfail)
    else
      let t := (s.withVfail (s.spare.vfail.filter fun v => v != u)).findingRun u 1
      if t.pwr.phase = .run then t.settleSweep else t := by
  refine (if_neg fun h => absurd h.2 (by decide)).trans ((if_neg fun h => absurd h.1 (by decide)).trans
    ((if_neg fun h => h.elim (absurd rfl) fun no => Bool.false_ne_true (no.symm.trans finds)).trans ?_))
  exact if_congr (and_congr_right fun _ => not_congr List.contains_iff_mem) rfl rfl

/-- What a corrected bank does (R337). -/
def State.CountsBanks (s : State) : Prop :=
  ∀ (h : BitVec 2) (b : BitVec 5), h.toNat < 3 → b.toNat < 17 → 17 * h.toNat + b.toNat ∈ s.sweepUnits 4 →
    let k := 32 * h.toNat + b.toNat
    (sget 0 s.spare.bankCnt k ≠ 15 → exec (.patrolVector (.bankCorrected h b)) s = .next (s.countsBank k))
    ∧ (sget 0 s.spare.bankCnt k = 15 → exec (.patrolVector (.bankCorrected h b)) s =
      .next ((s.countsBank k).findingRun (if h = 2 then unitOf 3 0 b.toNat else unitOf 2 h.toNat b.toNat) 4).settleSweep)

theorem State.countsBanks (on : s.patrolOn = true) : s.CountsBanks := fun h b half bank reads => by
  have ran := patrolVector_bankCorrected half bank ((State.patrolsUnit_iff on 4 _).2 ⟨reads, fun h => absurd h (by decide)⟩)
  exact ⟨fun other => ran.trans (congrArg Host.Outcome.next (if_neg other)),
    fun sixteenth => ran.trans (congrArg Host.Outcome.next (if_pos sixteenth))⟩

/-- What an uncorrectable error of a bank does (R337, R338). -/
def State.FindsBanks (s : State) : Prop :=
  ∀ u : UnitId, u.wf = true → u.kind = 2 ∨ u.kind = 3 →
    let h := u.unit.toNat
    let i := u.index.toNat
    let reads := (if u.kind = 2 then 17 * h + i else 34 + i) ∈ s.sweepUnits 4
      ∧ (u.kind = 2 → ∀ c, c < 16 → s.spare.ctxBank (16 * h + c) ≠ (h, i))
    (reads → exec (.patrolVector (.finding u 4)) s = .next (s.findingRun u 4 (some 0)).settleSweep)
    ∧ (¬ reads → exec (.patrolVector (.finding u 4)) s = .next s)

theorem State.findsBanks (on : s.patrolOn = true) : s.FindsBanks := fun u wf kind => by
  have ran := patrolVector_finding wf (State.patrolOn_run on) 4
  exact ⟨fun reads => ran.trans (congrArg Host.Outcome.next (State.patrolFinding_reads kind ((State.readsBank_iff on kind).2 reads))),
    fun not_ => ran.trans (congrArg Host.Outcome.next (State.patrolFinding_no_read kind (mt (State.readsBank_iff on kind).1 not_)))⟩

/-- What a failed test does to a unit (R337). -/
def State.FindsTested (s : State) : Prop :=
  ∀ u : UnitId, u.wf = true →
    let run := exec (.patrolVector (.finding u 1)) s
    (s.findsUnit u = false → run = .next s)
    ∧ (s.findsUnit u = true → u.kind = 0 → u ∉ s.spare.vfail → run = .next (s.withVfail (u :: s.spare.vfail)))
    ∧ (s.findsUnit u = true → u.kind ≠ 0 ∨ u ∈ s.spare.vfail →
      let t := (s.withVfail (s.spare.vfail.filter fun v => v != u)).findingRun u 1
      run = .next (if t.pwr.phase = .run then t.settleSweep else t))

theorem State.findsTested (on : s.patrolOn = true) : s.FindsTested := fun u wf => by
  have ran := patrolVector_finding wf (State.patrolOn_run on) 1
  exact ⟨fun no => ran.trans (congrArg Host.Outcome.next (State.patrolFinding_untested no)),
    fun finds lane first => ran.trans (congrArg Host.Outcome.next ((State.patrolFinding_test finds).trans (if_pos ⟨lane, first⟩))),
    fun finds second => ran.trans (congrArg Host.Outcome.next ((State.patrolFinding_test finds).trans
      (if_neg fun h => second.elim (absurd h.1) h.2)))⟩

/-! The confirmation of a sample (R336, R337). -/

/-- The sample that a confirmation names. -/
noncomputable def State.sampleOf (s : State) (b lane row stage element : Nat) : Option Sample :=
  (s.spare.sampled.getD b []).find? fun x =>
    x.ready && x.lane == lane && x.row == row && x.stage == stage && x.element == element

/-- A sample is judged, and done with. -/
noncomputable def State.judges (s : State) (b : Nat) (x : Sample) : State :=
  { s with spare := { s.spare with sampled := s.spare.sampled.modify b fun xs => xs.erase x } }

/-- The PATROLMISS entry of a mismatch (R348). -/
noncomputable def State.misses (s : State) (n lane row stage element : Nat) (x : Sample) (hard : Nat) : State :=
  s.logE 0x71 0 n x.chain 0 x.seq element (row + 2 ^ 8 * stage + 2 ^ 16 * lane + 2 ^ 31 * hard)

/-- The spares with another SOFT of bay `b`. -/
noncomputable def Spare.withSoft (x : Spare) (b v : Nat) : Spare := x.mapPhys b fun m => { m with soft := BitVec.ofNat 2 v }

/-- SOFT of a bay, and the finding of its third mismatch (R337, notes/assumptions/93). -/
noncomputable def State.softens (s : State) (b lane : Nat) : State :=
  let k := (s.spare.bay b).soft.toNat
  if k < 2 then s.withSpare (s.spare.withSoft b (k + 1)) else (s.withSpare (s.spare.withSoft b 0)).findingRun (unitOf 0 b lane) 3

/-- A sample with one reference and no scale is compared with the reference, rounded (R74). -/
theorem Sample.check_plain {x : Sample} {ref : W64} (refs : x.refs = [ref]) (scale : x.scale = .none) :
    x.check 0 = BitVec.ofNat 128 (encode x.fmt (convert x.fmt x.mode x.draw x.wrap (decode 0xD ref.toNat))) := by
  have exact_ : ref.toNat ^^^ (0 : BitVec 128).toNat = ref.toNat := Nat.xor_zero _
  unfold Sample.check Sample.round
  rw [refs, scale]
  simp only [exact_, Nat.mod_eq_of_lt ref.isLt]

section verdict

variable {x : Sample} {m : Confirm}

theorem Sample.judge_matches (right : m.got = x.check m.fault1) : x.judge m = none := if_pos right

variable (wrong : m.got ≠ x.check m.fault1)
include wrong

theorem Sample.judge_checks (apart : x.check m.fault1 ≠ x.check m.fault2) : x.judge m = some 0 :=
  (if_neg wrong).trans (if_pos apart)

theorem Sample.judge_hard (agree : x.check m.fault1 = x.check m.fault2) (hard : m.got ∈ m.replays.take 8) :
    x.judge m = some 1 :=
  (if_neg wrong).trans ((if_neg (not_not.2 agree)).trans (if_pos (List.contains_iff_mem.2 hard)))

theorem Sample.judge_soft (agree : x.check m.fault1 = x.check m.fault2) (soft : m.got ∉ m.replays.take 8) :
    x.judge m = some 2 :=
  (if_neg wrong).trans ((if_neg (not_not.2 agree)).trans (if_neg (mt List.contains_iff_mem.1 soft)))

end verdict

/-- A mismatch makes its entry alone. -/
theorem State.misses_only (n lane row stage element : Nat) (x : Sample) (hard : Nat) :
    s.misses n lane row stage element x hard = s.withLog (s.misses n lane row stage element x hard).log := State.logE_only ..

theorem Spare.bay_withSoft {x : Spare} {b v : Nat} (inside : b < x.bays.length) : ((x.withSoft b v).bay b).soft = BitVec.ofNat 2 v := by
  unfold Spare.bay
  rw [List.getD_eq_getElem?_getD, show (x.withSoft b v).bays = x.bays.modify b _ from rfl, List.getElem?_modify_eq,
    List.getElem?_eq_getElem inside]
  rfl

section
variable {n : Fin 32} {lane : BitVec 9} {row : BitVec 8} {stage : BitVec 4} {element : W32} {m : Confirm}

/-- What a confirmation makes of the sample that it names, once it is judged (R336, R337). -/
noncomputable def State.verdict (s : State) (n : Fin 32) (lane : BitVec 9) (row : BitVec 8) (stage : BitVec 4) (element : W32)
    (m : Confirm) (x : Sample) (verdict : Option Nat) : Host.Outcome State Fault Refusal :=
  let p := s.physBay n.val
  match verdict with
  | none => .next (s.judges p x)
  | some v =>
    let s := (s.judges p x).misses n.val lane.toNat row.toNat stage.toNat element.toNat x (b2n (decide (v = 1)))
    match v with
    | 0 => .next ((s.logE 0x76 0 n.val 0 0 s.spare.sweeps.toNat p (m.u1.toNat + 2 ^ 4 * m.u2.toNat)).findingRun
      (unitOf 8 p m.u1.toNat) 1)
    | 1 => .next (s.findingRun (unitOf 0 p lane.toNat) 2)
    | _ => .next (s.softens p lane.toNat)

/-- Does the bay serve, and is a sample there (R336)? -/
def State.PatrolServes (s : State) (n : Fin 32) : Prop :=
  s.patrolsBay (s.physBay n.val) = true ∧ s.bayOn n.val = true ∧ s.isLost n.val = false

theorem State.serves_iff : (!s.patrolsBay (s.physBay n.val) || !s.bayOn n.val || s.isLost n.val) = false ↔ s.PatrolServes n :=
  Bool.or_eq_false_iff.trans ((and_congr_left' (Bool.or_eq_false_iff.trans
    (and_congr (Bool.not_eq_false' _).to_iff (Bool.not_eq_false' _).to_iff))).trans and_assoc)

theorem patrolConfirm_eq (inside : lane.toNat < 264) : exec (.patrolConfirm n lane row stage element m) s =
    if !s.patrolsBay (s.physBay n.val) || !s.bayOn n.val || s.isLost n.val then .next s
    else match s.sampleOf (s.physBay n.val) lane.toNat row.toNat stage.toNat element.toNat with
      | none => .next s
      | some x => s.verdict n lane row stage element m x (x.judge m) := if_neg (not_le.2 inside)

theorem patrolConfirm_idle (inside : lane.toNat < 264)
    (idle : ¬ s.PatrolServes n ∨ s.sampleOf (s.physBay n.val) lane.toNat row.toNat stage.toNat element.toNat = none) :
    exec (.patrolConfirm n lane row stage element m) s = .next s := by
  refine (patrolConfirm_eq inside).trans ?_
  by_cases serves : s.PatrolServes n
  · rw [idle.resolve_left (not_not.2 serves)]
    exact ite_self _
  · exact if_pos (Bool.of_not_eq_false (mt State.serves_iff.1 serves))

theorem patrolConfirm_confirms {x : Sample} (inside : lane.toNat < 264) (serves : s.PatrolServes n)
    (sample : s.sampleOf (s.physBay n.val) lane.toNat row.toNat stage.toNat element.toNat = some x) :
    exec (.patrolConfirm n lane row stage element m) s = s.verdict n lane row stage element m x (x.judge m) := by
  refine (patrolConfirm_eq inside).trans ((if_neg (Bool.eq_false_iff.1 (State.serves_iff.2 serves))).trans ?_)
  rw [sample]

variable {x : Sample}

theorem State.verdict_checks : let b := s.physBay n.val
    s.verdict n lane row stage element m x (some 0) =
      .next ((((s.judges b x).misses n.val lane.toNat row.toNat stage.toNat element.toNat x 0).logE 0x76 0 n.val 0 0
        s.spare.sweeps.toNat b (m.u1.toNat + 2 ^ 4 * m.u2.toNat)).findingRun (unitOf 8 b m.u1.toNat) 1) :=
  congrArg (fun sweeps => Host.Outcome.next ((((s.judges (s.physBay n.val) x).misses n.val lane.toNat row.toNat stage.toNat
    element.toNat x 0).logE 0x76 0 n.val 0 0 sweeps (s.physBay n.val) (m.u1.toNat + 2 ^ 4 * m.u2.toNat)).findingRun
      (unitOf 8 (s.physBay n.val) m.u1.toNat) 1)) ((congrArg (fun y : Spare => y.sweeps.toNat) (State.logE_spare ..)).trans rfl)

/-- A soft mismatch, over the state that its entry leaves. -/
theorem State.verdict_soft : let b := s.physBay n.val
    s.verdict n lane row stage element m x (some 2) = .next (((s.judges b x).withLog
      ((s.judges b x).misses n.val lane.toNat row.toNat stage.toNat element.toNat x 0).log).softens b lane.toNat) :=
  congrArg (fun t : State => Host.Outcome.next (t.softens (s.physBay n.val) lane.toNat)) (State.misses_only ..)

/-- What a confirmation gives for the sample `x` that it names (R336, R337, R348). -/
def State.Judges (s : State) (n : Fin 32) (lane : BitVec 9) (row : BitVec 8) (stage : BitVec 4) (element : W32)
    (m : Confirm) (x : Sample) : Prop :=
  let b := s.physBay n.val
  let run := exec (.patrolConfirm n lane row stage element m) s
  let value : BitVec 128 := x.check m.fault1
  let judged := s.judges b x
  let missed (hard : Nat) : State := judged.misses n.val lane.toNat row.toNat stage.toNat element.toNat x hard
  let wrong := m.got ≠ value
  let k := (s.spare.bay b).soft.toNat
  let unit : UnitId := ⟨0, BitVec.ofNat 6 b, BitVec.ofNat 11 lane.toNat⟩
  (¬ wrong → run = .next judged)
  ∧ (wrong → value ≠ x.check m.fault2 → run = .next (((missed 0).logE 0x76 0 n.val 0 0
      s.spare.sweeps.toNat b (m.u1.toNat + 2 ^ 4 * m.u2.toNat)).findingRun ⟨8, BitVec.ofNat 6 b, BitVec.ofNat 11 m.u1.toNat⟩ 1))
  ∧ (wrong → value = x.check m.fault2 → m.got ∈ m.replays.take 8 → run = .next ((missed 1).findingRun unit 2))
  ∧ (wrong → value = x.check m.fault2 → m.got ∉ m.replays.take 8 → k < 2 → ∃ t, run = .next t
    ∧ (t.spare.bay b).soft.toNat = k + 1 ∧ t.log = (missed 0).log
    ∧ t = (judged.withLog t.log).withSpare { judged.spare with bays := t.spare.bays })
  ∧ (wrong → value = x.check m.fault2 → m.got ∉ m.replays.take 8 → 2 ≤ k → run = .next
      (((missed 0).withSpare (judged.spare.withSoft b 0)).findingRun unit 3))
  ∧ (∀ ref, x.refs = [ref] → x.scale = .none → m.fault1 = 0 →
      value = BitVec.ofNat 128 (encode x.fmt (convert x.fmt x.mode x.draw x.wrap (decode 0xD ref.toNat))))

/-- What a confirmation makes of a sample. -/
theorem patrolConfirm_judges (inside : lane.toNat < 264) (serves : s.PatrolServes n)
    (sample : s.sampleOf (s.physBay n.val) lane.toNat row.toNat stage.toNat element.toNat = some x)
    (bay : s.physBay n.val < s.spare.bays.length) : s.Judges n lane row stage element m x := by
  have ran {v : Option Nat} (judged : x.judge m = v) : exec (.patrolConfirm n lane row stage element m) s = _ :=
    (patrolConfirm_confirms inside serves sample).trans (congrArg (s.verdict n lane row stage element m x) judged)
  refine ⟨fun right => ran (Sample.judge_matches (not_not.1 right)),
    fun wrong apart => (ran (Sample.judge_checks wrong apart)).trans State.verdict_checks,
    fun wrong agree hard => ran (Sample.judge_hard wrong agree hard), fun wrong agree soft low => ?_, fun wrong agree soft high => ?_,
    fun ref refs scale exact_ => (congrArg x.check exact_).trans (Sample.check_plain refs scale)⟩
  · refine ⟨_, (ran (Sample.judge_soft wrong agree soft)).trans (State.verdict_soft.trans (congrArg Host.Outcome.next (if_pos low))),
      (congrArg BitVec.toNat (Spare.bay_withSoft (x := (s.judges _ x).spare) bay)).trans
        (Nat.mod_eq_of_lt ((Nat.succ_lt_succ low).trans (Nat.lt_succ_self 3))), rfl, rfl⟩
  · exact (ran (Sample.judge_soft wrong agree soft)).trans (State.verdict_soft.trans (congrArg Host.Outcome.next
      ((if_neg (Nat.not_lt.2 high)).trans (congrArg (fun t : State => (t.withSpare ((s.judges _ x).spare.withSoft _ 0)).findingRun _ 3)
        (State.misses_only ..).symm))))

end

/-- Settles O37: a cover settles the sweep bit by bit of LEFT, the findings follow the units that an activity reads, and a
confirmation follows the sample's verdict. -/
theorem patrolEvents : Obligations.PatrolEvents :=
  have clauses : (∀ (u : UnitId) (s : State), s.pwr.phase = .run → u.wf = true → u.kind = 4 →
        exec (.patrolVector (.finding u 4)) s = .next (s.findingRun u 4))
      ∧ ∀ s : State, s.patrolOn = true →
        (∀ (a : BitVec 4) (v : BitVec 6), ¬ s.Patrols a.toNat v.toNat → exec (.patrolVector (.clean a v)) s = .next s)
        ∧ (∀ (a : BitVec 4) (v : BitVec 6), s.Patrols a.toNat v.toNat →
          ∃ t, exec (.patrolVector (.clean a v)) s = .next t ∧ s.Covers t a v)
        ∧ s.CountsBanks ∧ s.FindsBanks ∧ s.FindsTested
        ∧ ∀ (n : Fin 32) (lane : BitVec 9) (row : BitVec 8) (stage : BitVec 4) (element : W32) (m : Confirm), lane.toNat < 264 →
          (¬ s.PatrolServes n ∨ s.sampleOf (s.physBay n.val) lane.toNat row.toNat stage.toNat element.toNat = none →
            exec (.patrolConfirm n lane row stage element m) s = .next s)
          ∧ ∀ x, s.PatrolServes n → s.sampleOf (s.physBay n.val) lane.toNat row.toNat stage.toNat element.toNat = some x →
            s.physBay n.val < s.spare.bays.length → s.Judges n lane row stage element m x :=
    ⟨fun _ _ run wf kind => (patrolVector_finding wf run 4).trans (congrArg Host.Outcome.next (if_pos ⟨kind, rfl⟩)),
      fun _ on => ⟨patrolVector_uncovered on, patrolVector_covers on, State.countsBanks on, State.findsBanks on, State.findsTested on,
        fun _ _ _ _ _ _ inside => ⟨patrolConfirm_idle inside, fun _ => patrolConfirm_judges inside⟩⟩⟩
  clauses

end Sys2Proof.Machine

/-! ### What the work of a tile can change -/

namespace Sys2Proof.Machine

variable {n : Nat} {u : Tile} {c : Chain} {s t : State}

/-- The writes that a tile of bay `n` can make: output, where its chain sends any to memory, and records, where its chain keeps any. -/
def Tile.MayWrite (u : Tile) (n : Nat) (c : Chain) (w : MemWrite) : Prop :=
  (w.writer = .tile n u.seq ∧ (c.toMem = true ∨ ∃ x ∈ c.stages, stOp x = opROUND ∧ bit x 31 = true))
  ∨ (w.writer = .record n u.seq ∧ (c.has opSEG = true ∨ c.has opTOPK = true ∨ c.pivrecs ≠ []))

/-- Bay `b` with the parts of `b'` that the work of a tile changes. -/
noncomputable def Bay.workedAs (b b' : Bay) : Bay :=
  { b with act := b'.act, lanes := b'.lanes, held := b'.held, soq := b'.soq, stalled := b'.stalled }

/-- The tile in the lanes but for the number of its output beats. -/
noncomputable def Active.place (a : Active) : Active := { a with outBeats := 0 }

/-- `s` with the parts of `t` that the work of a tile changes. -/
noncomputable def State.workedAs (s t : State) : State :=
  { s with
    bays := t.bays, ctxs := t.ctxs, groups := t.groups, store := t.store, formed := t.formed, runs := t.runs, mpq := t.mpq
    mpWait := t.mpWait, topks := t.topks, nan := t.nan, xp := { s.xp with out := t.xp.out }, free := t.free
    spare := { s.spare with bays := t.spare.bays, rot := t.spare.rot, sampled := t.spare.sampled } }

/-- What the work of tile `u` of chain `c` in the lanes of bay `n` leaves alone, and its writes. -/
structure WorkFrame (n : Nat) (u : Tile) (c : Chain) (s t : State) : Prop where
  only : t = s.workedAs t
  others : ∀ i, i ≠ n → t.bay i = s.bay i
  bay : t.bay n = (s.bay n).workedAs (t.bay n)
  puts : s.mpq.length = 4 → t.mpq.length = 4 ∧ ∃ ws, s.Puts t ws ∧ ∀ w ∈ ws, u.MayWrite n c w

/-- The work of tile `u` of chain `c` in the lanes of bay `n`: the tile keeps its place in the order of R237. -/
structure Works (n : Nat) (u : Tile) (c : Chain) (s t : State) : Prop extends WorkFrame n u c s t where
  act : (t.bay n).act.map Active.place = (s.bay n).act.map Active.place

theorem WorkFrame.trans {r : State} (h : WorkFrame n u c s t) (k : WorkFrame n u c t r) : WorkFrame n u c s r where
  only := k.only.trans ((congrArg (State.workedAs · r) h.only).trans rfl)
  others i ne := (k.others i ne).trans (h.others i ne)
  bay := k.bay.trans ((congrArg (Bay.workedAs · (r.bay n)) h.bay).trans rfl)
  puts four := by
    obtain ⟨four', ws, put, may⟩ := h.puts four
    obtain ⟨four'', vs, put', may'⟩ := k.puts four'
    exact ⟨four'', ws ++ vs, (put'.trans (put.append_right vs)).trans (.of_eq (List.append_assoc ..)),
      List.forall_mem_append.2 ⟨may, may'⟩⟩

theorem Works.trans {r : State} (h : Works n u c s t) (k : Works n u c t r) : Works n u c s r :=
  ⟨h.toWorkFrame.trans k.toWorkFrame, k.act.trans h.act⟩

/-- A change of the state outside the bays. -/
theorem Works.of_bays (only : t = s.workedAs t) (bays : t.bays = s.bays)
    (puts : s.mpq.length = 4 → t.mpq.length = 4 ∧ ∃ ws, s.Puts t ws ∧ ∀ w ∈ ws, u.MayWrite n c w) : Works n u c s t := by
  have same (i : Nat) : t.bay i = s.bay i := congrArg (List.getD · i Bay.reset) bays
  exact ⟨⟨only, fun i _ => same i, (same n).trans (congrArg (s.bay n).workedAs (same n)).symm, puts⟩,
    congrArg (fun b : Bay => b.act.map Active.place) (same n)⟩

/-- A change of the state outside the bays and the writes. -/
theorem Works.of_same (only : t = s.workedAs t) (bays : t.bays = s.bays) (mpq : t.mpq = s.mpq) (wait : t.mpWait = s.mpWait) :
    Works n u c s t :=
  .of_bays only bays fun four => ⟨mpq ▸ four, [], by rw [State.Puts, State.writes, mpq, wait, List.append_nil]; rfl,
      fun _ mem => absurd mem List.not_mem_nil⟩

theorem Works.refl (s : State) : Works n u c s s := .of_same rfl rfl rfl rfl

theorem Works.foldl {α : Type} {f : State → α → State} (l : List α) (step : ∀ s, ∀ a ∈ l, Works n u c s (f s a)) :
    ∀ s, Works n u c s (l.foldl f s) := by
  induction l with
  | nil => exact .refl
  | cons a l ih =>
    exact fun s => (step s a (.head _)).trans (ih (fun s a mem => step s a (.tail _ mem)) _)

theorem State.mapBay_workFrame {f : Bay → Bay} (only : f (s.bay n) = (s.bay n).workedAs (f (s.bay n))) :
    WorkFrame n u c s (s.mapBay n f) where
  only := rfl
  others i ne := s.bay_mapBay_other n i f ne
  bay := by
    by_cases lt : n < s.bays.length
    · rw [State.bay_mapBay_same s n f lt]
      exact only
    · rw [State.mapBay, List.modify_eq_self (not_lt.1 lt)]
      rfl
  puts four := ⟨four, [], .of_eq (List.append_nil _).symm, fun _ mem => absurd mem List.not_mem_nil⟩

theorem State.mapBay_works {f : Bay → Bay} (only : f (s.bay n) = (s.bay n).workedAs (f (s.bay n)))
    (place : (f (s.bay n)).act.map Active.place = (s.bay n).act.map Active.place) : Works n u c s (s.mapBay n f) where
  toWorkFrame := State.mapBay_workFrame only
  act := by
    by_cases lt : n < s.bays.length
    · rw [State.bay_mapBay_same s n f lt]
      exact place
    · rw [State.mapBay, List.modify_eq_self (not_lt.1 lt)]

theorem State.memWrite_works {home : Nat} {w : MemWrite} (may : w.cells = [] ∨ u.MayWrite n c w) :
    Works n u c s (s.memWrite home w) := by
  by_cases none_ : w.cells = []
  · unfold State.memWrite
    rw [if_pos (List.isEmpty_iff.2 none_)]
    exact .refl s
  · have only := s.memWrite_only home w
    refine .of_bays (only.trans ((congrArg s.workedAs only).trans rfl).symm) ((congrArg State.bays only).trans rfl) fun four => ?_
    obtain ⟨puts, four'⟩ := (s.memWrite_sends home w none_).puts four
    exact ⟨four', [w], puts, fun x mem => List.mem_singleton.1 mem ▸ may.resolve_left none_⟩

end Sys2Proof.Machine

/-! ### The bytes of records: only a SEG stage makes any -/

namespace Sys2Proof.Machine

variable {v : LaneEnv} {r idx w : Nat} {x : LaneW} {el : Elem}

/-- Lane `y` has made the bytes that lane `x` has made, and no others. -/
def LaneW.Silent (x y : LaneW) : Prop := y.cells = x.cells

theorem LaneW.Silent.trans {y z : LaneW} (h : x.Silent y) (k : y.Silent z) : x.Silent z := Eq.trans k h

theorem LaneW.Silent.ite {p : Prop} [Decidable p] {y z : LaneW} (h : x.Silent y) (k : x.Silent z) :
    x.Silent (if p then y else z) := by
  split
  · exact h
  · exact k

theorem LaneW.Silent.iteFst {α : Type} {p : Prop} [Decidable p] {y z : LaneW × α} (h : x.Silent y.1) (k : x.Silent z.1) :
    x.Silent (if p then y else z).1 := by
  split
  · exact h
  · exact k

theorem LaneW.Silent.elseFst {α : Type} {p : Prop} [Decidable p] {y z : LaneW × α} (not_ : ¬p) (k : x.Silent z.1) :
    x.Silent (if p then y else z).1 := by rwa [if_neg not_]

theorem LaneW.Silent.foldl {α : Type} {f : LaneW → α → LaneW} (l : List α) (step : ∀ x : LaneW, ∀ a ∈ l, x.Silent (f x a)) :
    ∀ x : LaneW, x.Silent (l.foldl f x) := by
  induction l with
  | nil => exact fun _ => rfl
  | cons a l ih => exact fun x => (step x a (.head _)).trans (ih (fun x a mem => step x a (.tail _ mem)) _)

theorem LaneW.invScale_silent (e : Nat) : x.Silent (x.invScale e idx) := .ite rfl rfl

theorem finishValue_silent (val : Num) (ops : List Num) : x.Silent (finishValue v idx w x el val ops).1 := by
  unfold finishValue
  extract_lets e y
  exact .ite rfl rfl

theorem stageDeq_silent : x.Silent (stageDeq v r idx w x el).1 := by
  unfold stageDeq
  generalize bits w 25 24 = policy
  match policy with
  | 0 => exact rfl
  | 1 => exact .iteFst rfl (LaneW.invScale_silent _)
  | _ + 2 => exact .iteFst (.ite rfl rfl) rfl

theorem stageValue_silent : x.Silent (stageValue v r idx w x el).1 := by
  unfold stageValue
  extract_lets
  refine .iteFst (.iteFst ?invalid (finishValue_silent _ _)) (.iteFst (finishValue_silent _ _) (.iteFst ?deq
    (.iteFst (finishValue_silent _ _) (.iteFst (finishValue_silent _ _) (.iteFst (finishValue_silent _ _) rfl)))))
  case invalid => exact (LaneW.invScale_silent _).trans (finishValue_silent _ _)
  case deq => exact stageDeq_silent.trans (finishValue_silent _ _)

theorem stagePairRot_silent (e0 e1 : Elem) : x.Silent (stagePairRot v r idx w x e0 e1).1 := by
  unfold stagePairRot
  extract_lets
  exact (finishValue_silent (w := w) _ _).trans (finishValue_silent (w := w) _ _)

theorem stageRecomb_silent (els : List Elem) : x.Silent (stageRecomb v r idx w x els).1 := by
  induction els
  case nil => rfl
  case cons => exact finishValue_silent (w := w) _ _

theorem stagePivot_silent (val : Num) : x.Silent (stagePivot v idx w x el val).1 := by
  unfold stagePivot
  exact .iteFst rfl (.iteFst rfl rfl)

theorem sendRun_silent : x.Silent (sendRun x idx) := .ite rfl rfl

theorem closeGroup_silent (e : Nat) : x.Silent (closeGroup v idx w e x) := by
  unfold closeGroup
  extract_lets s
  generalize s.terms.getLast? = o
  induction o
  case none => rfl
  case some term =>
    dsimp -zeta only
    extract_lets _ _ _ _ y z _ _ _ _ _ _ _ _ y'
    have first : x.Silent z := .trans (y := y) (.ite rfl rfl) rfl
    have last : x.Silent y' := first.trans (.ite rfl rfl)
    exact .ite (first.trans rfl) (.ite (.ite ((first.trans rfl).trans sendRun_silent) (first.trans rfl))
      (.ite (last.trans rfl) (last.trans rfl)))

theorem stageSum_silent (val : Num) : x.Silent (stageSum v idx w x el val) := by
  unfold stageSum
  extract_lets _ _ _ _ _ y _ z
  have terms : x.Silent z := .ite rfl (.trans (y := y) (.ite rfl rfl) (.ite rfl rfl))
  exact .ite (terms.trans (closeGroup_silent _)) terms

theorem flushBlock_silent : x.Silent (flushBlock v r idx w x) := by
  unfold flushBlock
  generalize x.lane.block = blk
  induction blk <;> rfl

theorem stageRound_silent : x.Silent (stageRound v r idx w x el) := by
  unfold stageRound
  extract_lets
  generalize stScale w = policy
  match policy with
  | 0 => exact rfl
  | 3 => exact .ite rfl (LaneW.invScale_silent _)
  | 1 | 2 | _ + 4 => exact .ite (.trans rfl flushBlock_silent) rfl

theorem stageOne_silent (seg : stOp w ≠ opSEG) : x.Silent (stageOne v r idx w x el).1 := by
  unfold stageOne
  extract_lets op val pass
  have topk : x.Silent (stageTopk v w x el val) := .ite rfl (.ite (.ite rfl rfl) (.trans (y :=
      if el.outside then x else x.seen val) (.ite rfl rfl) rfl))
  exact .iteFst stageValue_silent (.iteFst rfl (.iteFst rfl (.iteFst rfl (.iteFst (stagePivot_silent _) (.iteFst (.ite rfl rfl)
    (.iteFst topk (.iteFst (.ite rfl rfl) (.elseFst seg (.iteFst (stageSum_silent _) (.iteFst stageRound_silent
    (.iteFst rfl rfl)))))))))))

theorem stageEach_silent (seg : stOp w ≠ opSEG) (els : List Elem) : ∀ x : LaneW, x.Silent (stageEach v r idx w x els).1 := by
  induction els
  case nil => exact fun _ => rfl
  case cons _ els ih => exact fun _ => (stageOne_silent seg).trans (ih _)

theorem stagePairs_silent : ∀ (els : List Elem) (x : LaneW), x.Silent (stagePairs v r idx w x els).1
  | [], _ | [_], _ => rfl
  | e0 :: e1 :: els, _ => (stagePairRot_silent (w := w) e0 e1).trans (stagePairs_silent els _)

theorem stageAll_silent (seg : stOp w ≠ opSEG) (els : List Elem) : x.Silent (stageAll v r idx w x els).1 :=
  .iteFst (stagePairs_silent _ _) (.iteFst (.iteFst (stageRecomb_silent _) rfl) (stageEach_silent seg _ _))

theorem leave_silent : x.Silent (leave v x el) := .ite rfl rfl

theorem enter_silent (b : Nat) : x.Silent (enter v r b x).1 :=
  .trans (y := if ((decode v.ch.infmt (beatCode v.ch.infmt r (v.tile.data.getD b 0))).scale v.tile.shift.toNat).isNan
    then x.trap _ _ _ else x) (.ite rfl rfl) (.ite rfl rfl)

/-- The stages of a chain without SEG are no SEG stages. -/
theorem Chain.stOp_ne_of_indexed {c : Chain} {p : Nat × Nat} (seg : c.has opSEG = false) (mem : p ∈ c.indexed) : stOp p.2 ≠ opSEG := by
  have := List.any_eq_false.1 seg p.2 (List.of_mem_zip mem).2
  simpa using this

theorem laneOn_silent (seg : v.ch.has opSEG = false) (b p : Nat) : x.Silent (laneOn v r b p x) := by
  unfold laneOn
  extract_lets here mine others res done left
  have work : x.Silent res.1 := by
    have fold (l : List (Nat × Nat)) (noSeg : ∀ q ∈ l, stOp q.2 ≠ opSEG) : ∀ acc : LaneW × List Elem,
        acc.1.Silent (l.foldl (fun acc q => stageAll v r q.1 q.2 acc.1 acc.2) acc).1 := by
      induction l with
      | nil => exact fun _ => rfl
      | cons q l ih =>
        exact fun acc => (stageAll_silent (noSeg q (.head _)) _).trans (ih (fun q mem => noSeg q (.tail _ mem)) _)
    exact fold _ (fun q mem => Chain.stOp_ne_of_indexed seg (List.mem_of_mem_filter mem)) (x, mine)
  exact (work.trans (.foldl done (fun _ _ _ => leave_silent) _)).trans rfl

theorem laneBeat_silent (seg : v.ch.has opSEG = false) (b p : Nat) (outside : Bool) (l : Lane) :
    (laneBeat v r b p outside l).cells = [] := by
  refine LaneW.Silent.trans (x := .start l) ?_ (laneOn_silent seg b p)
  exact .ite ((enter_silent b).trans rfl) rfl

theorem pairOn_silent (seg : v.ch.has opSEG = false) (b : Nat) (ps : List Nat) (second : Bool) (ea eb : Option Elem) :
    x.Silent (pairOn v r idx w b ps second ea eb x) := by
  induction ea
  case none => rfl
  case some ea =>
    induction eb
    case none => rfl
    case some eb => exact .trans ((stagePairRot_silent (w := w) ea eb).trans rfl) (.foldl ps (fun _ _ _ => laneOn_silent seg b _) _)

theorem closeRow_silent (e : Nat) (l : List (Nat × Nat)) : x.Silent (closeRow v e l x) :=
  .foldl l (fun _ _ _ => .ite (closeGroup_silent _) rfl) x

theorem closeAll_silent (e : Nat) (l : List (Nat × Nat)) : x.Silent (closeAll v e l x) :=
  .foldl l (fun _ _ _ => .ite (closeGroup_silent _) rfl) x

theorem sendRuns_silent (l : List (Nat × Nat)) : x.Silent (sendRuns l x) := .foldl l (fun _ _ _ => .ite sendRun_silent rfl) x

end Sys2Proof.Machine

/-! ### The work of a tile is that of its chain -/

namespace Sys2Proof.Machine

variable {n : Nat} {u : Tile} {c : Chain} {s t : State}

theorem Works.ite {p : Prop} [Decidable p] {a b : State} (h : p → Works n u c s a) (k : ¬p → Works n u c s b) :
    Works n u c s (if p then a else b) := by
  split
  · exact h ‹_›
  · exact k ‹_›

theorem State.nanTraps_works (ctxOf : Nat → Nat) (cs : List (Nat × Nat × Nat × Nat)) : Works n u c s (s.nanTraps n u ctxOf cs) := by
  unfold State.nanTraps
  generalize firstTrap cs = o
  induction o <;> exact .of_same rfl rfl rfl rfl

theorem State.latchSamples_works (ws : List LaneW) : Works n u c s (s.latchSamples n u c ws) := by
  unfold State.latchSamples
  generalize (s.bay n).act = o
  induction o <;> exact .of_same rfl rfl rfl rfl

theorem State.collect_works {h : HeldOp} {ws : List LaneW} (silent : c.has opSEG = false → ∀ w ∈ ws, w.cells = []) :
    Works n u c s (s.collect n u c h ws) := by
  unfold State.collect
  extract_lets rows runs cols colRuns colTraps traps s1 s2
  have first : Works n u c s s1 := .of_same rfl rfl rfl rfl
  refine ((first.trans (State.nanTraps_works ..)).trans (State.latchSamples_works ws)).trans (State.memWrite_works ?_)
  cases seg : c.has opSEG
  · exact .inl (List.flatten_eq_nil_iff.2 (List.forall_mem_map.2 (silent seg)))
  · exact .inr (.inr ⟨rfl, .inl seg⟩)

theorem State.pushSo_works (xs : List SoItem) : Works n u c s (s.pushSo n xs) := State.mapBay_works rfl rfl

theorem State.emitBeat_works (outs : List (List (Nat × Nat × List (Nat × Nat)))) (scales : List (List (Nat × Nat))) (j : Nat) :
    Works n u c s (s.emitBeat n u c outs scales j) := by
  unfold State.emitBeat
  extract_lets _ _ _ _ _ s1 s2
  have so : Works n u c s s1 := .ite (fun _ => State.pushSo_works _) fun _ => .refl s
  have act : Works n u c s s2 := so.trans (State.mapBay_works rfl ((Option.map_map ..).trans rfl))
  exact .ite (fun mem => (act.trans (State.mapBay_works rfl rfl)).trans (State.memWrite_works (.inr (.inl ⟨rfl, .inl mem⟩))))
    fun _ => act

theorem State.emitAll_works (ws : List LaneW) : Works n u c s (s.emitAll n u c ws) := by
  unfold State.emitAll
  exact .ite (fun _ => .foldl _ (fun s j _ => s.emitBeat_works _ _ j) s) fun _ => .refl s

theorem State.workLanes_works {h : HeldOp} {f : Nat → LaneW → LaneW}
    (silent : c.has opSEG = false → ∀ r l, (f r (.start l)).cells = []) : Works n u c s (s.workLanes n u c h f) := by
  unfold State.workLanes
  extract_lets ws s1
  have lanes : Works n u c s s1 := State.mapBay_works rfl rfl
  refine (lanes.trans (State.collect_works fun seg w mem => ?_)).trans (State.emitAll_works ws)
  obtain ⟨r, lt, rfl⟩ := List.mem_mapIdx.1 mem
  exact silent seg r _

/-! The segments and the tree. -/

/-- A change of what the tree holds. -/
theorem Works.of_tree {ctxs groups store formed out}
    (only : t = { s with ctxs := ctxs, groups := groups, store := store, formed := formed, xp := { s.xp with out := out } }) :
    Works n u c s t := only.symm ▸ .of_same rfl rfl rfl rfl

theorem State.addLeaf_works (g x q : Nat) (pivot : BitVec 24) (psum : W32) (nan inf : Bool) :
    Works n u c s (s.addLeaf g x q pivot psum nan inf) := .of_tree (s.addNode_frame _)

theorem State.setGroup_works (g : Nat) (v : Bgrp) : Works n u c s (s.setGroup g v) := .of_same rfl rfl rfl rfl

theorem State.sendRow_works (r : Nat) (ws : List W32) : Works n u c s (s.sendRow u c r ws) := by
  unfold State.sendRow
  generalize s.aperture _ = o
  induction o
  case none => exact .refl s
  case some => exact .ite (fun _ => .refl s) fun _ => .of_same rfl rfl rfl rfl

theorem State.writeLanes_works (h : HeldOp) (ls : List Lane) : ∀ (r : Nat) (s : State), Works n u c s (s.writeLanes h r ls) := by
  induction ls
  case nil => exact fun _ s => .refl s
  case cons _ _ ih => exact fun r s => .trans (.of_same (t := s.setCtx _ _) rfl rfl rfl rfl) (ih (r + 1) _)

theorem State.writePivots_works (q : Nat) (pivots : List (BitVec 24)) : Works n u c s (s.writePivots n u c q pivots) :=
  .foldl _ (fun _ _ mem => State.memWrite_works (.inr (.inr ⟨rfl, .inr (.inr (List.ne_nil_of_mem mem))⟩))) s

theorem State.chunkEnd_works (v : LaneEnv) (h : HeldOp) (e : Nat) : Works n u c s (s.chunkEnd n u c v h e) := by
  unfold State.chunkEnd
  extract_lets q s1 lanes s2 s3
  have closed : Works n u c s s1 := State.workLanes_works fun _ _ _ => closeRow_silent e _
  have leaves : Works n u c s s2 := closed.trans (.foldl _ (fun _ _ _ => State.addLeaf_works ..) s1)
  exact (leaves.trans (State.writePivots_works q _)).trans (State.mapBay_works rfl rfl)

theorem State.closeSegment_works (v : LaneEnv) (h : HeldOp) (ps : List Nat) (e : Nat) :
    Works n u c s (s.closeSegment n u c v h ps e) := by
  unfold State.closeSegment
  extract_lets s1
  have closed : Works n u c s s1 := State.workLanes_works fun _ _ _ => (closeRow_silent _ _).trans (sendRuns_silent _)
  exact .ite (fun _ => closed.trans (State.chunkEnd_works v h _)) fun _ => closed

theorem State.swapSegment_works (h : HeldOp) (enters : Bool) (q sg : Nat) : Works n u c s (s.swapSegment n u c h enters q sg) :=
  .trans (t := if h.segCtx.isSome then _ else s) (.ite (fun _ => State.writeLanes_works h _ 0 s) fun _ => .refl s)
    (State.mapBay_works rfl rfl)

theorem State.segBoundary_works (v : LaneEnv) (ps : List Nat) (p b : Nat) : Works n u c s (s.segBoundary n u c v ps p b) := by
  unfold State.segBoundary
  generalize c.segctx = o
  generalize (s.bay n).held = held
  generalize u.segOfBeat c b = j
  induction o
  case none => exact .refl s
  case some =>
    induction held
    case none => exact .refl s
    case some h =>
      induction j
      case zero => exact .refl s
      case succ j _ =>
        exact .ite (fun _ => .refl s) fun _ => .trans
          (.ite (fun _ => .refl s) fun _ => State.closeSegment_works v h ps _) (State.swapSegment_works h _ _ j)

theorem State.emptyLeaves_works : Works n u c s (s.emptyLeaves n u c) := by
  unfold State.emptyLeaves
  refine .ite (fun _ => ?_) fun _ => .refl s
  exact .trans (.foldl _ (fun s _ _ => .foldl _ (fun s _ _ => .foldl _ (fun _ _ _ => State.addLeaf_works ..) s) s) s)
    (.foldl _ (fun _ _ _ => State.writePivots_works _ _) _)

theorem State.beatEnd_works (v : LaneEnv) (h : HeldOp) (p b : Nat) : Works n u c s (s.beatEnd n u c v h p b) := by
  unfold State.beatEnd
  extract_lets size e s1
  have chunk : Works n u c s s1 := .ite (fun _ => State.chunkEnd_works v h e) fun _ => .refl s
  exact .ite (fun _ => .refl s) fun _ => .ite (fun _ => chunk.trans State.emptyLeaves_works) fun _ => chunk

/-! Beats, and the end of the tile. -/

theorem State.issueBeat_works (chain : chainOf u.words = c) (a : Active) (ps : List Nat) (p b : Nat) :
    Works n u c s (s.issueBeat n u c a ps p b) := by
  unfold State.issueBeat
  extract_lets v s1
  have first : Works n u c s s1 := State.segBoundary_works v ps p b
  generalize (s1.bay n).held = o
  induction o
  case none => exact first
  case some h =>
    exact (first.trans (State.workLanes_works fun seg _ _ => laneBeat_silent (v := v) ((congrArg (Chain.has · opSEG) chain).trans seg)
        b p _ _)).trans
      (State.beatEnd_works v h p b)

theorem State.partedBeat_works (chain : chainOf u.words = c) (a : Active) (ps : List Nat) (b : Nat) (x : Nat × Nat) (h : HeldOp)
    (q j : Nat) : Works n u c s (s.partedBeat n u c a ps b x h q j) := by
  unfold State.partedBeat
  extract_lets v h' before waiting later s1 s2 next own s3 s4 s5 s6 s7 s8
  have own : Works n u c s s2 := .trans (t := s1) (State.mapBay_works rfl rfl) (.foldl ps (fun _ p _ =>
    State.workLanes_works fun seg _ _ => laneBeat_silent (v := v) ((congrArg (Chain.has · opSEG) chain).trans seg) b p _ _) s1)
  have first : Works n u c s2 s4 := .trans (t := s3) (State.mapBay_works rfl rfl)
    (State.workLanes_works fun seg _ _ => pairOn_silent (v := v) ((congrArg (Chain.has · opSEG) chain).trans seg) b later _ _ _)
  have closed : Works n u c s4 s6 := .trans (t := s5) (State.closeSegment_works v h ps _) (State.writeLanes_works h _ 0 s5)
  have second : Works n u c s6 s8 := .trans (t := s7) (State.mapBay_works rfl rfl)
    (State.workLanes_works fun seg _ _ => pairOn_silent (v := v) ((congrArg (Chain.has · opSEG) chain).trans seg) b later _ _ _)
  exact (((own.trans first).trans closed).trans second).trans (.foldl ps (fun _ p _ => State.beatEnd_works v h' p b) s8)

theorem State.issuePasses_works (chain : chainOf u.words = c) (a : Active) (ps : List Nat) (b : Nat) :
    Works n u c s (s.issuePasses n u c a ps b) := by
  unfold State.issuePasses
  generalize s.partedPair n u c ps b = o
  induction o
  case none => exact .foldl ps (fun _ p _ => State.issueBeat_works chain a ps p b) s
  case some => exact State.partedBeat_works chain a ps b ..

theorem State.skipLeaves_works (h : HeldOp) : Works n u c s (s.skipLeaves n u c h) := by
  unfold State.skipLeaves
  refine .ite (fun _ => .refl s) fun _ => .foldl _ (fun s run _ => ?_) s
  exact .trans (State.setGroup_works _ _) (.foldl _ (fun s q _ => .trans (.foldl _ (fun _ _ _ => State.addLeaf_works ..) s)
    (State.writePivots_works q _)) _)

theorem State.writeTopk_works : Works n u c s (s.writeTopk n u c) := by
  refine .foldl _ (fun s p mem => ?_) s
  have topk : c.has opTOPK = true := by
    obtain ⟨mem, op⟩ := List.mem_filter.1 mem
    exact List.any_eq_true.2 ⟨p.2, (List.of_mem_zip mem).2, op⟩
  have records := fun home cells => State.memWrite_works (s := s) (home := home) (w := ⟨.record n u.seq, cells⟩)
    (.inr (.inr ⟨rfl, .inr (.inl topk)⟩ : u.MayWrite n c _))
  exact .ite (fun _ => records _ _) fun _ => (records _ _).trans (.of_same rfl rfl rfl rfl)

theorem State.finishTile_works (a : Active) : Works n u c s (s.finishTile n u c a) := by
  unfold State.finishTile
  extract_lets _ _ _ _ pad
  generalize (s.bay n).held = o
  induction o
  case none => exact .refl s
  case some h =>
    refine .trans ?_ (State.skipLeaves_works h)
    refine .trans ?_ (.ite (fun _ => State.pushSo_works _) fun _ => .refl _)
    refine .trans ?_ State.writeTopk_works
    refine .trans ?_ (.ite (fun _ => .foldl _ (fun s w mem => .ite (fun scaleout => State.memWrite_works
      (.inr (.inl ⟨rfl, .inr ⟨w, mem, scaleout⟩⟩))) fun _ => .refl s) _) fun _ => .refl _)
    refine .trans ?_ (State.mapBay_works rfl rfl)
    refine .trans ?_ (.foldl _ (fun _ _ _ => State.sendRow_works _ _) _)
    refine .trans (State.workLanes_works fun seg r l => ?_) (State.memWrite_works ?_)
    · refine LaneW.Silent.trans (x := .start l) ?_ (sendRuns_silent _)
      refine ((closeAll_silent _ _).trans (.foldl _ (fun _ _ _ => .ite flushBlock_silent rfl) _)).trans (.foldl _ (fun _ p mem => ?_) _)
      obtain ⟨mem, op⟩ := List.mem_filter.1 mem
      exact absurd (beq_iff_eq.1 op) (Chain.stOp_ne_of_indexed seg mem)
    · cases mem : c.toMem
      · left
        have none_ : pad = 0 := if_neg (by rw [mem, Bool.and_false]; exact Bool.false_ne_true)
        rw [if_pos none_]
        rfl
      · exact .inr (.inl ⟨rfl, .inl mem⟩)

theorem State.sample_works (a : Active) : Works n u c s (s.sample n u c a) := by
  unfold State.sample
  exact .ite (fun _ => .of_same rfl rfl rfl rfl) fun _ => .refl s

theorem State.issueGroup_works (chain : chainOf u.words = c) (a : Active) (beats : List Nat) :
    Works n u c s (s.issueGroup n u c a beats) := by
  have passes (ps s) : Works n u c s (beats.foldl (fun s b => s.issuePasses n u c a ps b) s) :=
    .foldl beats (fun _ b _ => State.issuePasses_works chain a ps b) s
  unfold State.issueGroup
  refine .ite (fun _ => ?_) fun _ => .ite (fun _ => passes _ s) fun _ => .foldl beats (fun _ b _ => State.issueBeat_works chain a _ _ b) s
  extract_lets s1
  refine .ite (fun _ => ?_) fun _ => passes _ s
  generalize (s1.bay n).held = o
  induction o
  case none => exact passes _ s
  case some => exact (passes _ s).trans (State.workLanes_works fun _ _ _ => closeAll_silent _ _)

end Sys2Proof.Machine

/-! ### A value of bond format rounds to itself (R40) -/

namespace Sys2Proof.Machine

/-- Two ways to write a whole number as a difference. -/
theorem add_eq_of_sub_eq {a b a' b' : Nat} {k : Int} (h : (a : Int) - b = k) (h' : (a' : Int) - b' = k) : a + b' = a' + b :=
  Int.ofNat.inj (sub_eq_sub_iff_add_eq_add.1 (h.trans h'.symm))

theorem mul_two_pow_two_pow (x a b : Nat) : x * 2 ^ a * 2 ^ b = x * 2 ^ (a + b) := by rw [Nat.mul_assoc, Nat.pow_add]

/-- Powers of two with the same difference of exponents give the same order. -/
theorem two_pow_lt_iff {m n a b a' b' : Nat} (h : a + b' = a' + b) : m * 2 ^ b < n * 2 ^ a ↔ m * 2 ^ b' < n * 2 ^ a' := by
  rw [← Nat.mul_lt_mul_right (Nat.two_pow_pos b'), mul_two_pow_two_pow, mul_two_pow_two_pow, h, Nat.add_comm, ← mul_two_pow_two_pow,
    ← mul_two_pow_two_pow, Nat.mul_lt_mul_right (Nat.two_pow_pos b)]

/-- The exponents that stand for `2 ^ k` in a fraction, with `j` more in the numerator. -/
theorem add_toNat_sub (j : Nat) (k : Int) : ((j + k.toNat : Nat) : Int) - (-k).toNat = j + k := by
  rw [Int.natCast_add, Int.add_sub_assoc, Int.toNat_sub_toNat_neg]

theorem magGt_eq (m : Nat) (e : Int) (m' : Nat) (e' : Int) :
    magGt m e m' e' = decide (m' * 2 ^ (-(e - e')).toNat < m * 2 ^ (e - e').toNat) := by
  rw [magGt, Nat.shiftLeft_eq, Nat.shiftLeft_eq, Int.neg_sub]
  rcases Int.le_total e e' with h | h
  · rw [Int.min_eq_left h, Int.sub_self, Int.toNat_of_nonpos (Int.sub_nonpos_of_le h)]
    rfl
  · rw [Int.min_eq_right h, Int.sub_self, Int.toNat_of_nonpos (Int.sub_nonpos_of_le h)]
    rfl

/-- The magnitude in other units. -/
theorem magGt_mul_left (m j : Nat) (q : Int) (m' : Nat) (e' : Int) : magGt (m * 2 ^ j) q m' e' = magGt m (j + q) m' e' := by
  rw [magGt_eq, magGt_eq, mul_two_pow_two_pow, Int.add_sub_assoc]
  exact decide_eq_decide.2 (two_pow_lt_iff (add_eq_of_sub_eq (add_toNat_sub j _) (Int.toNat_sub_toNat_neg _)))

theorem magGt_mul_right (m j : Nat) (q : Int) (m' : Nat) (e' : Int) : magGt m' e' (m * 2 ^ j) q = magGt m' e' m (j + q) := by
  have h := add_toNat_sub j (q - e')
  have h' := Int.toNat_sub_toNat_neg (j + q - e')
  rw [Int.neg_sub] at h h'
  rw [magGt_eq, magGt_eq, mul_two_pow_two_pow, Int.neg_sub, Int.neg_sub]
  refine decide_eq_decide.2 (two_pow_lt_iff ?_)
  rw [Nat.add_comm, ← add_eq_of_sub_eq h (h'.trans (Int.add_sub_assoc ..)), Nat.add_comm]

theorem frac_eq (m : Nat) (e : Int) : frac m e = (m * 2 ^ e.toNat, 2 ^ (-e).toNat) := by
  unfold frac
  split
  · next h => rw [Nat.shiftLeft_eq, Int.toNat_of_nonpos (Int.neg_nonpos_of_nonneg h), Nat.pow_zero]
  · next h => rw [Nat.one_shiftLeft, Int.toNat_of_nonpos (Int.not_le.1 h).le, Nat.pow_zero, Nat.mul_one]

/-- The numerator and the denominator of n/d in units of 2^q. -/
theorem units_eq (n d : Nat) (q : Int) : (if 0 ≤ q then n else n <<< (-q).toNat) = n * 2 ^ (-q).toNat
    ∧ (if 0 ≤ q then d <<< q.toNat else d) = d * 2 ^ q.toNat := by
  split
  · next h => exact ⟨by rw [Int.toNat_of_nonpos (Int.neg_nonpos_of_nonneg h), Nat.pow_zero, Nat.mul_one], Nat.shiftLeft_eq ..⟩
  · next h => exact ⟨Nat.shiftLeft_eq .., by rw [Int.toNat_of_nonpos (Int.not_le.1 h).le, Nat.pow_zero, Nat.mul_one]⟩

theorem unitsOf_eq (n d : Nat) (q : Int) : unitsOf n d q =
    (n * 2 ^ (-q).toNat / (d * 2 ^ q.toNat), n * 2 ^ (-q).toNat % (d * 2 ^ q.toNat), d * 2 ^ q.toNat) := by
  obtain ⟨num, den⟩ := units_eq n d q
  unfold unitsOf
  rw [num, den]

theorem flog2_eq (n d : Nat) (k : Int) (hk : k = (Nat.log2 n : Int) - Nat.log2 d) :
    flog2 n d = if d * 2 ^ k.toNat ≤ n * 2 ^ (-k).toNat then k else k - 1 := by
  unfold flog2
  rw [← hk]
  refine if_congr ?_ rfl rfl
  obtain ⟨num, den⟩ := units_eq n d k
  rw [← num, ← den]
  split
  · exact Iff.rfl
  · exact Iff.rfl

/-- A positive fraction is less than the power of two above its logarithm. -/
theorem lt_flog2 {n d : Nat} (hd : d ≠ 0) : n * 2 ^ (-(flog2 n d)).toNat < d * 2 ^ (1 + (flog2 n d).toNat) := by
  obtain ⟨k, hk⟩ : ∃ k, k = (Nat.log2 n : Int) - Nat.log2 d := ⟨_, rfl⟩
  rw [flog2_eq n d k hk]
  split
  · have top : n * 2 ^ 0 < 2 * 2 ^ n.log2 := by
      rw [Nat.pow_zero, Nat.mul_one, ← Nat.pow_add_one']
      exact Nat.lt_log2_self
    have shift : (d.log2 : Int) + k = n.log2 := by rw [hk, Int.add_comm, Int.sub_add_cancel]
    have := (two_pow_lt_iff (add_eq_of_sub_eq (Int.sub_zero (n.log2 : Int)) ((add_toNat_sub d.log2 k).trans shift))).1 top
    rw [Nat.pow_add, Nat.mul_left_comm] at this
    rw [Nat.pow_add]
    exact this.trans_le (Nat.mul_le_mul_right _ (Nat.log2_self_le hd))
  · next h =>
    exact (two_pow_lt_iff (add_eq_of_sub_eq (Int.toNat_sub_toNat_neg k) ((add_toNat_sub 1 (k - 1)).trans ((Int.add_comm ..).trans
        (Int.sub_add_cancel k 1))))).1
      (not_le.1 h)

/-- Rounded into bond format, a fraction has at most 28 bits. -/
theorem roundUnits_le (neg : Bool) (n : Nat) {d : Nat} (hd : d ≠ 0) : roundUnits 0 0 neg n d (flog2 n d - 27) ≤ 2 ^ 28 := by
  have quotient : (unitsOf n d (flog2 n d - 27)).1 < 2 ^ 28 := by
    rw [unitsOf_eq]
    have same (k : Int) : 28 + (k - 27) = 1 + k :=
      (Int.add_comm ..).trans ((Int.add_assoc k (-27) 28).trans (Int.add_comm k 1))
    have := (two_pow_lt_iff (add_eq_of_sub_eq (add_toNat_sub 1 (flog2 n d)) ((add_toNat_sub 28 (flog2 n d - 27)).trans (same _)))).1
      (lt_flog2 (n := n) hd)
    refine Nat.div_lt_of_lt_mul (this.trans_eq ?_)
    rw [Nat.pow_add, Nat.mul_comm (2 ^ 28), Nat.mul_assoc]
  unfold roundUnits
  dsimp only
  split
  · exact quotient
  · exact quotient.le

theorem log2_mul_two_pow {m : Nat} (hm : m ≠ 0) (j : Nat) : (m * 2 ^ j).log2 = m.log2 + j := by
  refine (Nat.log2_eq_iff (Nat.mul_ne_zero hm (Nat.two_pow_pos j).ne')).2 ⟨?_, ?_⟩
  · rw [Nat.pow_add]
    exact Nat.mul_le_mul_right _ (Nat.log2_self_le hm)
  · rw [Nat.add_right_comm, Nat.pow_add]
    exact Nat.mul_lt_mul_of_pos_right Nat.lt_log2_self (Nat.two_pow_pos j)

theorem Num.norm_mul_two_pow (s : Bool) {m : Nat} (odd : Odd m) (j : Nat) (e : Int) :
    (Num.fin s (m * 2 ^ j) e).norm = .fin s m (j + e) := by
  have pos := Nat.two_pow_pos j
  have gcd : Nat.gcd (m * 2 ^ j) (2 ^ (m * 2 ^ j).log2) = 2 ^ j := by
    rw [log2_mul_two_pow odd.pos.ne', Nat.pow_add, Nat.gcd_mul_right, Nat.Coprime.pow_right _ odd.coprime_two_right, Nat.one_mul]
  refine (if_neg (Nat.mul_ne_zero odd.pos.ne' pos.ne')).trans ((congrArg (fun g => Num.fin s (m * 2 ^ j / g) (e + g.log2)) gcd).trans ?_)
  rw [Nat.mul_div_cancel _ pos, Nat.log2_two_pow, Int.add_comm]

theorem flog2_frac {m : Nat} (hm : m ≠ 0) (e : Int) : flog2 (m * 2 ^ e.toNat) (2 ^ (-e).toNat) = m.log2 + e := by
  have log : m.log2 + e = ((m * 2 ^ e.toNat).log2 : Int) - (2 ^ (-e).toNat).log2 := by
    rw [log2_mul_two_pow hm, Nat.log2_two_pow, add_toNat_sub]
  have exponent := add_eq_of_sub_eq (add_toNat_sub m.log2 e) (Int.toNat_sub_toNat_neg (m.log2 + e))
  rw [flog2_eq _ _ _ log, if_pos]
  rw [mul_two_pow_two_pow, ← Nat.pow_add, Nat.add_comm (-e).toNat, ← exponent, Nat.add_assoc, Nat.pow_add]
  exact Nat.mul_le_mul_right _ (Nat.log2_self_le hm)

/-- A magnitude of at most 28 bits after the range tests of bond format. -/
noncomputable def bondOf (s : Bool) (m : Nat) (q : Int) : Num :=
  if magGt 1 (-510) m q then .fin s 0 0 else if magGt m q (2 ^ 28 - 1) 484 then .inf s else (Num.fin s m q).norm

theorem roundBond_eq (s : Bool) {n : Nat} (d : Nat) (hn : n ≠ 0) :
    roundBond s n d = bondOf s (roundUnits 0 0 s n d (flog2 n d - 27)) (flog2 n d - 27) := if_neg hn

theorem bondOf_mul (s : Bool) {m : Nat} (odd : Odd m) (j : Nat) (q : Int) : bondOf s (m * 2 ^ j) q
    = if magGt 1 (-510) m (j + q) then .fin s 0 0 else if magGt m (j + q) (2 ^ 28 - 1) 484 then .inf s else .fin s m (j + q) := by
  unfold bondOf
  rw [magGt_mul_right, magGt_mul_left, Num.norm_mul_two_pow s odd]

/-- In units that divide it, a magnitude is a whole number. -/
theorem roundUnits_of_eq {s : Bool} {n d a : Nat} {q : Int} (hd : d ≠ 0) (whole : n * 2 ^ (-q).toNat = a * (d * 2 ^ q.toNat)) :
    roundUnits 0 0 s n d q = a := by
  unfold roundUnits
  rw [unitsOf_eq, whole, Nat.mul_mod_left, Nat.mul_div_cancel _ (Nat.mul_pos (Nat.pos_of_ne_zero hd) (Nat.two_pow_pos _))]
  rfl

/-- A number of at most 28 bits is rounded by the range tests alone. -/
theorem roundBond_frac (s : Bool) {m : Nat} (odd : Odd m) (small : m.log2 ≤ 27) (e : Int) :
    ∃ (j : Nat) (q : Int), j + q = e ∧ roundBond s (frac m e).1 (frac m e).2 = bondOf s (m * 2 ^ j) q := by
  obtain ⟨j, hj⟩ := Nat.exists_eq_add_of_le small
  have scale : (m.log2 : Int) + e - 27 = e - j :=
    (congrArg (fun k : Nat => (m.log2 : Int) + e - k) hj).trans (add_sub_add_left_eq_sub e j (m.log2 : Int))
  have exponent := add_eq_of_sub_eq (Int.toNat_sub_toNat_neg e) ((add_toNat_sub j (e - j)).trans ((Int.add_comm ..).trans
      (Int.sub_add_cancel ..)))
  refine ⟨j, e - j, (Int.add_comm ..).trans (Int.sub_add_cancel ..), ?_⟩
  rw [frac_eq, roundBond_eq s _ (Nat.mul_ne_zero odd.pos.ne' (Nat.two_pow_pos _).ne'), flog2_frac odd.pos.ne', scale,
    roundUnits_of_eq (Nat.two_pow_pos _).ne']
  rw [mul_two_pow_two_pow, exponent, ← Nat.pow_add, mul_two_pow_two_pow, Nat.add_assoc, Nat.add_comm (e - j).toNat]

/-- What the range tests make of a number that they alone round rounds to itself. -/
theorem toBond_ite {p r : Prop} [Decidable p] [Decidable r] {s : Bool} {y : Num} (round : toBond y =
    if p then .fin s 0 0 else if r then .inf s else y) :
    toBond (if p then .fin s 0 0 else if r then .inf s else y) = if p then .fin s 0 0 else if r then .inf s else y := by
  by_cases low : p
  · rw [if_pos low]; rfl
  · rw [if_neg low] at round ⊢
    by_cases high : r
    · rw [if_pos high]; rfl
    · rw [if_neg high] at round ⊢
      exact round

theorem bondOf_zero (s : Bool) (q : Int) : bondOf s 0 q = .fin s 0 0 := by
  refine if_pos ((magGt_eq ..).trans (decide_eq_true ?_))
  rw [Nat.zero_mul, Nat.one_mul]
  exact Nat.two_pow_pos _

theorem log2_le_of_odd {k : Nat} (odd : Odd k) (le : k ≤ 2 ^ 28) : k.log2 ≤ 27 := by
  refine Nat.le_of_lt_succ ((Nat.log2_lt odd.pos.ne').2 (lt_of_le_of_ne le fun e => ?_))
  exact absurd (e ▸ odd) (by decide)

theorem toBond_bondOf (s : Bool) {m : Nat} (le : m ≤ 2 ^ 28) (q : Int) : toBond (bondOf s m q) = bondOf s m q := by
  rcases Nat.eq_zero_or_pos m with zero | pos
  · rw [zero, bondOf_zero]
    rfl
  · obtain ⟨j, k, odd, eq⟩ := Nat.exists_eq_two_pow_mul_odd pos.ne'
    obtain ⟨i, p, sum, round⟩ := roundBond_frac s odd
      (log2_le_of_odd odd ((Nat.le_mul_of_pos_left k (Nat.two_pow_pos j)).trans (eq ▸ le))) (j + q)
    rw [bondOf_mul s odd, sum] at round
    rw [eq, Nat.mul_comm, bondOf_mul s odd]
    exact toBond_ite round

theorem toBond_roundBond (s : Bool) (n : Nat) {d : Nat} (hd : d ≠ 0) : toBond (roundBond s n d) = roundBond s n d := by
  by_cases hn : n = 0
  · unfold roundBond
    rw [if_pos hn]
    rfl
  · rw [roundBond_eq s d hn]
    exact toBond_bondOf s (roundUnits_le s n hd) _

/-- A value of bond format rounds to itself (R40). -/
theorem toBond_toBond (x : Num) : toBond (toBond x) = toBond x := by
  induction x
  case nan => rfl
  case inf => rfl
  case fin s m e => exact toBond_roundBond s _ (by rw [frac_eq]; exact (Nat.two_pow_pos _).ne')

end Sys2Proof.Machine

/-! ### One beat on one lane -/

namespace Sys2Proof.Machine

variable {v : LaneEnv} {r b idx w f : Nat} {x : LaneW} {el : Elem} {l : Lane}

/-- A stage that acts in the only lane pass, on what the stage before it made, and copies nothing (R152). -/
def Plain (w : Nat) : Prop := stPass w = 0 ∧ stIn w = 0 ∧ stDst w = 0

/-- The element of beat `b` as lane `r` takes it. -/
noncomputable def LaneEnv.element (v : LaneEnv) (r b : Nat) (l : Lane) : Elem :=
  let full := (decode v.ch.infmt (beatCode v.ch.infmt r (v.tile.data.getD b 0))).scale v.tile.shift.toNat
  ⟨b, false, false, beatCode v.ch.infmt r (v.tile.data.getD b 0), toBond full, toBond full, .zero, .zero, full,
    if v.ch.final.isNone then some full else none, none, none, l.ctx.pivot, 0xFFFFFF, [], 0⟩

/-- Lane `x` has lane `l`'s registers, and no output yet. -/
structure LaneW.Fresh (x : LaneW) (l : Lane) : Prop where
  lane : x.lane = l
  outs : x.outs = []
  scales : x.scales = []

theorem LaneW.Fresh.trap (h : x.Fresh l) (p : Prop) [Decidable p] (e i k : Nat) : (if p then x.trap e i k else x).Fresh l := by
  split
  · exact ⟨h.lane, h.outs, h.scales⟩
  · exact h

theorem enter_fresh : (enter v r b (.start l)).1.Fresh l := (LaneW.Fresh.trap ⟨rfl, rfl, rfl⟩ _ _ _ _).trap _ _ _ _

/-- A lane with other elements in hand. -/
noncomputable def Lane.filled (l : Lane) (els : List Elem) : Lane := { l with elems := els }

/-- A lane with another context. -/
noncomputable def Lane.holding (l : Lane) (c : RowCtx) : Lane := { l with ctx := c }

theorem Lane.filled_idle (idle : l.elems = []) : l.filled [] = l := (congrArg l.filled idle.symm).trans rfl

/-- The element's work in the stages of the only pass, before it leaves. -/
noncomputable def LaneEnv.taken (v : LaneEnv) (r b : Nat) (l : Lane) : LaneW :=
  (enter v r b (.start l)).1.map fun k => k.filled (k.elems ++ [v.element r b l])

theorem taken_fresh (idle : l.elems = []) : (v.taken r b l).Fresh (l.filled [v.element r b l]) :=
  have start := enter_fresh (v := v) (r := r) (b := b) (l := l)
  ⟨(congrArg (fun k : Lane => k.filled (k.elems ++ [v.element r b l])) start.lane).trans (congrArg (fun els => l.filled (els ++ _)) idle),
    start.outs, start.scales⟩

theorem laneBeat_eq : laneBeat v r b 0 false l = laneOn v r b 0 (v.taken r b l) := rfl

/-- An element that stands before stage `i`. -/
noncomputable def Elem.onto (el : Elem) (i : Nat) : Elem := { el with stage := i }

theorem filter_one {α : Type} {p : α → Bool} {a : α} (h : p a = true) : [a].filter p = [a] ∧ [a].filter (fun y => !p y) = [] :=
  ⟨List.filter_cons_of_pos h, List.filter_cons_of_neg (by rw [h]; exact Bool.false_ne_true)⟩

theorem stageAll_one (op : stOp w ≠ opPAIRROT ∧ stOp w ≠ opRECOMB) (stage : el.stage = idx) :
    stageAll v r idx w x [el] = ((stageOne v r idx w x el).1, [(stageOne v r idx w x el).2.onto (idx + 1)]) := by
  obtain ⟨ready, rest⟩ := filter_one (p := fun el : Elem => el.stage == idx) (beq_iff_eq.2 stage)
  unfold stageAll
  extract_lets mine others _ res
  have resEq : res = stageEach v r idx w x [el] := (if_neg op.1).trans ((if_neg op.2).trans (congrArg (stageEach v r idx w x) ready))
  rw [resEq, show others = [] from rest]
  rfl

/-- An element that leaves a chain with ROUND, or without output, makes none. -/
theorem leave_eq (out : v.ch.outStage.isSome = true ∨ v.ch.emits = false) : leave v x el = x := by
  refine if_neg fun h => ?_
  obtain ⟨none_, emits⟩ := Bool.and_eq_true_iff.1 h
  rcases out with out | out
  · rw [Option.isNone_iff_eq_none.1 none_] at out
    exact absurd out (by decide)
  · exact absurd (emits.symm.trans out) (by decide)

/-- The stages of the only lane pass over the elements in hand. -/
noncomputable def LaneEnv.stages (v : LaneEnv) (r : Nat) (x : LaneW) (els : List Elem) : LaneW × List Elem :=
  (v.ch.passStages 0).foldl (fun acc s => stageAll v r s.1 s.2 acc.1 acc.2) (x, els)

/-- An element that takes every stage of the chain in a pass leaves no other behind. -/
theorem laneOn_eq {y : LaneW} {el' : Elem} (elems : x.lane.elems = [el]) (beat : el.beat = b) (pass : stPass (v.ch.stage el.stage) = 0)
    (stages : v.stages r x [el] = (y, [el'])) (last : el'.stage = v.ch.stages.length)
    (out : v.ch.outStage.isSome = true ∨ v.ch.emits = false) : laneOn v r b 0 x = y.map (Lane.filled · []) := by
  unfold laneOn
  extract_lets here mine others res done left
  have at_ : here el = true := Bool.and_eq_true_iff.2 ⟨decide_eq_true beat.le, beq_iff_eq.2 pass⟩
  have through : (fun el : Elem => decide (v.ch.stages.length ≤ el.stage)) el' = true := decide_eq_true last.ge
  have mineEq : mine = [el] := (congrArg _ elems).trans (filter_one at_).1
  have othersEq : others = [] := (congrArg _ elems).trans (filter_one at_).2
  have resEq : res = (y, [el']) := (congrArg (v.stages r x) mineEq).trans stages
  have doneEq : done = [el'] := (congrArg (fun q : LaneW × List Elem => q.2.filter _) resEq).trans (filter_one (a := el') through).1
  have leftEq : left = [] := (congrArg (fun q : LaneW × List Elem => q.2.filter _) resEq).trans (filter_one (a := el') through).2
  rw [doneEq, othersEq, leftEq, resEq]
  exact congrArg (LaneW.map · _) (leave_eq out)

theorem passStages_one (stages : v.ch.stages = [w]) (pass : stPass w = 0) : v.ch.passStages 0 = [(0, w)] := by
  unfold Chain.passStages Chain.indexed
  rw [stages]
  exact (filter_one (p := fun s : Nat × Nat => stPass s.2 == 0) (a := (0, w)) (beq_iff_eq.2 pass)).1

theorem passStages_two (stages : v.ch.stages = [f, w]) (first : stPass f = 0) (second : stPass w = 0) :
    v.ch.passStages 0 = [(0, f), (1, w)] := by
  unfold Chain.passStages Chain.indexed
  rw [stages]
  exact (List.filter_cons_of_pos (p := fun s : Nat × Nat => stPass s.2 == 0) (a := (0, f)) (beq_iff_eq.2 first)).trans
    (congrArg (List.cons (0, f)) (filter_one (p := fun s : Nat × Nat => stPass s.2 == 0) (a := (1, w)) (beq_iff_eq.2 second)).1)

theorem stages_one (stages : v.ch.stages = [w]) (pass : stPass w = 0) (op : stOp w ≠ opPAIRROT ∧ stOp w ≠ opRECOMB) (stage : el.stage = 0) :
    v.stages r x [el] = ((stageOne v r 0 w x el).1, [(stageOne v r 0 w x el).2.onto 1]) := by
  unfold LaneEnv.stages
  rw [passStages_one stages pass]
  exact stageAll_one op stage

theorem stages_two (stages : v.ch.stages = [f, w]) (first : stPass f = 0) (second : stPass w = 0)
    (opF : stOp f ≠ opPAIRROT ∧ stOp f ≠ opRECOMB) (op : stOp w ≠ opPAIRROT ∧ stOp w ≠ opRECOMB) (stage : el.stage = 0) {res : LaneW × Elem}
    (made : stageOne v r 0 f x el = res) :
    v.stages r x [el] = ((stageOne v r 1 w res.1 (res.2.onto 1)).1, [(stageOne v r 1 w res.1 (res.2.onto 1)).2.onto 2]) := by
  unfold LaneEnv.stages
  rw [passStages_two stages first second, List.foldl_cons, stageAll_one opF stage, made]
  exact stageAll_one op rfl

theorem stageOne_round (op : stOp w = opROUND) : (stageOne v r idx w x el).1 = stageRound v r idx w x el := by
  unfold stageOne isValueStage
  rw [op]
  rfl

theorem stageOne_pivot (op : stOp w = opPIVOT) :
    (stageOne v r idx w x el).1 = (stagePivot v idx w x el (toBond (v.source r el (stIn w) (stArgi w)))).1 := by
  unfold stageOne isValueStage
  rw [op]
  rfl

theorem stageOne_extrema (op : stOp w = opEXTREMA) :
    (stageOne v r idx w x el).1 = stageExtrema w x el (toBond (v.source r el (stIn w) (stArgi w))) := by
  unfold stageOne isValueStage
  rw [op]
  rfl

theorem stageOne_value {op : Nat} (eq : stOp f = op) (value : [opSCALE, opFMA, opDEQ, opALIGN, opNORM, opPAIRROT, opFUNC, opROT,
    opRECOMB].contains op = true) :
    stageOne v r idx f x el = stageValue v r idx f x el := if_pos (by unfold isValueStage; rw [eq, value])

theorem stageOne_func (op : stOp f = opFUNC) (free : bit f 29 = false) : stageOne v r idx f x el =
    finishValue v idx f x el (evalFunc v.tables (bits f 28 24) (v.source r el (stIn f) (stArgi f)) 0)
      [v.source r el (stIn f) (stArgi f)] :=
  (stageOne_value op rfl).trans ((if_neg (op.trans_ne (by decide))).trans ((if_neg (op.trans_ne (by decide))).trans
    ((if_neg (op.trans_ne (by decide))).trans ((if_neg (op.trans_ne (by decide))).trans ((if_neg (op.trans_ne (by decide))).trans
        ((if_pos op).trans
      (congrArg (fun k => finishValue v idx f x el (evalFunc v.tables (bits f 28 24) (v.source r el (stIn f) (stArgi f)) k)
        [v.source r el (stIn f) (stArgi f)]) (if_neg (Bool.eq_false_iff.1 (Bool.and_eq_false_iff.2 (.inl free)))))))))))

theorem stageValue_scale (op : stOp f = opSCALE) (valid : v.rowDecode idx f = false) : stageValue v r idx f x el =
    let s := v.scaleSource r el (bits f 26 24) (stArgi f) .one
    let o := v.scaleSource r el (bits f 29 27) (bits f 32 30) .zero
    finishValue v idx f x el (Num.add (v.rdn idx f) ((v.source r el (stIn f) (stArgi f)).mul s) o) [v.source r el (stIn f) (stArgi f),
        s, o] :=
  (if_pos op).trans (if_neg (Bool.eq_false_iff.1 (Bool.and_eq_false_iff.2 (.inl valid))))

/-- SCALE by an argument word with an offset in argument word 0 (R160). -/
theorem stageOne_scale (op : stOp f = opSCALE) (scale : bits f 26 24 = 0) (offset : bits f 32 30 = 0) (source : bits f 29 27 = 0) :
    ∃ ops, stageOne v r idx f x el = finishValue v idx f x el (Num.add (v.rdn idx f)
      ((v.source r el (stIn f) (stArgi f)).mul (decode 0 (v.arg (stArgi f) % 2 ^ 32))) (decode 0 (v.arg 0 % 2 ^ 32))) ops := by
  rw [stageOne_value op rfl, stageValue_scale op (by rw [LaneEnv.rowDecode, scale]; rfl), scale, offset, source]
  exact ⟨_, rfl⟩

/-- The final value stage under Once leaves its exact result for ROUND (R166). -/
theorem finishValue_final (val : Num) (ops : List Num) (fresh : x.Fresh l) (dst : stDst f = 0) (once : v.ch.staged = false)
    (final : v.ch.final = some idx) :
    (finishValue v idx f x el val ops).1.Fresh l ∧ (finishValue v idx f x el val ops).2.exPrev = some val := by
  unfold finishValue
  rw [dst, once, final]
  extract_lets e y
  have latched : y.Fresh l := by
    obtain ⟨lane, outs, scales⟩ := fresh.trap ((val.isNan && !ops.any Num.isNan) = true) e idx 0
    exact ⟨lane, outs, scales⟩
  exact ⟨latched, if_pos (decide_eq_true (rfl : some idx = some idx))⟩

/-- Element code of beat `b` that ROUND stage `i` makes of `y` on lane `l`. -/
noncomputable def LaneEnv.code (v : LaneEnv) (w i b : Nat) (l : Lane) (y : Num) : Nat :=
  encode (stSfmt w) (convert (stSfmt w) (stRnd w) (if stRnd w = 4 then v.draw l i (v.tile.e0 + b) else 0) (bit w 27) y)

/-- The lane has made the output element of beat `b` with code `k`. -/
def LaneW.Gives (x : LaneW) (b k : Nat) : Prop := x.outs = [(b, k, [])] ∧ x.scales = []

theorem outSource_eq {y : Num} (source : stIn w = 0) (exact_ : el.exPrev = some y) : v.outSource r w el = y := by
  unfold LaneEnv.outSource
  rw [source]
  exact congrArg (Option.getD · _) exact_

theorem LaneW.Gives.map {k : Nat} {g : Lane → Lane} (gives : x.Gives b k) : (x.map g).Gives b k := gives

/-- Lane `x` with another output element. -/
noncomputable def LaneW.giving (x : LaneW) (o : Nat × Nat × List (Nat × Nat)) : LaneW := { x with outs := x.outs ++ [o] }

theorem stageRound_eq (scale : stScale w = 0) :
    stageRound v r idx w x el = x.giving (el.beat, v.code w idx el.beat x.lane (v.outSource r w el), el.delta) := by
  unfold stageRound
  rw [scale]
  rfl

/-- ROUND without a scale on an element whose exact value is known (R57, R166). -/
theorem stageRound_gives {y : Num} (fresh : x.Fresh l) (scale : stScale w = 0) (source : stIn w = 0) (exact_ : el.exPrev = some y)
    (beat : el.beat = b) (delta : el.delta = []) : (stageRound v r idx w x el).Gives b (v.code w idx b l y) := by
  rw [stageRound_eq scale, delta, outSource_eq source exact_, beat, fresh.lane]
  exact ⟨congrArg (· ++ [_]) fresh.outs, fresh.scales⟩

/-- The number of beat `b` on lane `r`: its decoded pattern scaled by the delivery's SHIFT (R174). -/
noncomputable def LaneEnv.number (v : LaneEnv) (r b : Nat) : Num :=
  (decode v.ch.infmt (beatCode v.ch.infmt r (v.tile.data.getD b 0))).scale v.tile.shift.toNat

/-- The beat through a chain of one stage. -/
theorem laneBeat_one (stages : v.ch.stages = [w]) (pass : stPass w = 0) (op : stOp w ≠ opPAIRROT ∧ stOp w ≠ opRECOMB) (idle : l.elems = [])
    (out : v.ch.outStage.isSome = true ∨ v.ch.emits = false) :
    laneBeat v r b 0 false l = (stageOne v r 0 w (v.taken r b l) (v.element r b l)).1.map (Lane.filled · []) := by
  rw [laneBeat_eq]
  refine laneOn_eq (congrArg Lane.elems (taken_fresh idle).lane) rfl ?_ (stages_one stages pass op rfl) ?_ out
  · unfold Chain.stage
    rw [stages]
    exact pass
  · rw [stages]
    rfl

theorem isValueStage_eq {op : Nat} (eq : stOp w = op) :
    isValueStage w = [opSCALE, opFMA, opDEQ, opALIGN, opNORM, opPAIRROT, opFUNC, opROT, opRECOMB].contains op :=
        by unfold isValueStage; rw [eq]

theorem final_one (stages : v.ch.stages = [w]) (not_ : isValueStage w = false) : v.ch.final = none := by
  unfold Chain.final Chain.indexed
  rw [stages]
  exact congrArg (fun q : List (Nat × Nat) => (q.map Prod.fst).getLast?)
    (List.filter_cons_of_neg (p := fun s : Nat × Nat => isValueStage s.2) (a := (0, w)) (by rw [not_]; exact Bool.false_ne_true))

theorem final_two (stages : v.ch.stages = [f, w]) (value : isValueStage f = true) (not_ : isValueStage w = false) : v.ch.final =
    some 0 := by
  unfold Chain.final Chain.indexed
  rw [stages]
  exact congrArg (fun q : List (Nat × Nat) => (q.map Prod.fst).getLast?)
    ((List.filter_cons_of_pos (p := fun s : Nat × Nat => isValueStage s.2) (a := (0, f)) value).trans (congrArg (List.cons (0, f))
      (List.filter_cons_of_neg (a := (1, w)) (by rw [not_]; exact Bool.false_ne_true))))

/-- A stage that rounds each element by itself (R57, R62). -/
def Rounds (w : Nat) : Prop := stOp w = opROUND ∧ Plain w ∧ stScale w = 0

theorem Rounds.pass (h : Rounds w) : stPass w = 0 := h.2.1.1
theorem Rounds.source (h : Rounds w) : stIn w = 0 := h.2.1.2.1
theorem Rounds.scale (h : Rounds w) : stScale w = 0 := h.2.2

theorem Rounds.single (h : Rounds w) : stOp w ≠ opPAIRROT ∧ stOp w ≠ opRECOMB := by rw [h.1]; decide

theorem Rounds.outStage_one (h : Rounds w) (stages : v.ch.stages = [w]) : v.ch.outStage = some w := by
  unfold Chain.outStage
  rw [stages]
  exact List.find?_cons_of_pos (by rw [h.1]; rfl)

theorem Rounds.outStage_two (h : Rounds w) (stages : v.ch.stages = [f, w]) (first : ¬(stOp f == opROUND || stOp f == opSPLIT) = true) :
    v.ch.outStage = some w := by
  unfold Chain.outStage
  rw [stages]
  exact (List.find?_cons_of_neg (p := fun w => stOp w == opROUND || stOp w == opSPLIT) first).trans
    (List.find?_cons_of_pos (p := fun w => stOp w == opROUND || stOp w == opSPLIT) (by rw [h.1]; rfl))

/-- ROUND of the number that comes (R53, R166). -/
theorem laneBeat_round (stages : v.ch.stages = [w]) (h : Rounds w) (idle : l.elems = []) :
    (laneBeat v r b 0 false l).Gives b (v.code w 0 b l (v.number r b)) := by
  have exact_ : (v.element r b l).exPrev = some (v.number r b) := if_pos (Option.isNone_iff_eq_none.2 (final_one stages
      (isValueStage_eq h.1)))
  rw [laneBeat_one stages h.pass h.single idle (.inl (congrArg Option.isSome (h.outStage_one stages))), stageOne_round h.1]
  exact (stageRound_gives (taken_fresh idle) h.scale h.source exact_ rfl rfl).map

/-- A FUNC or SCALE stage. -/
theorem isValueStage_of (op : stOp f = opFUNC ∨ stOp f = opSCALE) : isValueStage f = true ∧ (stOp f ≠ opPAIRROT ∧ stOp f ≠ opRECOMB)
    ∧ ¬(stOp f == opROUND || stOp f == opSPLIT) = true := by
  unfold isValueStage
  rcases op with op | op
  · rw [op]; decide
  · rw [op]; decide

/-- The beat through a chain of two stages. -/
theorem laneBeat_two (stages : v.ch.stages = [f, w]) (first : stPass f = 0) (second : stPass w = 0)
    (opF : stOp f ≠ opPAIRROT ∧ stOp f ≠ opRECOMB) (op : stOp w ≠ opPAIRROT ∧ stOp w ≠ opRECOMB) (idle : l.elems = [])
    (out : v.ch.outStage = some w) {res : LaneW × Elem} (made : stageOne v r 0 f (v.taken r b l) (v.element r b l) = res) :
    laneBeat v r b 0 false l = (stageOne v r 1 w res.1 (res.2.onto 1)).1.map (Lane.filled · []) := by
  refine laneOn_eq (congrArg Lane.elems (taken_fresh idle).lane) rfl ?_ (stages_two stages first second opF op rfl made) ?_
    (.inl (congrArg Option.isSome out))
  · unfold Chain.stage
    rw [stages]
    exact first
  · rw [stages]
    rfl

/-- ROUND of the exact result of the value stage before it, under Once (R166). -/
theorem laneBeat_value_round (stages : v.ch.stages = [f, w]) (once : v.ch.staged = false) (plain : Plain f)
    (opF : stOp f = opFUNC ∨ stOp f = opSCALE) (h : Rounds w) (idle : l.elems = []) {val : Num} {ops : List Num}
    (made : stageOne v r 0 f (v.taken r b l) (v.element r b l) = finishValue v 0 f (v.taken r b l) (v.element r b l) val ops) :
    (laneBeat v r b 0 false l).Gives b (v.code w 1 b l val) := by
  obtain ⟨value, single, notRound⟩ := isValueStage_of opF
  obtain ⟨fresh, exact_⟩ := finishValue_final (f := f) val ops (taken_fresh (v := v) (r := r) (b := b) idle) plain.2.2 once
    (final_two stages value (isValueStage_eq h.1))
  rw [laneBeat_two stages plain.1 h.pass single h.single idle (h.outStage_two stages notRound) made, stageOne_round h.1]
  exact (stageRound_gives fresh h.scale h.source exact_ rfl rfl).map

/-- A lane after a beat of a chain that keeps statistics alone. -/
theorem laneBeat_statistic (stages : v.ch.stages = [w]) (plain : Plain w) (none_ : v.ch.out = 0) (single : stOp w ≠ opPAIRROT
    ∧ stOp w ≠ opRECOMB)
    (idle : l.elems = []) {ctx : RowCtx} (made : (stageOne v r 0 w (v.taken r b l) (v.element r b l)).1.lane =
        (v.taken r b l).lane.holding ctx) :
    (laneBeat v r b 0 false l).lane = l.holding ctx := by
  have emits : v.ch.emits = false := Bool.and_eq_false_iff.2 (.inl (decide_eq_false (not_not.2 none_)))
  refine (congrArg LaneW.lane (laneBeat_one stages plain.1 single idle (.inr emits))).trans ((congrArg (Lane.filled · []) made).trans ?_)
  rw [(taken_fresh idle).lane]
  exact congrArg (Lane.holding · ctx) (Lane.filled_idle idle)

end Sys2Proof.Machine

/-! ### The statistics of one beat, and what the work of the lanes leaves beside them -/

namespace Sys2Proof.Machine

variable {v : LaneEnv} {r b idx w n : Nat} {x : LaneW} {el : Elem} {l : Lane} {u : Tile} {c : Chain} {a : Active} {h : HeldOp} {s t : State}

/-- A context that has met operand `y` (R120). -/
noncomputable def RowCtx.noting (c : RowCtx) (y : Num) : RowCtx :=
  { c with nanSeen := c.nanSeen || y.isNan, infSeen := c.infSeen || y.isInf }

/-- The pivot after operand `y` (R116). -/
noncomputable def RowCtx.risen (c : RowCtx) (y : Num) : BitVec 24 :=
  if y.isFinite = false then c.pivot
  else if c.pivot = 0x800000 then BitVec.ofInt 24 (pivotOf y)
  else BitVec.ofInt 24 (max c.pivot.toInt (pivotOf y))

/-- A context after operand `y` of PIVOT. -/
noncomputable def RowCtx.pivoted (c : RowCtx) (y : Num) : RowCtx := { c.noting y with pivot := c.risen y }

/-- A context after operand `y` of EXTREMA with both bounds (R43). -/
noncomputable def RowCtx.bounded (c : RowCtx) (y : Num) : RowCtx :=
  { c.noting y with
    maxv := toF32 (Num.max (ofF32 c.maxv) (ofF32 (toF32 y)))
    minv := toF32 (Num.min (ofF32 c.minv) (ofF32 (toF32 y))) }

theorem RowCtx.risen_finite {c : RowCtx} {y : Num} (fin : y.isFinite = true) :
    BitVec.ofInt 24 (if c.pivot = KNONE then pivotOf y else max c.pivot.toInt (pivotOf y)) = c.risen y :=
  (apply_ite (BitVec.ofInt 24) _ _ _).trans (if_neg (fun e => Bool.false_ne_true (e.symm.trans fin))).symm

theorem stagePivot_lane (present : el.absent = false) (y : Num) :
    (stagePivot v idx w x el y).1.lane = x.lane.holding (x.lane.ctx.pivoted y) := by
  have in_ : ¬ el.absent = true := Bool.eq_false_iff.1 present
  refine (congrArg (fun p : LaneW × Elem => p.1.lane) (if_neg in_)).trans ?_
  cases fin : y.isFinite with
  | true =>
    exact (congrArg (fun p : LaneW × Elem => p.1.lane) (if_pos rfl)).trans
      (congrArg (fun k => x.lane.holding { x.lane.ctx.noting y with pivot := k }) (RowCtx.risen_finite fin))
  | false =>
    exact (congrArg (fun p : LaneW × Elem => p.1.lane) (if_neg Bool.false_ne_true)).trans
      (congrArg (fun k => x.lane.holding { x.lane.ctx.noting y with pivot := k }) (if_pos fin).symm)

theorem stageExtrema_lane (present : el.absent = false) (maxs : bit w 24 = true) (mins : bit w 25 = true) (y : Num) :
    (stageExtrema w x el y).lane = x.lane.holding (x.lane.ctx.bounded y) := by
  have in_ : ¬ el.absent = true := by rw [present]; exact Bool.false_ne_true
  unfold stageExtrema
  rw [if_neg in_, maxs, mins]
  rfl

/-- A stage reads the beat's number in bond format (R40, R153). -/
theorem source_element (source : stIn w = 0) : toBond (v.source r (v.element r b l) (stIn w) (stArgi w)) = toBond (v.number r b) := by
  rw [source]
  exact toBond_toBond _

theorem laneBeat_pivot (stages : v.ch.stages = [w]) (plain : Plain w) (none_ : v.ch.out = 0) (op : stOp w = opPIVOT) (idle : l.elems = []) :
    (laneBeat v r b 0 false l).lane = l.holding (l.ctx.pivoted (toBond (v.number r b))) := by
  refine laneBeat_statistic stages plain none_ (by rw [op]; decide) idle ?_
  rw [stageOne_pivot op, stagePivot_lane rfl, source_element plain.2.1, (taken_fresh idle).lane]
  rfl

theorem laneBeat_extrema (stages : v.ch.stages = [w]) (plain : Plain w) (none_ : v.ch.out = 0) (op : stOp w = opEXTREMA)
    (maxs : bit w 24 = true) (mins : bit w 25 = true) (idle : l.elems = []) :
    (laneBeat v r b 0 false l).lane = l.holding (l.ctx.bounded (toBond (v.number r b))) := by
  refine laneBeat_statistic stages plain none_ (by rw [op]; decide) idle ?_
  rw [stageOne_extrema op, stageExtrema_lane rfl maxs mins, source_element plain.2.1, (taken_fresh idle).lane]
  rfl

/-! The state beside the bays. -/

/-- `s` with the bays, runs, NaN record, open choices and samples of `t`. -/
noncomputable def State.aside (s t : State) : State := { s with bays := t.bays, runs := t.runs, nan := t.nan, free := t.free, spare :=
    t.spare }

/-- What goes on beside the bays. -/
def Aside (s t : State) : Prop := t = s.aside t ∧ t.bays = s.bays

theorem State.aside_trans {r : State} (h : t = s.aside t) (k : r = t.aside r) : r = s.aside r :=
  k.trans ((congrArg (State.aside · r) h).trans rfl)

theorem Aside.trans {r : State} (h : Aside s t) (k : Aside t r) : Aside s r := ⟨State.aside_trans h.1 k.1, k.2.trans h.2⟩

theorem State.sample_aside : Aside s (s.sample n u c a) := by
  unfold State.sample
  extract_lets
  split
  · exact ⟨rfl, rfl⟩
  · exact ⟨rfl, rfl⟩

theorem State.nanTraps_aside (ctxOf : Nat → Nat) (cs : List (Nat × Nat × Nat × Nat)) : Aside s (s.nanTraps n u ctxOf cs) := by
  unfold State.nanTraps
  generalize firstTrap cs = o
  induction o <;> exact ⟨rfl, rfl⟩

theorem State.latchSamples_aside (ws : List LaneW) : Aside s (s.latchSamples n u c ws) := by
  unfold State.latchSamples
  generalize (s.bay n).act = o
  induction o <;> exact ⟨rfl, rfl⟩

/-- Lanes without records leave their work beside the bays. -/
theorem State.collect_aside {ws : List LaneW} (silent : ∀ w ∈ ws, w.cells = []) : Aside s (s.collect n u c h ws) := by
  unfold State.collect
  extract_lets rows runs cols colRuns colTraps traps s1 s2
  have first : Aside s s1 := ⟨rfl, rfl⟩
  have same : s2.memWrite (n / 8) ⟨.record n u.seq, (ws.map LaneW.cells).flatten⟩ = s2 :=
    if_pos (List.isEmpty_iff.2 (List.flatten_eq_nil_iff.2 (List.forall_mem_map.2 silent)))
  rw [same]
  exact (first.trans (State.nanTraps_aside ..)).trans (State.latchSamples_aside ws)

/-- The lanes after their work `f`. -/
noncomputable def Bay.worked (b : Bay) (ws : List LaneW) : Bay := { b with lanes := ws.map LaneW.lane }

/-- The state after the lanes have worked, before the output leaves. -/
noncomputable def State.collected (s : State) (n : Nat) (u : Tile) (c : Chain) (h : HeldOp) (ws : List LaneW) : State :=
  (s.mapBay n fun b => b.worked ws).collect n u c h ws

theorem State.collected_only {ws : List LaneW} (silent : ∀ w ∈ ws, w.cells = []) :
    s.collected n u c h ws = s.aside (s.collected n u c h ws) :=
  State.aside_trans (t := s.mapBay n fun b => b.worked ws) rfl (State.collect_aside silent).1

theorem State.collected_lanes {ws : List LaneW} (silent : ∀ w ∈ ws, w.cells = []) (lt : n < s.bays.length) :
    (s.collected n u c h ws).bay n = (s.bay n).worked ws :=
  (congrArg (List.getD · n Bay.reset) (State.collect_aside silent).2).trans (s.bay_mapBay_same n _ lt)

theorem State.workLanes_eq {f : Nat → LaneW → LaneW} {ws : List LaneW} (work : (s.bay n).lanes.mapIdx (fun r l => f r (.start l)) = ws) :
    s.workLanes n u c h f = (s.collected n u c h ws).emitAll n u c ws := by
  subst work
  rfl

end Sys2Proof.Machine

/-! ### One beat in one lane pass -/

namespace Sys2Proof.Machine

variable {v : LaneEnv} {b n : Nat} {u : Tile} {c : Chain} {a : Active} {h : HeldOp} {s t : State}

/-- A tile's group of one beat, in the only lane pass of a chain without SEG and without a second input, before its last beat. -/
structure State.OneBeat (s : State) (n : Nat) (a : Active) (u : Tile) (c : Chain) (h : HeldOp) : Prop where
  passes : c.passes = 1
  group : c.group = 1
  tile : c.oneTile = false
  pass : a.pass = 0
  more : a.group + 1 < u.nbeats
  held : (s.bay n).held = some h
  rows : (s.bay n).lanes ≠ []
  idle : ∀ l ∈ (s.bay n).lanes, l.elems = []
  chain : chainOf u.words = c
  seg : c.has opSEG = false

/-- A chain without a stage of an opcode names none of them for a service of the tile. -/
theorem Chain.find?_none {op : Nat} (none_ : c.has op = false) (q : Nat → Bool) : (c.stages.find? fun w => stOp w == op && q w) = none :=
  List.find?_eq_none.2 fun w mem named => List.any_eq_false.1 none_ w mem (Bool.and_eq_true_iff.1 named).1

theorem State.OneBeat.segctx (one : s.OneBeat n a u c h) : c.segctx = none := Chain.find?_none one.seg _

theorem State.OneBeat.beats (one : s.OneBeat n a u c h) : a.beats u c = [a.group] := by
  unfold Active.beats
  rw [one.group, Nat.mul_one, Nat.mul_one, Nat.min_eq_left one.more.le, Nat.add_sub_cancel_left]
  rfl

/-- What the lanes of bay `n` make of the beat. -/
noncomputable def State.beatOn (s : State) (n : Nat) (u : Tile) (a : Active) : List LaneW :=
  (s.bay n).lanes.mapIdx fun r l => laneBeat (s.laneEnv n u a) r a.group 0 false l

/-- The state after the lanes have worked on the beat, before its output leaves. -/
noncomputable def State.beaten (s : State) (n : Nat) (u : Tile) (c : Chain) (a : Active) (h : HeldOp) : State :=
  (s.sample n u c a).collected n u c h (s.beatOn n u a)

theorem State.OneBeat.silent (one : s.OneBeat n a u c h) (w : LaneW) (mem : w ∈ s.beatOn n u a) : w.cells = [] := by
  obtain ⟨r, lt, rfl⟩ := List.mem_mapIdx.1 mem
  exact laneBeat_silent ((congrArg (Chain.has · opSEG) one.chain).trans one.seg) _ 0 false _

theorem State.sample_bay : (s.sample n u c a).bay n = s.bay n := congrArg (List.getD · n Bay.reset) State.sample_aside.2

theorem State.sample_env : (s.sample n u c a).laneEnv n u a = s.laneEnv n u a :=
  (congrArg (State.laneEnv · n u a) State.sample_aside.1).trans rfl

theorem State.OneBeat.beaten_only (one : s.OneBeat n a u c h) : s.beaten n u c a h = s.aside (s.beaten n u c a h) :=
  State.aside_trans State.sample_aside.1 (State.collected_only one.silent)

theorem State.OneBeat.beaten_bay (one : s.OneBeat n a u c h) : (s.beaten n u c a h).bay n = (s.bay n).worked (s.beatOn n u a) :=
  (State.collected_lanes one.silent (State.lt_of_held ((congrArg Bay.held State.sample_bay).trans one.held))).trans
    (congrArg (Bay.worked · (s.beatOn n u a)) State.sample_bay)

theorem State.OneBeat.beaten_groups (one : s.OneBeat n a u c h) : (s.beaten n u c a h).groups = s.groups :=
  (congrArg State.groups one.beaten_only).trans rfl

/-- Outside segment contexts, a beat meets no segment's end. -/
theorem State.segBoundary_eq {ps : List Nat} {p : Nat} (seg : c.segctx = none) : s.segBoundary n u c v ps p b = s := by
  unfold State.segBoundary
  rw [seg]

/-- One beat on the lanes, outside segment contexts. -/
theorem State.issueBeat_eq {ps : List Nat} (seg : c.segctx = none) (held : (s.bay n).held = some h) :
    s.issueBeat n u c a ps 0 b =
      (s.workLanes n u c h fun r x => laneBeat (s.laneEnv n u a) r b 0 false x.lane).beatEnd n u c (s.laneEnv n u a) h 0 b := by
  unfold State.issueBeat
  simp only [State.segBoundary_eq seg, held, seg]
  rfl

/-- The group of one beat in the only pass. -/
theorem State.OneBeat.issueGroup_beat (one : s.OneBeat n a u c h) (beats : List Nat) :
    t.issueGroup n u c a beats = beats.foldl (fun s b => s.issueBeat n u c a [0] 0 b) t :=
  (if_neg (Bool.eq_false_iff.1 one.tile)).trans ((if_neg (Option.not_isSome_iff_eq_none.2 one.segctx)).trans
    (congrArg (fun p => beats.foldl (fun s b => s.issueBeat n u c a [p] p b) t) one.pass))

theorem State.OneBeat.issueGroup_eq (one : s.OneBeat n a u c h) : (s.sample n u c a).issueGroup n u c a (a.beats u c) =
    ((s.beaten n u c a h).emitAll n u c (s.beatOn n u a)).beatEnd n u c (s.laneEnv n u a) h 0 a.group := by
  have work : ((s.sample n u c a).bay n).lanes.mapIdx (fun r l => laneBeat (s.laneEnv n u a) r a.group 0 false l) = s.beatOn n u a :=
    congrArg (fun b : Bay => b.lanes.mapIdx _) State.sample_bay
  rw [one.beats, one.issueGroup_beat, List.foldl_cons, List.foldl_nil,
    State.issueBeat_eq one.segctx ((congrArg Bay.held State.sample_bay).trans one.held), State.sample_env, State.workLanes_eq work]
  rfl

/-! The chunks. -/

theorem Tile.leafIndex_eq (seg : c.segctx = none) {e : Nat} (le : u.e0 ≤ e) : u.leafIndex c e = e := by
  unfold Tile.leafIndex Chain.chunkBeats
  rw [seg]
  exact (congrArg (u.e0 + ·) (Nat.div_one _)).trans (Nat.add_sub_cancel' le)

theorem div_succ_eq_iff (e size : Nat) : e / size ≠ (e + 1) / size ↔ (e + 1) % size = 0 := by
  rw [Nat.succ_div, ← Nat.dvd_iff_mod_eq_zero]
  by_cases dvd : size ∣ e + 1
  · rw [if_pos dvd]
    exact iff_of_true (Nat.ne_of_lt (Nat.lt_succ_self _)) dvd
  · rw [if_neg dvd]
    exact iff_of_false (fun ne => ne rfl) dvd

theorem State.OneBeat.chunk_ends_iff (one : s.OneBeat n a u c h) (size : Nat) :
    (u.leafIndex c (u.e0 + a.group) / size ≠ u.leafIndex c (u.e0 + a.group + 1) / size ∨ a.group + 1 = u.nbeats)
      ↔ (u.elem0.toNat + a.group + 1) % size = 0 := by
  rw [Tile.leafIndex_eq one.segctx (Nat.le_add_right ..), Tile.leafIndex_eq (e := u.e0 + a.group + 1) one.segctx (Nat.le_add_right _
      (a.group + 1)),
    div_succ_eq_iff]
  exact or_iff_left one.more.ne

/-- The beat of the group ends a chunk of a bonded tile. -/
def State.ChunkEnds (s : State) (a : Active) (u : Tile) : Prop :=
  u.bgrp ≠ 0 ∧ (u.elem0.toNat + a.group + 1) % (s.group u.bgrp.toNat).chunkSize = 0

/-- Before the last beat, the end of a beat is the end of a chunk or nothing. -/
theorem State.OneBeat.beatEnd_more (one : s.OneBeat n a u c h) : t.beatEnd n u c v h 0 a.group =
    if u.bgrp = 0 ∨ 0 + 1 ≠ c.passes then t
    else if u.leafIndex c (u.e0 + a.group) / (t.group u.bgrp.toNat).chunkSize ≠ u.leafIndex c (u.e0 + a.group + 1) / (t.group
        u.bgrp.toNat).chunkSize
        ∨ a.group + 1 = u.nbeats then t.chunkEnd n u c v h (u.e0 + a.group)
    else t :=
  ite_congr rfl (fun _ => rfl) fun _ => if_neg (Nat.ne_of_lt one.more)

theorem State.OneBeat.chunkEnds_iff (one : s.OneBeat n a u c h) (same : t.groups = s.groups) (bonded : u.bgrp ≠ 0) :
    (u.leafIndex c (u.e0 + a.group) / (t.group u.bgrp.toNat).chunkSize ≠ u.leafIndex c (u.e0 + a.group + 1) / (t.group
        u.bgrp.toNat).chunkSize
      ∨ a.group + 1 = u.nbeats) ↔ s.ChunkEnds a u :=
  have group : t.group u.bgrp.toNat = s.group u.bgrp.toNat := congrArg (sget Bgrp.zero · u.bgrp.toNat) same
  (one.chunk_ends_iff _).trans ((Eq.to_iff (congrArg (fun g : Bgrp => (u.elem0.toNat + a.group + 1) % g.chunkSize = 0) group)).trans
    (and_iff_right bonded).symm)

/-- At the end of a beat, a chunk may end. -/
theorem State.OneBeat.beatEnd_inside (one : s.OneBeat n a u c h) (same : t.groups = s.groups) (inside : ¬ s.ChunkEnds a u) :
    t.beatEnd n u c v h 0 a.group = t := by
  rw [one.beatEnd_more]
  split
  · rfl
  · rename_i bonded
    exact if_neg (mt (one.chunkEnds_iff same fun alone => bonded (.inl alone)).1 inside)

theorem State.OneBeat.beatEnd_ends (one : s.OneBeat n a u c h) (same : t.groups = s.groups) (ends : s.ChunkEnds a u) :
    t.beatEnd n u c v h 0 a.group = t.chunkEnd n u c v h (u.e0 + a.group) :=
  one.beatEnd_more.trans ((if_neg fun out => out.elim ends.1 fun ne => ne one.passes.symm).trans
    (if_pos ((one.chunkEnds_iff same ends.1).2 ends)))

/-! ISSUE_GROUP. -/

/-- The group and pass move on. -/
noncomputable def Bay.advances (b : Bay) (a : Active) : Bay := { b with act := b.act.map fun x => { a with outBeats := x.outBeats } }

/-- The state after an issue group, before the end of its tile. -/
noncomputable def State.issued (s : State) (n : Nat) (u : Tile) (c : Chain) (a : Active) : State :=
  ((s.sample n u c a).issueGroup n u c a (a.beats u c)).mapBay n fun b => b.advances (a.advance u c)

/-- The group after its work has left state `t` and no chunk ended. -/
theorem State.OneBeat.issued_inside (one : s.OneBeat n a u c h) (inside : ¬ s.ChunkEnds a u)
    (emits : (s.beaten n u c a h).emitAll n u c (s.beatOn n u a) = t) (same : t.groups = s.groups) :
    s.issued n u c a = t.mapBay n fun b => b.advances (a.advance u c) :=
  congrArg (State.mapBay · n fun b => b.advances (a.advance u c))
    (one.issueGroup_eq.trans ((congrArg (State.beatEnd · n u c _ h 0 a.group) emits).trans (one.beatEnd_inside same inside)))

/-- Has the tile issued everything? -/
def Active.Finished (a : Active) (u : Tile) (c : Chain) : Prop :=
  a.ended = true ∨ (c.oneTile = true ∧ c.passes ≤ a.pass) ∨ (c.oneTile = false ∧ (u.beats.toNat + c.group - 1) / c.group ≤ a.group)

/-- Does the group wait for a beat, or for room on SO? -/
def State.Waits (s : State) (n : Nat) (a : Active) (u : Tile) (c : Chain) : Prop :=
  u.data.length < min ((a.group + 1) * c.group) u.beats.toNat
  ∨ (c.secen = true ∧ u.secondRead < min ((a.group + 1) * c.group) u.beats.toNat) ∨ 32 ≤ (s.bay n).soq.length

theorem Active.done_iff : a.done u c = true ↔ a.Finished u c := by
  refine Bool.or_eq_true_iff.trans (or_congr_right ?_)
  cases tile : c.oneTile with
  | false => exact decide_eq_true_iff.trans ⟨fun le => .inr ⟨rfl, le⟩, fun le => le.elim (fun h => Bool.noConfusion h.1) And.right⟩
  | true => exact decide_eq_true_iff.trans ⟨fun le => .inl ⟨rfl, le⟩, fun le => le.elim And.right fun h => Bool.noConfusion h.1⟩

/-- The state after an issue group, and after the end of its tile where it is the last. -/
noncomputable def State.grouped (s : State) (n : Nat) (u : Tile) (c : Chain) (a : Active) : State :=
  if (a.advance u c).done u c then (s.issued n u c a).finishTile n u c a else s.issued n u c a

/-- Does the group not go now? -/
noncomputable def State.holds (s : State) (n : Nat) (a : Active) (u : Tile) (c : Chain) : Bool :=
  a.done u c || decide (u.data.length < min ((a.group + 1) * c.group) u.nbeats)
    || (c.secen && decide (u.secondRead < min ((a.group + 1) * c.group) u.nbeats)) || decide (32 ≤ (s.bay n).soq.length)

theorem State.holds_iff : s.holds n a u c = true ↔ a.Finished u c ∨ s.Waits n a u c := by
  refine Bool.or_eq_true_iff.trans ((or_congr (Bool.or_eq_true_iff.trans (or_congr (Bool.or_eq_true_iff.trans (or_congr Active.done_iff
    decide_eq_true_iff)) (Bool.and_eq_true_iff.trans (and_congr_right fun _ => decide_eq_true_iff)))) decide_eq_true_iff).trans ?_)
  exact or_assoc.trans or_assoc

theorem issueGroup_eq {n : Fin 32} (active : (s.bay n.val).activeTile = some (a, u)) : exec (.issueGroup n) s =
    if s.holds n.val a u (chainOf u.words) then .next s else .next (s.grouped n.val u (chainOf u.words) a) := by
  show (match (s.bay n.val).activeTile with
    | none => Host.Outcome.next s
    | some (a, u) => if s.holds n.val a u (chainOf u.words) then .next s else .next (s.grouped n.val u (chainOf u.words) a)) = _
  rw [active]

theorem issueGroup_waits {n : Fin 32} (active : (s.bay n.val).activeTile = some (a, u))
    (waits : a.Finished u (chainOf u.words) ∨ s.Waits n.val a u (chainOf u.words)) : exec (.issueGroup n) s = .next s :=
  (issueGroup_eq active).trans (if_pos (State.holds_iff.2 waits))

theorem issueGroup_next {n : Fin 32} (active : (s.bay n.val).activeTile = some (a, u)) (goes : ¬ a.Finished u (chainOf u.words))
    (ready : ¬ s.Waits n.val a u (chainOf u.words)) : exec (.issueGroup n) s = .next (s.grouped n.val u (chainOf u.words) a) :=
  (issueGroup_eq active).trans (if_neg fun waits => (State.holds_iff.1 waits).elim goes ready)

end Sys2Proof.Machine

/-! ### The output of one beat -/

namespace Sys2Proof.Machine

variable {b n w : Nat} {u : Tile} {c : Chain} {s t : State} {ks : List Nat}

/-- What the lanes hand over that give codes `ks` for beat `b`. -/
noncomputable def beatOuts (b : Nat) (ks : List Nat) : List (List (Nat × Nat × List (Nat × Nat))) := ks.map fun k => [(b, k, [])]

/-- The output beats that the first lane names. -/
noncomputable def firstBeats (ws : List LaneW) : List Nat :=
  match ws with
  | [] => []
  | w :: _ => w.outs.map Prod.fst

theorem firstBeats_eq {α : Type} {l : List α} {F : α → LaneW} {k : α → Nat} (gives : ∀ p ∈ l, (F p).Gives b (k p)) (some_ : l ≠ []) :
    firstBeats (l.map F) = [b] := by
  cases l with
  | nil => exact absurd rfl some_
  | cons p l => exact congrArg (List.map Prod.fst) (gives p (.head _)).1

theorem State.emitAll_one {α : Type} {l : List α} {F : α → LaneW} {k : α → Nat} (gives : ∀ p ∈ l, (F p).Gives b (k p)) (some_ : l ≠ [])
    (emits : c.emits = true) : t.emitAll n u c (l.map F) = t.emitBeat n u c (beatOuts b (l.map k)) ((l.map k).map fun _ => []) b := by
  have outs : (l.map F).map LaneW.outs = beatOuts b (l.map k) :=
    (List.map_map.trans (List.map_congr_left fun p mem => (gives p mem).1)).trans (List.map_map (g := fun k => [(b, k, [])])).symm
  have scales : (l.map F).map LaneW.scales = (l.map k).map fun _ => [] :=
    (List.map_map.trans (List.map_congr_left fun p mem => (gives p mem).2)).trans (List.map_map (g := fun _ => [])).symm
  unfold State.emitAll
  rw [if_pos emits, outs, scales]
  exact congrArg (fun js : List Nat => js.foldl _ t) (firstBeats_eq gives some_)

theorem beatOuts_find (b : Nat) (ks : List Nat) :
    (beatOuts b ks).map (fun os => (os.find? fun o => o.1 == b).map Prod.snd) = ks.map fun k => some (k, []) :=
  List.map_map.trans (List.map_congr_left fun _ _ => congrArg (Option.map Prod.snd) (List.find?_cons_of_pos (beq_self_eq_true b)))

theorem beatOuts_codes (b : Nat) (ks : List Nat) :
    ((beatOuts b ks).map fun os => (os.find? fun o => o.1 == b).map Prod.snd).map (fun o => (o.getD (0, [])).1) = ks :=
  (congrArg (List.map _) (beatOuts_find b ks)).trans (List.map_map.trans (List.map_id ks))

theorem beatOuts_rises (b : Nat) (ks : List Nat) :
    ((beatOuts b ks).map fun os => (os.find? fun o => o.1 == b).map Prod.snd).map (fun o => (o.getD (0, [])).2) = ks.map fun _ => [] :=
  (congrArg (List.map _) (beatOuts_find b ks)).trans List.map_map

theorem rescaleTokens_none (seq : W32) (ks : List Nat) : rescaleTokens seq (ks.map fun _ => []) = [] := by
  have flat : (ks.map fun _ => ([] : List (Nat × Nat))).flatten = [] := List.flatten_eq_nil_iff.2 (List.forall_mem_map.2 fun _ _ => rfl)
  unfold rescaleTokens
  rw [flat]
  exact congrArg (List.map _) (List.mergeSort_nil (r := fun a b => decide (a ≤ b)))

/-- One output beat is counted. -/
noncomputable def Bay.counts (b : Bay) : Bay := { b with act := b.act.map fun a => { a with outBeats := a.outBeats + 1 } }

/-- The lanes' words for an aperture. -/
noncomputable def Bay.words (b : Bay) (f : Nat → Lane → Lane) : Bay := { b with lanes := b.lanes.mapIdx f }

/-- An output beat with the codes given, as it leaves and is counted. -/
noncomputable def State.sendCodes (s : State) (n : Nat) (u : Tile) (c : Chain) (ks : List Nat) (rises : List (List (Nat × Nat))) (sc :
    List (Option Nat))
    (j : Nat) : State :=
  State.mapBay (if c.toSo then s.pushSo n (
      (if j = 0 then ((s.ownedRuns u c).filter fun x => x.2.2).map fun x => tokenSkip u.seq x.1 x.2.1 else [])
      ++ (if sc.any Option.isSome then [tokenScales u.seq (sc.map fun o => o.getD 0)] else [])
      ++ rescaleTokens u.seq rises
      ++ [⟨0, packBeat c.outFmt ks⟩]) else s) n Bay.counts

/-- The cells of an output beat. -/
noncomputable def State.beatCells (s : State) (u : Tile) (c : Chain) (ks : List Nat) (sc : List (Option Nat)) (j : Nat) : List (Nat ×
    Byte × Byte) :=
  (ks.zipIdx.map fun p => if (s.aperture (argRow (u.arg c.outarg) p.2)).isSome then []
    else bitCells (argRow (u.arg c.outarg) p.2) (fmtWidth c.outFmt * j) (fmtWidth c.outFmt) p.1).flatten
  ++ match c.outStage with
    | some w =>
      if stScale w = 1 then (sc.zipIdx.map fun p => match p.1 with
        | some code => leCells (argAddr (u.arg (bits w 30 28)) + p.2 + 256 * ((u.e0 + j) / 32)) code 1
        | none => []).flatten
      else []
    | none => []

/-- An output beat with the codes given, as it goes to memory. -/
noncomputable def State.storeCodes (s : State) (n : Nat) (u : Tile) (c : Chain) (ks : List Nat) (sc : List (Option Nat)) (j : Nat) :
    State :=
  (s.mapBay n fun b => b.words fun r l => if (s.aperture (argRow (u.arg c.outarg) r)).isSome
    then { l with xpWords := l.xpWords ++ [BitVec.ofNat 32 (ks.getD r 0)] } else l).memWrite (n / 8)
      ⟨.tile n u.seq, s.beatCells u c ks sc j⟩

/-- An output beat with the codes given. -/
noncomputable def State.emitCodes (s : State) (n : Nat) (u : Tile) (c : Chain) (ks : List Nat) (rises : List (List (Nat × Nat))) (sc :
    List (Option Nat))
    (j : Nat) : State := if c.toMem then (s.sendCodes n u c ks rises sc j).storeCodes n u c ks sc j else s.sendCodes n u c ks rises sc j

theorem beatOuts_scales (b : Nat) (ks : List Nat) :
    (ks.map fun _ => ([] : List (Nat × Nat))).map (fun ss => (ss.find? fun p => p.1 == b).map Prod.snd) = ks.map fun _ => none :=
        List.map_map

theorem State.emitBeat_eq : t.emitBeat n u c (beatOuts b ks) (ks.map fun _ => []) b =
    t.emitCodes n u c ks (ks.map fun _ => []) (ks.map fun _ => none) b :=
  congrFun (congr (congrArg₂ (t.emitCodes n u c) (beatOuts_codes b ks) (beatOuts_rises b ks)) (beatOuts_scales b ks)) b

/-- An output beat on SO alone, of a chain without skip tokens. -/
theorem State.emitBeat_so (out : c.out = 1) (skip : c.skiptok = none) :
    t.emitBeat n u c (beatOuts b ks) (ks.map fun _ => []) b = (t.pushSo n [⟨0, packBeat c.outFmt ks⟩]).mapBay n Bay.counts := by
  have so : c.toSo = true := congrArg (fun o => o == 1 || o == 3) out
  have mem : ¬ c.toMem = true := Bool.eq_false_iff.1 (congrArg (fun o => o == 2 || o == 3) out)
  have none_ : t.ownedRuns u c = [] := by unfold State.ownedRuns State.skipCells; rw [skip]; rfl
  have scNone : (ks.map fun _ => (none : Option Nat)).any Option.isSome = false :=
    List.any_eq_false.2 (List.forall_mem_map.2 fun _ _ => Bool.false_ne_true)
  refine (State.emitBeat_eq.trans (if_neg mem)).trans (congrArg (State.mapBay · n Bay.counts) ((if_pos so).trans ?_))
  rw [none_, scNone, rescaleTokens_none]
  exact congrArg (fun l => t.pushSo n (l ++ [] ++ [] ++ _)) (ite_self [])

/-- A write of an output beat to rows in no aperture, without scale codes. -/
theorem State.beatCells_plain {sc : List (Option Nat)} (stage : c.outStage = some w) (scale : stScale w = 0)
    (plain : ∀ r, t.aperture (argRow (u.arg c.outarg) r) = none) : t.beatCells u c ks sc b =
      (ks.zipIdx.map fun p => bitCells (argRow (u.arg c.outarg) p.2) (fmtWidth c.outFmt * b) (fmtWidth c.outFmt) p.1).flatten := by
  unfold State.beatCells
  rw [stage]
  simp only [plain, scale]
  exact List.append_nil _

/-- An output beat to memory alone, of a ROUND without scale codes. -/
theorem State.emitBeat_mem (out : c.out = 2) (stage : c.outStage = some w) (scale : stScale w = 0)
    (plain : ∀ r, t.aperture (argRow (u.arg c.outarg) r) = none) : ∃ f,
    t.emitBeat n u c (beatOuts b ks) (ks.map fun _ => []) b = ((t.mapBay n Bay.counts).mapBay n fun b => b.words f).memWrite (n / 8)
      ⟨.tile n u.seq, (ks.zipIdx.map fun p => bitCells (argRow (u.arg c.outarg) p.2) (fmtWidth c.outFmt * b) (fmtWidth c.outFmt)
          p.1).flatten⟩ := by
  have so : ¬ c.toSo = true := Bool.eq_false_iff.1 (congrArg (fun o => o == 1 || o == 3) out)
  have sent : t.sendCodes n u c ks (ks.map fun _ => []) (ks.map fun _ => none) b = t.mapBay n Bay.counts :=
    congrArg (State.mapBay · n Bay.counts) (if_neg so)
  have cells := State.beatCells_plain (t := t.mapBay n Bay.counts) (ks := ks) (sc := ks.map fun _ => none) (b := b) stage scale plain
  refine ⟨_, (State.emitBeat_eq.trans (if_pos (congrArg (fun o => o == 2 || o == 3) out))).trans
    ((congrArg (State.storeCodes · n u c ks _ b) sent).trans (congrArg (fun cells => State.memWrite _ (n / 8) ⟨.tile n u.seq,
        cells⟩) cells))⟩

theorem bitCells_ne_nil {x off w v : Nat} (hw : 0 < w) : bitCells x off w v ≠ [] := by
  have some_ : 0 < cdiv (off % 8 + w) 8 := Nat.div_pos (Nat.le_sub_one_of_lt (Nat.lt_add_of_pos_left (Nat.add_pos_right _ hw)))
      (Nat.succ_pos 7)
  intro none_
  rw [bitCells, List.map_eq_nil_iff, List.range_eq_nil] at none_
  exact some_.ne' none_

theorem fmtWidth_pos {f : Nat} (hf : f < 0xC) : 0 < fmtWidth f := by
  revert f
  decide

end Sys2Proof.Machine

/-! ### The end of a chunk -/

namespace Sys2Proof.Machine

variable {v : LaneEnv} {e n w : Nat} {u : Tile} {c : Chain} {h : HeldOp} {s t y : State}

/-- The state with root `x` merged, before its frame leaves (R136). -/
noncomputable def State.rooted (s : State) (x : BondEntry) : State :=
  let g := s.group x.bgrp.toNat
  let c := s.ctx x.ctx.toNat
  let m := mergeNode c.pivot c.psum x.pivot x.psum
  let left := g.rootsLeft - 1
  (s.setCtx x.ctx.toNat { c with
    pivot := m.1, psum := m.2, nanSeen := c.nanSeen || x.nanSeen, infSeen := c.infSeen || x.infSeen }).setGroup x.bgrp.toNat
      { g with rootsLeft := left, done := g.done || decide (left = 0) }

/-- The frame of root `x` (R223). -/
noncomputable def State.rootFrame (s : State) (x : BondEntry) (g : Bgrp) : State :=
  s.sendFrame (leafFrame s.xp.shard { x with
    ctx := BitVec.ofNat 18 (x.ctx.toNat - g.base.toNat)
    level := BitVec.ofNat 5 (clog2 g.n.toNat)
    node := BitVec.ofNat 24 ((g.c0.toNat - g.ownerC0.toNat) / 2 ^ clog2 g.n.toNat) })

theorem State.mergeRoot_aside (x : BondEntry) : (s.aside y).mergeRoot x = (s.mergeRoot x).aside y := by
  have eq (s : State) : s.mergeRoot x = if (s.group x.bgrp.toNat).send then (s.rooted x).rootFrame x (s.group x.bgrp.toNat) else
      s.rooted x := rfl
  rw [eq, eq]
  exact Eq.symm (apply_ite (State.aside · y) _ _ _)

/-- The node in the store, or beside a full one (R138). -/
noncomputable def State.stored (s : State) (x : BondEntry) : State :=
  if s.store.length < storeSize then s.withNodes (s.store ++ [x]) s.formed s.spilled else s.withNodes s.store (s.formed ++ [x]) s.spilled

/-- The node in its place in a tree of `k` leaves (R134, R136). -/
noncomputable def State.placed (s : State) (k : Nat) (x : BondEntry) : State :=
  let p := promote k 25 x.level.toNat x.node.toNat
  let x := { x with level := BitVec.ofNat 5 p.1, node := BitVec.ofNat 24 p.2 }
  if p.1 = clog2 k then s.mergeRoot x else s.stored x

/-- The tree does not read what stands beside. -/
theorem State.addNode_aside (x : BondEntry) : (s.aside y).addNode x = (s.addNode x).aside y := by
  have stored (x : BondEntry) : (s.aside y).stored x = (s.stored x).aside y := Eq.symm (apply_ite (State.aside · y) _ _ _)
  have placed (k : Nat) : (s.aside y).placed k x = (s.placed k x).aside y :=
    (ite_congr rfl (fun _ => State.mergeRoot_aside _) fun _ => stored _).trans (Eq.symm (apply_ite (State.aside · y) _ _ _))
  exact placed _

theorem State.addLeaf_aside (g x q : Nat) (pivot : BitVec 24) (psum : W32) (nan inf : Bool) :
    (s.aside y).addLeaf g x q pivot psum nan inf = (s.addLeaf g x q pivot psum nan inf).aside y := State.addNode_aside _

theorem State.foldl_aside {α : Type} {f : State → α → State} (step : ∀ s p, f (s.aside y) p = (f s p).aside y) (l : List α) :
    ∀ s : State, l.foldl f (s.aside y) = (l.foldl f s).aside y := by
  induction l with
  | nil => exact fun _ => rfl
  | cons p l ih => exact fun s => (congrArg (l.foldl f) (step s p)).trans (ih _)

/-- The lanes' leaves of chunk `q` (R127). -/
noncomputable def State.giveLeaves (s : State) (u : Tile) (h : HeldOp) (q : Nat) (lanes : List (Lane × Nat)) : State :=
  lanes.foldl (fun s p => s.addLeaf u.bgrp.toNat (h.ctxOf p.2) q p.1.ctx.pivot p.1.ctx.psum p.1.leafNan p.1.leafInf) s

theorem State.giveLeaves_aside (q : Nat) (lanes : List (Lane × Nat)) :
    (s.aside y).giveLeaves u h q lanes = (s.giveLeaves u h q lanes).aside y :=
  State.foldl_aside (fun _ _ => State.addLeaf_aside ..) lanes s

/-- A lane whose chunk is over (R127). -/
noncomputable def Lane.afresh (l : Lane) : Lane :=
  { l with
    ctx := { l.ctx with pivot := KNONE, psum := 0 }
    sums := l.sums.map fun x => { x with kEnd := KNONE, kPrev := KNONE }
    leafNan := false
    leafInf := false }

/-- Two states with the same bond trees. -/
def SameTree (s t : State) : Prop := s.ctxs = t.ctxs ∧ s.groups = t.groups ∧ s.store = t.store ∧ s.formed = t.formed ∧ s.xp = t.xp

theorem closeRow_none (stages : c.stages = [w]) (sum : stOp w ≠ opSUM) (x : LaneW) : closeRow v e c.indexed x = x := by
  rw [Chain.indexed, stages]
  exact if_neg sum

theorem worked_start (l : List Lane) : (l.mapIdx fun _ l => LaneW.start l).map LaneW.lane = l := by
  refine List.ext_getElem? fun i => ?_
  rw [List.getElem?_map, List.getElem?_mapIdx, Option.map_map]
  exact Option.map_id'

/-- A change of every lane of the bay. -/
theorem State.lanes_mapBay {f : Bay → Bay} {g : Lane → Lane} (at_ : ∀ b : Bay, (f b).lanes = b.lanes.map g) :
    ((s.mapBay n f).bay n).lanes = (s.bay n).lanes.map g := by
  by_cases lt : n < s.bays.length
  · exact (congrArg Bay.lanes (s.bay_mapBay_same n f lt)).trans (at_ _)
  · have out : s.bay n = Bay.reset := List.getD_eq_default _ _ (not_lt.1 lt)
    rw [State.mapBay, List.modify_eq_self (not_lt.1 lt)]
    exact (congrArg Bay.lanes out).trans (congrArg (fun b : Bay => b.lanes.map g) out).symm

/-- The rest of a chunk's end, once the lanes have closed it. -/
noncomputable def State.leaveChunk (s : State) (n : Nat) (u : Tile) (c : Chain) (h : HeldOp) (q : Nat) : State :=
  ((s.giveLeaves u h q (if c.segctx.isSome && h.segCtx.isNone then [] else (s.bay n).lanes.zipIdx)).writePivots n u c q
    ((s.bay n).lanes.map fun l => l.ctx.pivot)).mapBay n fun b => { b with lanes := b.lanes.map Lane.afresh }

theorem State.leaveChunk_leaves (aside : t = s.aside t) (seg : c.segctx = none) (q : Nat) :
    SameTree (t.leaveChunk n u c h q) (s.giveLeaves u h q (t.bay n).lanes.zipIdx)
      ∧ ((t.leaveChunk n u c h q).bay n).lanes = (t.bay n).lanes.map Lane.afresh := by
  have given : t.giveLeaves u h q (if c.segctx.isSome && h.segCtx.isNone then [] else (t.bay n).lanes.zipIdx)
      = (s.giveLeaves u h q (t.bay n).lanes.zipIdx).aside t := by
    rw [seg]
    exact (congrArg (State.giveLeaves · u h q (t.bay n).lanes.zipIdx) aside).trans (State.giveLeaves_aside q _)
  have wrote (pivots : List (BitVec 24)) : ∃ mpq mpWait, ((s.giveLeaves u h q (t.bay n).lanes.zipIdx).aside t).writePivots n u c q pivots
      = ((s.giveLeaves u h q (t.bay n).lanes.zipIdx).aside t).withQueues mpq mpWait :=
    ⟨_, _, State.foldl_writes _ (fun t _ => t.memWrite_only _ _) _ _⟩
  unfold State.leaveChunk
  rw [given]
  obtain ⟨mpq, mpWait, eq⟩ := wrote ((t.bay n).lanes.map fun l => l.ctx.pivot)
  rw [eq]
  exact ⟨⟨rfl, rfl, rfl, rfl, rfl⟩, State.lanes_mapBay fun _ => rfl⟩

/-- A chunk end of a chain of one stage that keeps neither sums nor segments, and sends nothing. -/
theorem State.chunkEnd_leaves (aside : t = s.aside t) (stages : c.stages = [w]) (sum : stOp w ≠ opSUM) (seg : c.segctx =
    none) (out : c.out = 0)
    (lt : n < t.bays.length) :
    SameTree (t.chunkEnd n u c v h e) (s.giveLeaves u h (u.leafIndex c e / (t.group u.bgrp.toNat).chunkSize) (t.bay n).lanes.zipIdx)
      ∧ ((t.chunkEnd n u c v h e).bay n).lanes = (t.bay n).lanes.map Lane.afresh := by
  have silent : ∀ x ∈ (t.bay n).lanes.mapIdx fun _ l => LaneW.start l, x.cells = [] := fun x mem => by
    obtain ⟨r, lt, rfl⟩ := List.mem_mapIdx.1 mem
    rfl
  have closed : t.chunkEnd n u c v h e = (t.collected n u c h ((t.bay n).lanes.mapIdx fun _ l => LaneW.start l)).leaveChunk n u c h _ :=
    congrArg (State.leaveChunk · n u c h (u.leafIndex c e / (t.group u.bgrp.toNat).chunkSize))
      ((State.workLanes_eq (congrArg (List.mapIdx · _) (funext fun _ => funext fun l => closeRow_none stages sum (.start l)))).trans
        (if_neg (Bool.eq_false_iff.1 (Bool.and_eq_false_iff.2 (.inl (decide_eq_false (not_not.2 out)))))))
  have lanes : ((t.collected n u c h ((t.bay n).lanes.mapIdx fun _ l => LaneW.start l)).bay n).lanes = (t.bay n).lanes :=
    (congrArg Bay.lanes (State.collected_lanes silent lt)).trans (worked_start _)
  have left := State.leaveChunk_leaves (n := n) (u := u) (h := h) (State.aside_trans aside (State.collected_only (n := n) (u := u) (c :=
      c) (h := h) silent))
    seg (u.leafIndex c e / (t.group u.bgrp.toNat).chunkSize)
  rw [lanes] at left
  rw [closed]
  exact left

end Sys2Proof.Machine

/-! ### One issue group: its place in the order of R237, and its frame -/

namespace Sys2Proof.Machine

variable {n : Nat} {u : Tile} {c : Chain} {a : Active} {h : HeldOp} {s t : State}

theorem Bay.act_of_activeTile {b : Bay} (active : b.activeTile = some (a, u)) : b.act = some a := by
  unfold Bay.activeTile at active
  cases act : b.act with
  | none =>
    rw [act] at active
    exact absurd active.symm (Option.some_ne_none _)
  | some x =>
    rw [act] at active
    obtain ⟨t, -, eq⟩ := Option.map_eq_some_iff.1 active
    exact congrArg some (Prod.mk.inj eq).1

theorem State.lt_of_act_place {p : Active} (act : (s.bay n).act.map Active.place = some p) : n < s.bays.length :=
  State.lt_of_bay_ne fun e => Option.some_ne_none p (act.symm.trans (congrArg (fun b : Bay => b.act.map Active.place) e))

/-- A group of one beat before the last does not end its tile. -/
theorem State.OneBeat.grouped_eq (one : s.OneBeat n a u c h) (goes : ¬ a.Finished u c) : s.grouped n u c a = s.issued n u c a := by
  refine if_neg (mt Active.done_iff.1 ?_)
  have last : ¬ a.pass + 1 < c.passes := by rw [one.pass, one.passes]; exact Nat.lt_irrefl 1
  unfold Active.Finished Active.advance
  rw [one.tile, if_neg Bool.false_ne_true, if_neg last, one.group]
  refine not_or.2 ⟨fun ended => goes (.inl ended), not_or.2 ⟨fun tile => Bool.false_ne_true tile.1, fun le => ?_⟩⟩
  exact not_lt.2 ((Nat.div_one _).ge.trans le.2) one.more

/-- The order of the groups and passes (R237). -/
def Active.Follows (a y : Active) (u : Tile) (c : Chain) : Prop :=
  (c.oneTile = false → a.pass + 1 < c.passes → y.group = a.group ∧ y.pass = a.pass + 1)
  ∧ (c.oneTile = false → c.passes ≤ a.pass + 1 → y.group = a.group + 1 ∧ y.pass = 0)
  ∧ (c.oneTile = true → a.group + 1 < (u.beats.toNat + c.group - 1) / c.group → y.group = a.group + 1 ∧ y.pass = a.pass)
  ∧ (c.oneTile = true → (u.beats.toNat + c.group - 1) / c.group ≤ a.group + 1 → y.group = 0 ∧ y.pass = a.pass + 1)

theorem Active.advance_tile (tile : c.oneTile = true) : a.advance u c =
    if a.group + 1 < groupsOf u c then { a with group := a.group + 1 } else { a with group := 0, pass := a.pass + 1 } := if_pos tile

theorem Active.advance_beat (tile : c.oneTile = false) : a.advance u c =
    if a.pass + 1 < c.passes then { a with pass := a.pass + 1 } else { a with group := a.group + 1, pass := 0 } :=
  if_neg (Bool.eq_false_iff.1 tile)

theorem Active.advance_follows : a.Follows (a.advance u c) u c := by
  refine ⟨fun tile more => ?_, fun tile last => ?_, fun tile more => ?_, fun tile last => ?_⟩
  · rw [(Active.advance_beat tile).trans (if_pos more)]
    exact ⟨rfl, rfl⟩
  · rw [(Active.advance_beat tile).trans (if_neg (not_lt.2 last))]
    exact ⟨rfl, rfl⟩
  · rw [(Active.advance_tile tile).trans (if_pos more)]
    exact ⟨rfl, rfl⟩
  · rw [(Active.advance_tile tile).trans (if_neg (not_lt.2 last))]
    exact ⟨rfl, rfl⟩

/-- The advance moves the group and the pass alone. -/
theorem Active.advance_keeps {α : Type} (f : Active → α) (group : ∀ x k, f { x with group := k } = f x)
    (pass : ∀ x k, f { x with pass := k } = f x) : f (a.advance u c) = f a := by
  cases tile : c.oneTile with
  | true =>
    rw [Active.advance_tile tile, apply_ite f]
    exact (ite_congr rfl (fun _ => group a _) fun _ => (pass { a with group := 0 } _).trans (group a 0)).trans (ite_self _)
  | false =>
    rw [Active.advance_beat tile, apply_ite f]
    exact (ite_congr rfl (fun _ => pass a _) fun _ => (pass { a with group := a.group + 1 } 0).trans (group a _)).trans (ite_self _)

/-- The advance of the tile in the lanes, and nothing else of its bay. -/
theorem State.advances_place {y p : Active} (act : (s.bay n).act.map Active.place = some p) :
    ((s.mapBay n fun b => b.advances y).bay n).act.map Active.place = some y.place := by
  rw [s.bay_mapBay_same n _ (State.lt_of_act_place act)]
  obtain ⟨x, at_, -⟩ := Option.map_eq_some_iff.1 act
  exact congrArg (fun o : Option Active => (o.map fun x => { y with outBeats := x.outBeats }).map Active.place) at_

/-- The frame and the writes of an issue group, and where the tile stands behind it. -/
theorem State.grouped_works (chain : chainOf u.words = c) (act : (s.bay n).act = some a) : WorkFrame n u c s (s.grouped n u c a)
    ∧ ((s.grouped n u c a).bay n).act.map Active.place = some (a.advance u c).place := by
  have first : Works n u c s ((s.sample n u c a).issueGroup n u c a (a.beats u c)) :=
    (State.sample_works a).trans (State.issueGroup_works chain a _)
  have last : Works n u c (s.issued n u c a) (s.grouped n u c a) := .ite (fun _ => State.finishTile_works a) fun _ => .refl _
  exact ⟨(first.toWorkFrame.trans (State.mapBay_workFrame rfl)).trans last.toWorkFrame,
    last.act.trans (State.advances_place (first.act.trans (congrArg (Option.map Active.place) act)))⟩

end Sys2Proof.Machine

/-! ### Where the output of one beat goes -/

namespace Sys2Proof.Machine

variable {n w : Nat} {u : Tile} {c : Chain} {a : Active} {h : HeldOp} {s t : State} {k : Lane × Nat → Nat}

theorem mem_of_zipIdx {l : List Lane} {p : Lane × Nat} (mem : p ∈ l.zipIdx) : p.1 ∈ l :=
  (List.mem_zipIdx mem).2.2 ▸ List.getElem_mem _

/-- What a change of the bay keeps. -/
theorem State.part_mapBay {α : Type} (g : Bay → α) {f : Bay → Bay} (keeps : ∀ b : Bay, g (f b) = g b) :
    g ((s.mapBay n f).bay n) = g (s.bay n) := by
  by_cases lt : n < s.bays.length
  · exact (congrArg g (s.bay_mapBay_same n f lt)).trans (keeps _)
  · rw [State.mapBay, List.modify_eq_self (not_lt.1 lt)]

theorem State.advances_egress {y : Active} : ((s.mapBay n fun b => b.advances y).bay n).egress = (s.bay n).egress :=
  State.part_mapBay Bay.egress fun _ => rfl

theorem State.advances_lanes {y : Active} : ((s.mapBay n fun b => b.advances y).bay n).lanes = (s.bay n).lanes :=
  State.part_mapBay Bay.lanes fun _ => rfl

theorem State.counts_egress : ((s.mapBay n Bay.counts).bay n).egress = (s.bay n).egress := State.part_mapBay Bay.egress fun _ => rfl

theorem State.words_egress {f : Nat → Lane → Lane} : ((s.mapBay n fun b => b.words f).bay n).egress = (s.bay n).egress :=
  State.part_mapBay Bay.egress fun _ => rfl

/-- The rows' codes. -/
noncomputable def State.codes (s : State) (n : Nat) (k : Lane × Nat → Nat) : List Nat := (s.bay n).lanes.zipIdx.map k

/-- One beat that ROUND stage `w` turns into the codes `k` of the lanes. -/
structure State.Rounded (s : State) (n : Nat) (a : Active) (u : Tile) (c : Chain) (h : HeldOp) (w : Nat) (k : Lane × Nat → Nat) : Prop
    extends s.OneBeat n a u c h where
  inside : ¬ s.ChunkEnds a u
  stage : c.outStage = some w
  op : stOp w = opROUND
  fmt : stSfmt w < 0xC
  gives : ∀ p ∈ (s.bay n).lanes.zipIdx, (laneBeat (s.laneEnv n u a) p.2 a.group 0 false p.1).Gives a.group (k p)

namespace State.Rounded

theorem outFmt (round : s.Rounded n a u c h w k) : c.outFmt = stSfmt w := by
  unfold Chain.outFmt
  rw [round.stage]
  exact if_neg (by rw [round.op]; decide)

/-- The beat leaves. -/
theorem emitAll_eq (round : s.Rounded n a u c h w k) (out : c.out ≠ 0) : (s.beaten n u c a h).emitAll n u c (s.beatOn n u a)
    = (s.beaten n u c a h).emitBeat n u c (beatOuts a.group (s.codes n k)) ((s.codes n k).map fun _ => []) a.group := by
  have emits : c.emits = true := Bool.and_eq_true_iff.2 ⟨decide_eq_true out, decide_eq_true (round.outFmt.trans_lt round.fmt)⟩
  exact (congrArg (State.emitAll _ n u c) List.mapIdx_eq_zipIdx_map).trans
    (State.emitAll_one round.gives (List.zipIdx_eq_nil_iff.not.2 round.rows) emits)

theorem beaten_egress (round : s.Rounded n a u c h w k) : ((s.beaten n u c a h).bay n).egress = (s.bay n).egress :=
  (congrArg Bay.egress round.beaten_bay).trans rfl

/-- The codes of a beat leave on SO (R243). -/
theorem issued_sends (round : s.Rounded n a u c h w k) (out : c.out = 1) (skip : c.skiptok = none) :
    ((s.issued n u c a).bay n).egress = (s.bay n).egress ++ [⟨0, packBeat (stSfmt w) (s.codes n k)⟩] := by
  have issued := round.issued_inside round.inside ((round.emitAll_eq (by rw [out]; decide)).trans (State.emitBeat_so out skip))
      round.beaten_groups
  have lt := State.lt_of_held ((congrArg Bay.held round.beaten_bay).trans round.held)
  rw [issued, ← round.beaten_egress, ← round.outFmt]
  refine (State.advances_egress.trans State.counts_egress).trans ?_
  unfold State.pushSo
  rw [State.bay_mapBay_same _ n _ lt]
  exact Bay.egress_sends _ _

/-- The cells of a beat at the rows' places (R155, R162). -/
noncomputable def cells (a : Active) (u : Tile) (c : Chain) (w : Nat) (ks : List Nat) : List (Nat × Byte × Byte) :=
  (ks.zipIdx.map fun p => bitCells (argRow (u.arg c.outarg) p.2) (fmtWidth (stSfmt w) * a.group) (fmtWidth (stSfmt w)) p.1).flatten

theorem cells_ne_nil (round : s.Rounded n a u c h w k) : cells a u c w (s.codes n k) ≠ [] := fun nil => by
  obtain ⟨p, mem⟩ := List.exists_mem_of_ne_nil _
    (List.zipIdx_eq_nil_iff.not.2 (List.map_eq_nil_iff.not.2 (List.zipIdx_eq_nil_iff.not.2 round.rows)) : (s.codes n k).zipIdx ≠ [])
  exact bitCells_ne_nil (fmtWidth_pos round.fmt) (List.flatten_eq_nil_iff.1 nil _ (List.mem_map_of_mem mem))

/-- The codes of a beat go to memory (R155, R162). -/
theorem issued_stores (round : s.Rounded n a u c h w k) (out : c.out = 2) (scale : stScale w = 0) (four : s.mpq.length = 4)
    (plain : ∀ r, s.aperture (argRow (u.arg c.outarg) r) = none) :
    ((s.issued n u c a).bay n).egress = (s.bay n).egress ∧ s.Puts (s.issued n u c a) [⟨.tile n u.seq, cells a u c w (s.codes n k)⟩] := by
  obtain ⟨f, emit⟩ := State.emitBeat_mem (t := s.beaten n u c a h) (b := a.group) (n := n) (ks := s.codes n k) out round.stage scale
    fun r => ((congrArg (State.aperture · _) round.beaten_only).trans rfl).trans (plain r)
  rw [round.outFmt] at emit
  have wrote := State.memWrite_only (((s.beaten n u c a h).mapBay n Bay.counts).mapBay n fun b => b.words f) (n / 8)
    ⟨.tile n u.seq, cells a u c w (s.codes n k)⟩
  have issued := round.issued_inside round.inside ((round.emitAll_eq (by rw [out]; decide)).trans emit)
    (((congrArg State.groups wrote).trans rfl).trans round.beaten_groups)
  have sends := State.memWrite_sends_of_queues (s := s) (x := ((s.beaten n u c a h).mapBay n Bay.counts).mapBay n fun b => b.words f)
      (home := n / 8)
    (w := ⟨.tile n u.seq, cells a u c w (s.codes n k)⟩) ((congrArg State.mpq round.beaten_only).trans rfl) ((congrArg State.mpWait
        round.beaten_only).trans rfl) round.cells_ne_nil
  rw [issued]
  exact ⟨(State.advances_egress.trans ((congrArg (fun s : State => (s.bay n).egress) wrote).trans rfl)).trans
    ((State.words_egress.trans State.counts_egress).trans round.beaten_egress), (sends.puts four).1⟩

end State.Rounded

end Sys2Proof.Machine

/-! ### Statistics of one beat -/

namespace Sys2Proof.Machine

variable {n r w : Nat} {u : Tile} {c : Chain} {a : Active} {h : HeldOp} {s t : State} {l k : Lane}

/-- A chain without output leaves its work in the lanes. -/
theorem State.emitAll_none {ws : List LaneW} (out : c.out = 0) : s.emitAll n u c ws = s :=
  if_neg (Bool.eq_false_iff.1 (Bool.and_eq_false_iff.2 (.inl (decide_eq_false (not_not.2 out)))))

theorem State.OneBeat.beaten_lanes (one : s.OneBeat n a u c h) : ((s.beaten n u c a h).bay n).lanes = (s.beatOn n u a).map LaneW.lane :=
  (congrArg Bay.lanes one.beaten_bay).trans rfl

/-- What the beat leaves in lane `r`. -/
theorem State.OneBeat.issued_lane (one : s.OneBeat n a u c h) (out : c.out = 0) (inside : ¬ s.ChunkEnds a u) (at_ : (s.bay n).lanes[r]? =
    some l)
    (made : (laneBeat (s.laneEnv n u a) r a.group 0 false l).lane = k) : ((s.issued n u c a).bay n).lanes[r]? = some k := by
  rw [one.issued_inside inside (State.emitAll_none out) one.beaten_groups, State.advances_lanes, one.beaten_lanes, State.beatOn,
      List.getElem?_map,
    List.getElem?_mapIdx, at_]
  exact congrArg some made

/-- A lane after operand `y` of PIVOT. -/
noncomputable def Lane.pivoted (l : Lane) (y : Num) : Lane := { l with ctx := l.ctx.pivoted y }

/-- The lanes of bay `n` after a beat of PIVOT. -/
noncomputable def State.pivoted (s : State) (n : Nat) (u : Tile) (a : Active) : List Lane :=
  (s.bay n).lanes.zipIdx.map fun p => p.1.pivoted (toBond ((s.laneEnv n u a).number p.2 a.group))

theorem State.pivoted_at (at_ : (s.bay n).lanes[r]? = some l) :
    (s.pivoted n u a)[r]? = some (l.pivoted (toBond ((s.laneEnv n u a).number r a.group))) := by
  unfold State.pivoted
  rw [List.getElem?_map, List.getElem?_zipIdx, at_, Nat.zero_add]
  rfl

/-- A beat of PIVOT in a chain without output. -/
structure State.Pivots (s : State) (n : Nat) (a : Active) (u : Tile) (c : Chain) (h : HeldOp) (w : Nat) : Prop extends s.OneBeat n a u
    c h where
  out : c.out = 0
  stages : c.stages = [w]
  plain : Plain w
  op : stOp w = opPIVOT

theorem State.Pivots.beaten_lanes (pivots : s.Pivots n a u c h w) : ((s.beaten n u c a h).bay n).lanes = s.pivoted n u a := by
  have at_ (p : Lane × Nat) (mem : p ∈ (s.bay n).lanes.zipIdx) :=
    laneBeat_pivot (v := s.laneEnv n u a) (r := p.2) (b := a.group) ((congrArg Chain.stages pivots.chain).trans pivots.stages) pivots.plain
      ((congrArg Chain.out pivots.chain).trans pivots.out) pivots.op (pivots.idle p.1 (mem_of_zipIdx mem))
  rw [pivots.toOneBeat.beaten_lanes, State.beatOn, List.mapIdx_eq_zipIdx_map]
  exact List.map_map.trans (List.map_congr_left at_)

/-- The number of the chunk that the beat is in. -/
noncomputable def State.chunk (s : State) (a : Active) (u : Tile) : Nat := (u.elem0.toNat + a.group) / (s.group u.bgrp.toNat).chunkSize

theorem State.OneBeat.leafIndex_chunk (one : s.OneBeat n a u c h) (same : t.groups = s.groups) :
    u.leafIndex c (u.e0 + a.group) / (t.group u.bgrp.toNat).chunkSize = s.chunk a u :=
  congrArg₂ (fun e (g : Bgrp) => e / g.chunkSize) (Tile.leafIndex_eq one.segctx (Nat.le_add_right ..))
    (congrArg (sget Bgrp.zero · u.bgrp.toNat) same)

/-- The end of a chunk in a chain of PIVOT (R116, R127). -/
theorem State.Pivots.issued_leaves (pivots : s.Pivots n a u c h w) (ends : s.ChunkEnds a u) :
    SameTree (s.issued n u c a) (s.giveLeaves u h (s.chunk a u) (s.pivoted n u a).zipIdx)
      ∧ ((s.issued n u c a).bay n).lanes = (s.pivoted n u a).map Lane.afresh := by
  have one := pivots.toOneBeat
  have leaves := State.chunkEnd_leaves (v := s.laneEnv n u a) (e := u.e0 + a.group) (u := u) (h := h) one.beaten_only pivots.stages
    (by rw [pivots.op]; decide) one.segctx pivots.out (State.lt_of_held ((congrArg Bay.held one.beaten_bay).trans one.held))
  rw [one.leafIndex_chunk one.beaten_groups, pivots.beaten_lanes] at leaves
  have issued : s.issued n u c a = _ := congrArg (State.mapBay · n fun b => b.advances (a.advance u c))
    (one.issueGroup_eq.trans ((congrArg (State.beatEnd · n u c _ h 0 a.group) (State.emitAll_none pivots.out)).trans
      (one.beatEnd_ends one.beaten_groups ends)))
  rw [issued, State.advances_lanes]
  exact leaves

theorem zipIdx_map_zipIdx (l : List Lane) (g : Lane × Nat → Lane) : (l.zipIdx.map g).zipIdx = l.zipIdx.map fun p => (g p, p.2) := by
  refine List.ext_getElem? fun i => ?_
  rw [List.getElem?_zipIdx, List.getElem?_map, List.getElem?_map, List.getElem?_zipIdx, Option.map_map, Option.map_map, Option.map_map]
  rfl

/-- The leaves of the rows, by the lanes before the beat. -/
noncomputable def State.leafed (s : State) (n : Nat) (u : Tile) (a : Active) (h : HeldOp) : State :=
  (s.bay n).lanes.zipIdx.foldl (fun y p => y.addLeaf u.bgrp.toNat (h.ctxBase.toNat + p.2) (s.chunk a u)
    (p.1.ctx.risen (toBond ((s.laneEnv n u a).number p.2 a.group))) p.1.ctx.psum p.1.leafNan p.1.leafInf) s

theorem State.giveLeaves_eq (seg : h.segCtx = none) : s.giveLeaves u h (s.chunk a u) (s.pivoted n u a).zipIdx = s.leafed n u a h := by
  have home : h.ctxOf = fun r => h.ctxBase.toNat + r := funext fun r => by unfold HeldOp.ctxOf; rw [seg]
  unfold State.giveLeaves State.pivoted
  rw [zipIdx_map_zipIdx, List.foldl_map, home]
  rfl

end Sys2Proof.Machine

/-! ### Issue groups (R17, R237) -/

namespace Sys2Proof.Machine

variable {n w f r b : Nat} {u : Tile} {c : Chain} {a : Active} {h : HeldOp} {s t : State}

theorem Chain.has_one {op : Nat} (stages : c.stages = [w]) (ne : stOp w ≠ op) : c.has op = false := by
  unfold Chain.has
  rw [stages, List.any_cons, beq_false_of_ne ne]
  rfl

theorem Chain.has_two {op : Nat} (stages : c.stages = [f, w]) (first : stOp f ≠ op) (second : stOp w ≠ op) : c.has op = false := by
  unfold Chain.has
  rw [stages, List.any_cons, List.any_cons, beq_false_of_ne first, beq_false_of_ne second]
  rfl

section values

variable {v : LaneEnv} {l : Lane}

theorem source_prev (source : stIn f = 0) : v.source r (v.element r b l) (stIn f) (stArgi f) = toBond (v.number r b) := by
  rw [source]
  rfl

/-- FUNC and then ROUND (R77). -/
theorem laneBeat_func_round (stages : v.ch.stages = [f, w]) (once : v.ch.staged = false) (plain : Plain f) (rounds : Rounds w) (idle :
    l.elems = [])
    (op : stOp f = opFUNC) (free : bit f 29 = false) : (laneBeat v r b 0 false l).Gives b
      (v.code w 1 b l (evalFunc v.tables (bits f 28 24) (toBond (v.number r b)) 0)) := by
  rw [← source_prev (v := v) (r := r) (b := b) (l := l) plain.2.1]
  exact laneBeat_value_round stages once plain (.inl op) rounds idle (stageOne_func op free)

/-- SCALE and then ROUND (R160). -/
theorem laneBeat_scale_round (stages : v.ch.stages = [f, w]) (once : v.ch.staged = false) (plain : Plain f) (rounds : Rounds w) (idle :
    l.elems = [])
    (op : stOp f = opSCALE) (scale : bits f 26 24 = 0) (offset : bits f 32 30 = 0) (source : bits f 29 27 = 0) :
    (laneBeat v r b 0 false l).Gives b (v.code w 1 b l (Num.add (decide (stRnd w = 3))
      ((toBond (v.number r b)).mul (decode 0 (v.arg (stArgi f) % 2 ^ 32))) (decode 0 (v.arg 0 % 2 ^ 32)))) := by
  obtain ⟨ops, made⟩ := stageOne_scale (v := v) (r := r) (idx := 0) (x := v.taken r b l) (el := v.element r b l) op scale offset source
  obtain ⟨value, -, notRound⟩ := isValueStage_of (.inr op)
  have rdn : v.rdn 0 f = decide (stRnd w = 3) := by
    unfold LaneEnv.rdn LaneEnv.modeOf
    rw [once, final_two stages value (isValueStage_eq rounds.1), rounds.outStage_two stages notRound]
    rfl
  rw [source_prev plain.2.1, rdn] at made
  exact laneBeat_value_round stages once plain (.inr op) rounds idle made

end values

/-- A group of one beat and one pass, with lanes that hold no element. -/
def State.OneAlone (s : State) (n : Nat) (a : Active) (u : Tile) (c : Chain) : Prop :=
  c.passes = 1 ∧ c.group = 1 ∧ c.secen = false ∧ c.oneTile = false ∧ a.pass = 0
    ∧ a.group + 1 < u.beats.toNat ∧ (s.bay n).held.isSome = true ∧ (s.bay n).lanes ≠ [] ∧ ∀ l ∈ (s.bay n).lanes, l.elems = []

theorem State.OneAlone.oneBeat (alone : s.OneAlone n a u c) (chain : chainOf u.words = c) (seg : c.has opSEG = false) : ∃ h,
    s.OneBeat n a u c h := by
  obtain ⟨passes, group, -, tile, pass, more, held, rows, idle⟩ := alone
  obtain ⟨h, held⟩ := Option.isSome_iff_exists.1 held
  exact ⟨h, passes, group, tile, pass, more, held, rows, idle, chain, seg⟩

/-- ROUND of each element into a format of at most 32 bits (R53). -/
def RoundsElements (w : Nat) : Prop := stOp w = opROUND ∧ Plain w ∧ stScale w = 0 ∧ stRnd w < 5 ∧ stSfmt w < 0xC

theorem RoundsElements.rounds (rounds : RoundsElements w) : Rounds w := ⟨rounds.1, rounds.2.1, rounds.2.2.1⟩

/-- The codes that ROUND stage `i` makes of numbers `y` of the rows. -/
noncomputable def State.roundCode (s : State) (n : Nat) (u : Tile) (a : Active) (w i : Nat) (y : Nat → Num) (p : Lane × Nat) : Nat :=
  (s.laneEnv n u a).code w i a.group p.1 (y p.2)

/-- The codes leave on SO. -/
def State.SendsCodes (s t : State) (n : Nat) (u : Tile) (a : Active) (w i : Nat) (y : Nat → Num) : Prop :=
  (t.bay n).egress = (s.bay n).egress ++ [⟨0, packBeat (stSfmt w) (s.codes n (s.roundCode n u a w i y))⟩]

/-- The codes go to memory. -/
def State.StoresCodes (s t : State) (n : Nat) (u : Tile) (c : Chain) (a : Active) (w i : Nat) (y : Nat → Num) : Prop :=
  (t.bay n).egress = (s.bay n).egress ∧ s.Puts t [⟨.tile n u.seq, Rounded.cells a u c w (s.codes n (s.roundCode n u a w i y))⟩]

/-- The numbers of the beat in the rows (R174). -/
noncomputable def State.numbers (s : State) (n : Nat) (u : Tile) (a : Active) (r : Nat) : Num := (s.laneEnv n u a).number r a.group

/-- ROUND alone. -/
def State.RoundClause (s t : State) (n : Nat) (u : Tile) (c : Chain) (a : Active) : Prop :=
  s.OneAlone n a u c → ¬ s.ChunkEnds a u → ∀ w, c.stages = [w] → RoundsElements w →
    (c.out = 1 → s.SendsCodes t n u a w 0 (s.numbers n u a))
    ∧ (c.out = 2 → s.mpq.length = 4 → (∀ r, s.aperture (argRow (u.arg c.outarg) r) = none) → s.StoresCodes t n u c a w 0 (s.numbers n u a))

theorem State.roundClause (chain : chainOf u.words = c) (goes : ¬ a.Finished u c) : s.RoundClause (s.grouped n u c a) n u c a := by
  intro alone inside w stages rounds
  have not_op {op : Nat} (ne : opROUND ≠ op) : c.has op = false := Chain.has_one stages (rounds.1.trans_ne ne)
  obtain ⟨h, one⟩ := alone.oneBeat chain (not_op (by decide))
  have here : (s.laneEnv n u a).ch.stages = [w] := (congrArg Chain.stages chain).trans stages
  have round : s.Rounded n a u c h w (s.roundCode n u a w 0 (s.numbers n u a)) :=
    { one with
      inside := inside
      stage := (congrArg Chain.outStage chain).symm.trans (rounds.rounds.outStage_one here)
      op := rounds.1
      fmt := rounds.2.2.2.2
      gives := fun p mem => laneBeat_round here rounds.rounds (one.idle p.1 (mem_of_zipIdx mem)) }
  rw [one.grouped_eq goes]
  exact ⟨fun out => round.issued_sends out (Chain.find?_none (not_op (by decide)) _),
    fun out => round.issued_stores out rounds.rounds.2.2⟩

theorem not_tile_stage (op : stOp f = opFUNC ∨ stOp f = opSCALE) : stOp f ≠ opSEG ∧ stOp f ≠ opMASK := by
  rcases op with op | op
  · rw [op]; decide
  · rw [op]; decide

/-- The codes of a value stage and ROUND leave on SO. -/
theorem State.OneAlone.grouped_value_sends (alone : s.OneAlone n a u c) (chain : chainOf u.words = c) (goes : ¬ a.Finished u c)
    (inside : ¬ s.ChunkEnds a u) (stages : c.stages = [f, w]) (op : stOp f = opFUNC ∨ stOp f =
        opSCALE) (rounds : RoundsElements w) (out : c.out = 1)
    {y : Nat → Num}
    (gives : ∀ r (l : Lane), l.elems = [] →
      (laneBeat (s.laneEnv n u a) r a.group 0 false l).Gives a.group ((s.laneEnv n u a).code w 1 a.group l (y r))) :
    s.SendsCodes (s.grouped n u c a) n u a w 1 y := by
  obtain ⟨seg, mask⟩ := not_tile_stage op
  obtain ⟨h, one⟩ := alone.oneBeat chain (Chain.has_two stages seg (by rw [rounds.1]; decide))
  have round : s.Rounded n a u c h w (s.roundCode n u a w 1 y) :=
    { one with
      inside := inside
      stage := (congrArg Chain.outStage chain).symm.trans
        (rounds.rounds.outStage_two (v := s.laneEnv n u a) ((congrArg Chain.stages chain).trans stages) (isValueStage_of op).2.2)
      op := rounds.1
      fmt := rounds.2.2.2.2
      gives := fun p mem => gives p.2 p.1 (one.idle p.1 (mem_of_zipIdx mem)) }
  rw [one.grouped_eq goes]
  exact round.issued_sends out (Chain.find?_none (Chain.has_two stages mask (by rw [rounds.1]; decide)) _)

/-- FUNC or SCALE, and ROUND. -/
def State.ValueClause (s t : State) (n : Nat) (u : Tile) (c : Chain) (a : Active) : Prop :=
  s.OneAlone n a u c → ¬ s.ChunkEnds a u → c.out = 1 → c.staged = false → ∀ f w, c.stages = [f, w] → Plain f → RoundsElements w →
    (stOp f = opFUNC → bit f 29 = false → s.SendsCodes t n u a w 1 fun r =>
      evalFunc (s.laneEnv n u a).tables (bits f 28 24) (toBond (s.numbers n u a r)) 0)
    ∧ (stOp f = opSCALE → bits f 26 24 = 0 → bits f 32 30 = 0 → bits f 29 27 = 0 → s.SendsCodes t n u a w 1 fun r =>
      Num.add (decide (stRnd w = 3)) ((toBond (s.numbers n u a r)).mul (decode 0 (u.arg (stArgi f) % 2 ^ 32))) (decode 0 (u.arg 0 % 2 ^
          32)))

theorem State.valueClause (chain : chainOf u.words = c) (goes : ¬ a.Finished u c) : s.ValueClause (s.grouped n u c a) n u c a := by
  intro alone inside out once f w stages plain rounds
  have here : (s.laneEnv n u a).ch.stages = [f, w] := (congrArg Chain.stages chain).trans stages
  have staged : (s.laneEnv n u a).ch.staged = false := (congrArg Chain.staged chain).trans once
  exact ⟨fun op free => alone.grouped_value_sends chain goes inside stages (.inl op) rounds out fun _ _ idle =>
      laneBeat_func_round here staged plain rounds.rounds idle op free,
    fun op scale offset source => alone.grouped_value_sends chain goes inside stages (.inr op) rounds out fun _ _ idle =>
      laneBeat_scale_round here staged plain rounds.rounds idle op scale offset source⟩

/-- EXTREMA and PIVOT (R43, R116). -/
def State.StatisticClause (s t : State) (n : Nat) (u : Tile) (c : Chain) (a : Active) : Prop :=
  s.OneAlone n a u c → c.out = 0 → ∀ w, c.stages = [w] → Plain w → ∀ (r : Nat) (l : Lane), (s.bay n).lanes[r]? = some l →
    (¬ s.ChunkEnds a u → stOp w = opEXTREMA → bit w 24 = true → bit w 25 = true →
      (t.bay n).lanes[r]? = some { l with ctx := l.ctx.bounded (toBond (s.numbers n u a r)) })
    ∧ (¬ s.ChunkEnds a u → stOp w = opPIVOT → (t.bay n).lanes[r]? = some (l.pivoted (toBond (s.numbers n u a r))))
    ∧ (s.ChunkEnds a u → stOp w = opPIVOT → c.segctx = none → ∃ z, (t.bay n).lanes[r]? = some z
      ∧ z.ctx = (l.pivoted (toBond (s.numbers n u a r))).afresh.ctx)

theorem State.OneBeat.grouped_lane {l k : Lane} (one : s.OneBeat n a u c h) (goes : ¬ a.Finished u c) (out : c.out =
    0) (inside : ¬ s.ChunkEnds a u)
    (at_ : (s.bay n).lanes[r]? = some l)
    (made : l.elems = [] → (laneBeat (s.laneEnv n u a) r a.group 0 false l).lane = k) : ((s.grouped n u c a).bay n).lanes[r]? = some k := by
  rw [one.grouped_eq goes]
  exact one.issued_lane out inside at_ (made (one.idle l (List.mem_of_getElem? at_)))

theorem State.Pivots.grouped_lane {l : Lane} (pivots : s.Pivots n a u c h w) (goes : ¬ a.Finished u c) (ends : s.ChunkEnds a u)
    (at_ : (s.bay n).lanes[r]? = some l) :
    ((s.grouped n u c a).bay n).lanes[r]? = some (l.pivoted (toBond (s.numbers n u a r))).afresh := by
  rw [pivots.grouped_eq goes, (pivots.issued_leaves ends).2, List.getElem?_map, State.pivoted_at at_]
  rfl

theorem State.statisticClause (chain : chainOf u.words = c) (goes : ¬ a.Finished u c) : s.StatisticClause (s.grouped n u c a) n u c a := by
  intro alone out w stages plain r l at_
  have here : (s.laneEnv n u a).ch.stages = [w] := (congrArg Chain.stages chain).trans stages
  have silent : (s.laneEnv n u a).ch.out = 0 := (congrArg Chain.out chain).trans out
  have one {op : Nat} (is : stOp w = op) (ne : op ≠ opSEG) := alone.oneBeat chain (Chain.has_one stages (is.trans_ne ne))
  exact ⟨fun inside op maxs mins => (one op (by decide)).elim fun _ one => one.grouped_lane goes out inside at_
      (laneBeat_extrema here plain silent op maxs mins),
    fun inside op => (one op (by decide)).elim fun _ one => one.grouped_lane goes out inside at_ (laneBeat_pivot here plain silent op),
    fun ends op _ => (one op (by decide)).elim fun _ one => ⟨_, State.Pivots.grouped_lane ⟨one, out, stages, plain, op⟩ goes ends at_, rfl⟩⟩

/-- The leaves at the end of a chunk (R127, R134). -/
def State.LeafClause (s t : State) (n : Nat) (u : Tile) (c : Chain) (a : Active) : Prop :=
  s.OneAlone n a u c → s.ChunkEnds a u → c.out = 0 → ∀ w h, c.stages = [w] → Plain w → stOp w = opPIVOT → (s.bay n).held = some h →
    h.segCtx = none → SameTree t (s.leafed n u a h)

theorem State.leafClause (chain : chainOf u.words = c) (goes : ¬ a.Finished u c) : s.LeafClause (s.grouped n u c a) n u c a := by
  intro alone ends out w h stages plain op held seg
  obtain ⟨k, one⟩ := alone.oneBeat chain (Chain.has_one stages (by rw [op]; decide))
  obtain rfl := Option.some_inj.1 (one.held.symm.trans held)
  have tree := (State.Pivots.issued_leaves ⟨one, out, stages, plain, op⟩ ends).1
  rwa [one.grouped_eq goes, ← State.giveLeaves_eq seg]

theorem Tile.not_output {v : MemWrite} (quiet : c.toMem = false) (plain : ∀ w ∈ c.stages, stOp w = opROUND → bit w 31 = false) :
    ¬ (v.writer = .tile n u.seq ∧ (c.toMem = true ∨ ∃ w ∈ c.stages, stOp w = opROUND ∧ bit w 31 = true)) := by
  rintro ⟨-, mem | ⟨w, in_, op, scaleout⟩⟩
  · exact Bool.false_ne_true (quiet.symm.trans mem)
  · exact Bool.false_ne_true ((plain w in_ op).symm.trans scaleout)

theorem Tile.not_record {v : MemWrite} (seg : c.has opSEG = false) (topk : c.has opTOPK = false) (pivrecs : c.pivrecs = []) :
    ¬ (v.writer = .record n u.seq ∧ (c.has opSEG = true ∨ c.has opTOPK = true ∨ c.pivrecs ≠ [])) := by
  rintro ⟨-, has | has | some_⟩
  · exact Bool.false_ne_true (seg.symm.trans has)
  · exact Bool.false_ne_true (topk.symm.trans has)
  · exact some_ pivrecs

/-- The writes of a group (R143, R145, R155). -/
def State.WriteClause (s t : State) (n : Nat) (u : Tile) (c : Chain) : Prop :=
  s.mpq.length = 4 → ∃ ws, s.Puts t ws ∧ (∀ w ∈ ws, w.writer = .tile n u.seq ∨ w.writer = .record n u.seq)
    ∧ (c.toMem = false → (∀ w ∈ c.stages, stOp w = opROUND → bit w 31 = false) → ∀ w ∈ ws, w.writer = .record n u.seq)
    ∧ (c.has opSEG = false → c.has opTOPK = false → c.pivrecs = [] → ∀ w ∈ ws, w.writer = .tile n u.seq)

theorem WorkFrame.writeClause (frame : WorkFrame n u c s t) : s.WriteClause t n u c := by
  intro four
  obtain ⟨-, ws, put, may⟩ := frame.puts four
  exact ⟨ws, put, fun w mem => (may w mem).imp And.left And.left,
    fun quiet plain w mem => ((may w mem).resolve_left (Tile.not_output quiet plain)).1,
    fun seg topk pivrecs w mem => ((may w mem).resolve_right (Tile.not_record seg topk pivrecs)).1⟩

theorem Active.follows_of_place {y : Active} (at_ : y.place = (a.advance u c).place) : a.Follows y u c := by
  have group : y.group = (a.advance u c).group := (congrArg Active.group at_ :)
  have pass : y.pass = (a.advance u c).pass := (congrArg Active.pass at_ :)
  unfold Active.Follows
  rw [group, pass]
  exact Active.advance_follows

/-- What the tile in the lanes keeps behind a group of it. -/
theorem Active.kept_of_place {α : Type} {y : Active} (at_ : y.place = (a.advance u c).place) (f : Active → α)
    (group : ∀ x k, f { x with group := k } = f x) (pass : ∀ x k, f { x with pass := k } = f x) (place : ∀ x, f x.place = f x) : f y =
        f a :=
  (place y).symm.trans ((congrArg f at_).trans ((place _).trans (Active.advance_keeps f group pass)))

/-- What a group does. -/
def State.GroupClauses (s t : State) (n : Nat) (u : Tile) (c : Chain) (a y : Active) : Prop :=
  (t.bay n).act = some y ∧ y.seq = a.seq ∧ y.seed = a.seed ∧ y.step = a.step ∧ y.ended = a.ended
  ∧ (c.oneTile = false → a.pass + 1 < c.passes → y.group = a.group ∧ y.pass = a.pass + 1)
  ∧ (c.oneTile = false → c.passes ≤ a.pass + 1 → y.group = a.group + 1 ∧ y.pass = 0)
  ∧ (c.oneTile = true → a.group + 1 < (u.beats.toNat + c.group - 1) / c.group → y.group = a.group + 1 ∧ y.pass = a.pass)
  ∧ (c.oneTile = true → (u.beats.toNat + c.group - 1) / c.group ≤ a.group + 1 → y.group = 0 ∧ y.pass = a.pass + 1)
  ∧ s.RoundClause t n u c a ∧ s.ValueClause t n u c a ∧ s.StatisticClause t n u c a ∧ s.LeafClause t n u c a ∧ s.WriteClause t n u c
  ∧ t.bay n = { s.bay n with
      act := some y, lanes := (t.bay n).lanes, held := (t.bay n).held, soq := (t.bay n).soq, stalled := (t.bay n).stalled }
  ∧ (∀ i, i ≠ n → t.bay i = s.bay i) ∧ t = s.workedAs t

theorem State.grouped_clauses (chain : chainOf u.words = c) (act : (s.bay n).act = some a) (goes : ¬ a.Finished u c) :
    ∃ y, s.GroupClauses (s.grouped n u c a) n u c a y := by
  obtain ⟨frame, place⟩ := State.grouped_works chain act
  obtain ⟨y, act, at_⟩ := Option.map_eq_some_iff.1 place
  have kept {α : Type} (f : Active → α) := Active.kept_of_place at_ f
  obtain ⟨next, first, along, turn⟩ := Active.follows_of_place at_
  exact ⟨y, act, kept Active.seq (fun _ _ => rfl) (fun _ _ => rfl) fun _ => rfl, kept Active.seed (fun _ _ => rfl) (fun _ _ => rfl) fun
      _ => rfl,
    kept Active.step (fun _ _ => rfl) (fun _ _ => rfl) fun _ => rfl, kept Active.ended (fun _ _ => rfl) (fun _ _ => rfl) fun _ => rfl,
    next, first, along, turn, State.roundClause chain goes, State.valueClause chain goes, State.statisticClause chain goes,
    State.leafClause chain goes, frame.writeClause, act ▸ frame.bay, frame.others, frame.only⟩

/-- Settles O50: the lanes' work on a beat is evaluated for the chains that the statement names, and every operation of an issue group
keeps the tile's frame. -/
theorem issueGroups : Obligations.IssueGroups :=
  have clauses : ∀ (n : Fin 32) (a : Active) (u : Tile) (s : State), (s.bay n.val).activeTile = some (a, u) →
      (a.Finished u (chainOf u.words) ∨ s.Waits n.val a u (chainOf u.words) → exec (.issueGroup n) s = .next s)
      ∧ (¬ a.Finished u (chainOf u.words) → ¬ s.Waits n.val a u (chainOf u.words) → ∃ t y, exec (.issueGroup n) s = .next t
        ∧ s.GroupClauses t n.val u (chainOf u.words) a y) :=
    fun n _ _ _ active => ⟨issueGroup_waits active, fun goes ready =>
      (State.grouped_clauses (n := n.val) rfl (Bay.act_of_activeTile active) goes).elim fun y clauses =>
        ⟨_, y, issueGroup_next active goes ready, clauses⟩⟩
  clauses

end Sys2Proof.Machine
